-- ==== Sys2Proof/Word.lean ====
section
/-! DEFINITION. The words of the FT4: characters of the link, positions, and the small index types.
Every number the manual wraps is a bit vector; every count, size or distance is a `Nat`. -/

namespace Sys2Proof

/-- One character of the serial link (R167): 8 data bits. -/
abbrev Byte := BitVec 8

/-- A position, or another 32-bit number that wraps (R1, R59). -/
abbrev Pos := BitVec 32

/-- A lane, 1 to 4 in the manual: index 0 is lane 1. -/
abbrev Lane := Fin 4

/-- A feeding station, 1 to 4 in the manual: index 0 is station 1. -/
abbrev StationIx := Fin 4

/-- A stacker bin, 1 to 6 in the manual: index 0 is bin 1. -/
abbrev Bin := Fin 6

/-- A slot of the lot table, 1 to 8 in the manual: index 0 is slot 1. -/
abbrev LotSlot := Fin 8

/-- A program number, 0 to 31 as in the manual. -/
abbrev ProgramIx := Fin 32

/-- A set of lanes, in the form the link carries it: lane w at bit w - 1 (R171, R176). -/
abbrev LaneSet := BitVec 4

/-- A set of fault reasons, in the form the link carries it: reason r at bit r - 1 (R176). -/
abbrev ReasonSet := BitVec 7

end Sys2Proof
end

