-- ==== Sys2Proof/Config.lean ====
section
/-! DEFINITION. What one FT4 fixes: the sizes of its tables. The spec leaves no result of a command undefined, so there is
no free value here (INVENTORY.md, "What the manual leaves open"). -/

namespace Sys2Proof.Config

/-- Piece records in the pool (R58). -/
abbrev poolSize : Nat := 64

/-- Places of the slot table (R116). -/
abbrev slotPlaces : Nat := 32

/-- The most slots with an action other than REJECT (R116): the 32 places less the reserve of 4. -/
abbrev plainSlots : Nat := 28

/-- The most tags one CROSS slot names (R116). -/
abbrev crossTags : Nat := 4

/-- Entries of the Completion Log (R156). -/
abbrev logSize : Nat := 32

/-- The largest body of a frame (R168). -/
abbrev maxBody : Nat := 240

/-- The distance of the grant step from the grant-check mark (R44). -/
abbrev grantStepCounts : Int := 8

/-- The distance behind P at which a lane tail is discarded (R43). -/
abbrev tailAge : Int := 1000000

/-- Length of a speed window in ms (R5). -/
abbrev windowMs : Nat := 10

/-- The largest measured length (R83, R88). -/
abbrev maxLength : Nat := 16383

end Sys2Proof.Config
end

