-- ==== Sys2Proof/Syntax.lean ====
section
/-! DEFINITION. The commands of the FT4: one constructor of `Instr` for each row of spec/opcode_table.json, in the table's
order. A row that is a request of the host carries the address character and the body characters of its frame (R168, R171);
its code is the row's own. -/

namespace Sys2Proof

/-- The channel of the encoder that changes at a counted edge (R1). -/
inductive EncChannel where
  | a
  | b
  deriving DecidableEq, Repr

/-- The nine eyes: N1 to N4, X1 to X4 and K. -/
inductive Eye where
  | n (w : Lane)
  | x (w : Lane)
  | k
  deriving DecidableEq, Repr

/-- The output channels whose pulse end is the row PULSE_END; the ends of REL1 to REL4 are the row REL_PULSE_END (R113). -/
inductive OutChannel where
  | pf (w : Lane)
  | xf
  | rj
  | bf (b : Bin)
  | sr (b : Bin)
  deriving DecidableEq, Repr

/-- The positions of the KEY input (R35). -/
inductive KeyPos where
  | setup
  | run
  deriving DecidableEq, Repr

/-- The stage of a loss, and with it the eye group at which a record waits (R69, R92): entry, exit, stacker. -/
inductive Stage where
  | feed
  | iron
  | fold
  deriving DecidableEq, Repr

/-- The four zones (R66). -/
inductive Zone where
  | feed
  | iron
  | fold
  | drop
  deriving DecidableEq, Repr

/-- The rates of the baud switches (R167). -/
inductive Rate where
  | r19200
  | r38400
  | r57600
  | r115200
  deriving DecidableEq, Repr

/-- What the module samples when its supply is switched on: the encoder channels (R4), the eyes (R18), the load buttons
(R34), KEY, LINE RUN and ESTOP (R35), the address and baud switches (R167). -/
structure PowerSamples where
  encA : Bool
  encB : Bool
  dark : Vector Bool 9
  buttons : Vector Bool 4
  key : KeyPos
  lineRun : Bool
  estop : Bool
  address : Fin 32
  rate : Rate
  deriving DecidableEq, Repr

/-- The commands. -/
inductive Instr where
  | powerOn (smp : PowerSamples)
  | countedEdge (ch : EncChannel)
  | invalidTransition
  | speedWindowEnd
  | eyeDark (e : Eye)
  | eyeLight (e : Eye)
  | eyeAccept (e : Eye)
  | eyeBlocked (e : Eye)
  | loadPress (k : StationIx)
  | relPulseEnd (k : StationIx)
  | pulseEnd (c : OutChannel)
  | estopActive
  | estopInactive
  | keyChange (key : KeyPos)
  | lineRunChange (active : Bool)
  | grantStep
  | windowExpiry (stage : Stage)
  | foldSlotFire
  | rejectSlotFire
  | dropSlotFire
  | idleUnbind (slot : LotSlot)
  | storeWriteEnd
  | reply
  | lineQuiet (chars : List Byte)
  | frameDiscarded (frame : List Byte)
  | unknownRequest (addr code : Byte) (body : List Byte)
  | feedOn (addr : Byte) (body : List Byte)
  | feedOff (addr : Byte) (body : List Byte)
  | assign (addr : Byte) (body : List Byte)
  | stationEnableDisable (addr : Byte) (body : List Byte)
  | stationEnableEnable (addr : Byte) (body : List Byte)
  | stationEnableClear (addr : Byte) (body : List Byte)
  | stationRead (addr : Byte) (body : List Byte)
  | lotOpen (addr : Byte) (body : List Byte)
  | lotClose (addr : Byte) (body : List Byte)
  | lotRead (addr : Byte) (body : List Byte)
  | programWrite (addr : Byte) (body : List Byte)
  | programRead (addr : Byte) (body : List Byte)
  | lineSettingsWrite (addr : Byte) (body : List Byte)
  | lineSettingsRead (addr : Byte) (body : List Byte)
  | pieceRead (addr : Byte) (body : List Byte)
  | purge (addr : Byte) (body : List Byte)
  | purgeTag (addr : Byte) (body : List Byte)
  | logPeek (addr : Byte) (body : List Byte)
  | logTake (addr : Byte) (body : List Byte)
  | faultAck (addr : Byte) (body : List Byte)
  | status (addr : Byte) (body : List Byte)
  | quiet (addr : Byte) (body : List Byte)
  | resume (addr : Byte) (body : List Byte)
  | restart (addr : Byte) (body : List Byte)
  | echo (addr : Byte) (body : List Byte)
  | loadButtonRelease (k : StationIx)
  | powerFail
  | parityOrFramingError (chars : List Byte)
  | lengthAbove240 (addr code len : Byte)
  deriving DecidableEq, Repr

end Sys2Proof
end

