-- ==== Sys2Proof/WellFormed.lean ====
section
/-! DEFINITION. Which commands are well formed: the operands are ones that the row can have. -/

namespace Sys2Proof

/-- The codes of the request table (R171). -/
def knownCodes : List Byte :=
  [0x10, 0x11, 0x12, 0x13, 0x20, 0x21, 0x22, 0x30, 0x31, 0x32, 0x33, 0x40, 0x41, 0x50, 0x51, 0x52, 0x53, 0x60, 0x61, 0x62,
    0x63]

/-- A body that a frame can carry (R168). -/
def bodyFits (body : List Byte) : Bool := decide (body.length ≤ Config.maxBody)

/-- Characters that begin a frame and do not finish it (R169): fewer than three, or a length of at most 240 in the third and
fewer characters than that length calls for. -/
def unfinished (chars : List Byte) : Bool :=
  match chars with
  | _ :: _ :: len :: rest => decide (len.toNat ≤ Config.maxBody) && decide (rest.length < len.toNat + 2)
  | _ => true

/-- A complete run of frame characters: 5 + n of them with n, at most 240, in the third (R168). -/
def frameShaped (frame : List Byte) : Bool :=
  match frame with
  | _ :: _ :: len :: rest => decide (len.toNat ≤ Config.maxBody) && decide (rest.length = len.toNat + 2)
  | _ => false

/-- The operands are ones that the command's row can have. The three rows of STATION ENABLE, the two of FEED and the two of
PURGE share a code each, and the body says which row a frame is; a body that no row names (a wrong length, another value) is
the first row's. -/
def Instr.wellFormed : Instr → Bool
  | .lineQuiet chars => unfinished chars
  | .frameDiscarded frame => frameShaped frame
  | .parityOrFramingError chars => !chars.isEmpty && unfinished chars.dropLast
  | .lengthAbove240 _ _ len => decide (Config.maxBody < len.toNat)
  | .unknownRequest _ code body => bodyFits body && !knownCodes.contains code
  | .feedOn _ body => bodyFits body && decide (body ≠ [0])
  | .feedOff _ body => decide (body = [0])
  | .stationEnableDisable _ body =>
      bodyFits body && !(decide (body.length = 2) && (decide (body[1]? = some 1) || decide (body[1]? = some 2)))
  | .stationEnableEnable _ body => decide (body.length = 2) && decide (body[1]? = some 1)
  | .stationEnableClear _ body => decide (body.length = 2) && decide (body[1]? = some 2)
  | .purge _ body => bodyFits body && !(decide (body.length = 3) && decide (body[0]? = some 6))
  | .purgeTag _ body => decide (body.length = 3) && decide (body[0]? = some 6)
  | .assign _ body => bodyFits body
  | .stationRead _ body => bodyFits body
  | .lotOpen _ body => bodyFits body
  | .lotClose _ body => bodyFits body
  | .lotRead _ body => bodyFits body
  | .programWrite _ body => bodyFits body
  | .programRead _ body => bodyFits body
  | .lineSettingsWrite _ body => bodyFits body
  | .lineSettingsRead _ body => bodyFits body
  | .pieceRead _ body => bodyFits body
  | .logPeek _ body => bodyFits body
  | .logTake _ body => bodyFits body
  | .faultAck _ body => bodyFits body
  | .status _ body => bodyFits body
  | .quiet _ body => bodyFits body
  | .resume _ body => bodyFits body
  | .restart _ body => bodyFits body
  | .echo _ body => bodyFits body
  | .powerOn _ => true
  | .countedEdge _ => true
  | .invalidTransition => true
  | .speedWindowEnd => true
  | .eyeDark _ => true
  | .eyeLight _ => true
  | .eyeAccept _ => true
  | .eyeBlocked _ => true
  | .loadPress _ => true
  | .relPulseEnd _ => true
  | .pulseEnd _ => true
  | .estopActive => true
  | .estopInactive => true
  | .keyChange _ => true
  | .lineRunChange _ => true
  | .grantStep => true
  | .windowExpiry _ => true
  | .foldSlotFire => true
  | .rejectSlotFire => true
  | .dropSlotFire => true
  | .idleUnbind _ => true
  | .storeWriteEnd => true
  | .reply => true
  | .loadButtonRelease _ => true
  | .powerFail => true

end Sys2Proof
end

