-- ==== Sys2Proof/Decode.lean ====
section
/-! DEFINITION. The command a word of the opcode table spells, and, since the host of the line sends its commands as frames,
the reading of a frame as a request command and the frame of a request command (R168, R170, R171). -/

namespace Sys2Proof

/-- The command that a word of the table spells. The table gives no row any bits, so no word spells one. -/
def decodeTableWord (_nbits _w : Nat) : Option Instr := none

/-- One bit of the CRC-16: the register is shifted left, and combined with 0x1021 if the bit shifted out differs from the
data bit (R168). -/
def crcBit (reg : BitVec 16) (d : Bool) : BitVec 16 :=
  if reg.getLsbD 15 != d then (reg <<< 1) ^^^ 0x1021#16 else reg <<< 1

/-- One byte of the CRC-16, most significant bit first (R168). -/
def crcByte (reg : BitVec 16) (b : Byte) : BitVec 16 :=
  [7, 6, 5, 4, 3, 2, 1, 0].foldl (fun r i => crcBit r (b.getLsbD i)) reg

/-- The CRC-16 of a run of characters, from the register 0xFFFF, with no final inversion (R168). -/
def crc16 (bytes : List Byte) : BitVec 16 := bytes.foldl crcByte 0xFFFF#16

/-- A number of two characters, low byte first (R168). -/
def le16 (n : Nat) : List Byte := [BitVec.ofNat 8 n, BitVec.ofNat 8 (n / 256)]

/-- A number of four characters, low byte first (R168). -/
def le32 (n : Nat) : List Byte :=
  [BitVec.ofNat 8 n, BitVec.ofNat 8 (n / 256), BitVec.ofNat 8 (n / 65536), BitVec.ofNat 8 (n / 16777216)]

/-- The characters of a frame: address, code, length, body, CRC low byte first (R168). -/
def frameBytes (addr code : Byte) (body : List Byte) : List Byte :=
  let head := addr :: code :: BitVec.ofNat 8 body.length :: body
  head ++ le16 (crc16 head).toNat

/-- Whether the last two characters of a run are the CRC of the rest, low byte first (R170). -/
def crcGood (frame : List Byte) : Bool :=
  decide (frame.drop (frame.length - 2) = le16 (crc16 (frame.take (frame.length - 2))).toNat)

/-- The request command that a code and a body name (R171): the row of the code, and for FEED, STATION ENABLE and PURGE the
row that the body names. -/
def requestOf (addr code : Byte) (body : List Byte) : Instr :=
  if code = 0x10 then if body = [0] then .feedOff addr body else .feedOn addr body
  else if code = 0x11 then .assign addr body
  else if code = 0x12 then
    if body.length = 2 ∧ body[1]? = some 1 then .stationEnableEnable addr body
    else if body.length = 2 ∧ body[1]? = some 2 then .stationEnableClear addr body
    else .stationEnableDisable addr body
  else if code = 0x13 then .stationRead addr body
  else if code = 0x20 then .lotOpen addr body
  else if code = 0x21 then .lotClose addr body
  else if code = 0x22 then .lotRead addr body
  else if code = 0x30 then .programWrite addr body
  else if code = 0x31 then .programRead addr body
  else if code = 0x32 then .lineSettingsWrite addr body
  else if code = 0x33 then .lineSettingsRead addr body
  else if code = 0x40 then .pieceRead addr body
  else if code = 0x41 then
    if body.length = 3 ∧ body[0]? = some 6 then .purgeTag addr body else .purge addr body
  else if code = 0x50 then .logPeek addr body
  else if code = 0x51 then .logTake addr body
  else if code = 0x52 then .faultAck addr body
  else if code = 0x53 then .status addr body
  else if code = 0x60 then .quiet addr body
  else if code = 0x61 then .resume addr body
  else if code = 0x62 then .restart addr body
  else if code = 0x63 then .echo addr body
  else .unknownRequest addr code body

/-- The address, code and body of a request command; `none` for a command that is no request. -/
def requestParts : Instr → Option (Byte × Byte × List Byte)
  | .unknownRequest addr code body => some (addr, code, body)
  | .feedOn addr body => some (addr, 0x10, body)
  | .feedOff addr body => some (addr, 0x10, body)
  | .assign addr body => some (addr, 0x11, body)
  | .stationEnableDisable addr body => some (addr, 0x12, body)
  | .stationEnableEnable addr body => some (addr, 0x12, body)
  | .stationEnableClear addr body => some (addr, 0x12, body)
  | .stationRead addr body => some (addr, 0x13, body)
  | .lotOpen addr body => some (addr, 0x20, body)
  | .lotClose addr body => some (addr, 0x21, body)
  | .lotRead addr body => some (addr, 0x22, body)
  | .programWrite addr body => some (addr, 0x30, body)
  | .programRead addr body => some (addr, 0x31, body)
  | .lineSettingsWrite addr body => some (addr, 0x32, body)
  | .lineSettingsRead addr body => some (addr, 0x33, body)
  | .pieceRead addr body => some (addr, 0x40, body)
  | .purge addr body => some (addr, 0x41, body)
  | .purgeTag addr body => some (addr, 0x41, body)
  | .logPeek addr body => some (addr, 0x50, body)
  | .logTake addr body => some (addr, 0x51, body)
  | .faultAck addr body => some (addr, 0x52, body)
  | .status addr body => some (addr, 0x53, body)
  | .quiet addr body => some (addr, 0x60, body)
  | .resume addr body => some (addr, 0x61, body)
  | .restart addr body => some (addr, 0x62, body)
  | .echo addr body => some (addr, 0x63, body)
  | .powerOn _ => none
  | .countedEdge _ => none
  | .invalidTransition => none
  | .speedWindowEnd => none
  | .eyeDark _ => none
  | .eyeLight _ => none
  | .eyeAccept _ => none
  | .eyeBlocked _ => none
  | .loadPress _ => none
  | .relPulseEnd _ => none
  | .pulseEnd _ => none
  | .estopActive => none
  | .estopInactive => none
  | .keyChange _ => none
  | .lineRunChange _ => none
  | .grantStep => none
  | .windowExpiry _ => none
  | .foldSlotFire => none
  | .rejectSlotFire => none
  | .dropSlotFire => none
  | .idleUnbind _ => none
  | .storeWriteEnd => none
  | .reply => none
  | .lineQuiet _ => none
  | .frameDiscarded _ => none
  | .loadButtonRelease _ => none
  | .powerFail => none
  | .parityOrFramingError _ => none
  | .lengthAbove240 _ _ _ => none

/-- The request command that a complete frame with a good CRC spells; `none` for any other run of characters (R168, R170). -/
def requestOfFrame (frame : List Byte) : Option Instr :=
  match frame with
  | addr :: code :: _ :: rest =>
    if frameShaped frame && crcGood frame then some (requestOf addr code (rest.take (rest.length - 2))) else none
  | _ => none

/-- The frame of a request command; `none` for a command that is no request (R168, R171). -/
def Instr.frame? (i : Instr) : Option (List Byte) :=
  (requestParts i).map fun (addr, code, body) => frameBytes addr code body

end Sys2Proof
end

