-- ==== Sys2Proof/Machine/State.lean ====
section
/-! DEFINITION. The state of the FT4: one structure for each block of the manual's block diagram, holding what the block
owns, and State itself with the queue of waiting commands. INVENTORY.md lists every field with its rule. -/

namespace Sys2Proof.Machine

open Sys2Proof

/-! ### Line Position Unit -/

/-- Direction of travel (R1). -/
inductive Direction where
  | forward
  | reverse
  deriving DecidableEq, Repr

/-- The Line Position Unit (R1 to R7). `now` is the present time in ms since power-on; the manual's clocks (R5, R22, R114)
read it (log 1). -/
structure LineUnit where
  p : Pos
  dir : Direction
  encA : Bool
  encB : Bool
  hist : Vector Int 4
  advance : Int
  fullWindows : Nat
  windowEnd : Nat
  now : Nat
  deriving DecidableEq, Repr

/-! ### Eye Interface -/

/-- The five states of an eye (R9). -/
inductive EyeState where
  | light
  | pending
  | accepted
  | dropped
  | blocked
  deriving DecidableEq, Repr

/-- One eye: its input level, its state, C_lead and the dark travel count (R9). -/
structure EyeRec where
  dark : Bool
  state : EyeState
  cLead : Pos
  darkTravel : Nat
  deriving DecidableEq, Repr

/-! ### Station Unit -/

/-- The four states of a station (R19). -/
inductive StationState where
  | disabled
  | idle
  | loaded
  | releasing
  deriving DecidableEq, Repr

/-- A program and a lot id (R19). -/
structure Assignment where
  program : ProgramIx
  lotId : Nat
  deriving DecidableEq, Repr

/-- The next assignment: absent, a pair, or CLEAR (R19). -/
inductive NextAssignment where
  | absent
  | pair (a : Assignment)
  | clear
  deriving DecidableEq, Repr

/-- The waiting reasons (R24). -/
inductive WaitReason where
  | none
  | feedState
  | program
  | lane
  | lot
  | bin
  | pool
  | laneGap
  | lotGap
  | starving
  deriving DecidableEq, Repr

/-- A station record (R19). -/
structure Station where
  state : StationState
  current : Option Assignment
  next : NextAssignment
  snapshot : Option Assignment
  disablePending : Bool
  waitCount : Nat
  waitReason : WaitReason
  deriving DecidableEq, Repr

/-! ### Inputs, as filtered or taken (R20, R35) -/

/-- The filtered levels of the load buttons, KEY and LINE RUN, and the taken level of ESTOP (R20, R35). -/
structure Inputs where
  buttons : Vector Bool 4
  key : KeyPos
  lineRun : Bool
  estop : Bool
  deriving DecidableEq, Repr

/-! ### Release Sequencer -/

/-- The feed state (R35). -/
inductive FeedState where
  | off
  | run
  | pause
  | held
  deriving DecidableEq, Repr

/-- A lane tail that is not empty (R41). -/
structure Tail where
  pos : Pos
  lotId : Nat
  tag : Nat
  deriving DecidableEq, Repr

/-- The Release Sequencer: feed state, lane tails, scan start, grant-check mark. -/
structure Sequencer where
  feed : FeedState
  tails : Vector (Option Tail) 4
  scanStart : StationIx
  mark : Pos
  deriving DecidableEq, Repr

/-! ### Track Store -/

/-- FED: made at a grant; STRAY: made for an unexpected edge (R60). -/
inductive PieceKind where
  | fed
  | stray
  deriving DecidableEq, Repr

/-- The states of a record in use (R65). -/
inductive PieceState where
  | released
  | ironing
  | folding
  | dropping
  | donePending
  deriving DecidableEq, Repr

/-- The reject reasons (R62). -/
inductive RejectReason where
  | joined
  | short
  | stray
  | lateFold
  | xfConflict
  | exitMismatch
  | slotFull
  | foldMissed
  deriving DecidableEq, Repr

/-- The route, STACK or RETURN (R60). -/
inductive Route where
  | stack
  | back
  deriving DecidableEq, Repr

/-- The kinds of completion (R60). -/
inductive CompletionKind where
  | stacked
  | returned
  | rejected
  | lost
  | purged
  deriving DecidableEq, Repr

/-- A completion: kind, stage for LOST, position (R60, R69). -/
structure Completion where
  kind : CompletionKind
  stage : Option Stage
  pos : Pos
  deriving DecidableEq, Repr

/-- The lot of a FED record: its slot in the lot table and its id (R60). -/
structure LotRef where
  slot : LotSlot
  id : Nat
  deriving DecidableEq, Repr

/-- A piece record in use (R60). A pending action is the number of the slot's place in the slot table. -/
structure Piece where
  tag : Nat
  take : Pos
  kind : PieceKind
  state : PieceState
  station : Option StationIx
  program : Option ProgramIx
  lot : Option LotRef
  footprint : LaneSet
  grantPos : Option Pos
  ePred : Option Pos
  entrySeen : LaneSet
  entryEnded : LaneSet
  entryLead : Option Pos
  entryLength : Option Nat
  lEst : Option Nat
  exitSeen : LaneSet
  exitEnded : LaneSet
  exitLead : Option Pos
  exitLength : Option Nat
  stackerLead : Option Pos
  bin : Option Bin
  reason : Option RejectReason
  undiverted : Bool
  route : Route
  actions : List Nat
  completion : Option Completion
  deriving DecidableEq, Repr

/-- The Track Store: the records in use, in the order they were taken, the two counters, the zones and the lane lists, each
a list of tags with the front first (R58, R59, R66, R67). -/
structure TrackStore where
  pool : List Piece
  tagCounter : Nat
  takeCounter : Pos
  feedZone : List Nat
  ironZone : List Nat
  foldZone : List Nat
  dropZone : List Nat
  entryLists : Vector (List Nat) 4
  exitLists : Vector (List Nat) 4
  deriving DecidableEq, Repr

/-! ### Actuator Scheduler -/

/-- The action of a slot (R116). -/
inductive SlotAction where
  | fold1
  | fold2
  | cross
  | reject
  | drop
  deriving DecidableEq, Repr

/-- The channels a slot drives (R116). -/
inductive Drive where
  | pf (lanes : LaneSet)
  | xf
  | rj
  | bf (b : Bin)
  deriving DecidableEq, Repr

/-- A slot in use (R116). -/
structure Slot where
  place : Nat
  pos : Pos
  action : SlotAction
  drive : Drive
  tags : List Nat
  passed : Bool
  deriving DecidableEq, Repr

/-- The pulse states of the 22 channels: off (`none`) or on with a pulse end time (R113). -/
structure Outputs where
  rel : Vector (Option Nat) 4
  pf : Vector (Option Nat) 4
  xf : Option Nat
  rj : Option Nat
  bf : Vector (Option Nat) 6
  sr : Vector (Option Nat) 6
  deriving DecidableEq, Repr

/-- The Actuator Scheduler: the slot table in position order, the pulse states, the held stack releases (R113 to R116). -/
structure Scheduler where
  slots : List Slot
  out : Outputs
  held : Vector Bool 6
  deriving DecidableEq, Repr

/-! ### Lot and Stacker Unit -/

/-- The states of a lot slot, FREE, OPEN and CLOSING (R128). -/
inductive LotState where
  | free
  | opened
  | closing
  deriving DecidableEq, Repr

/-- A lot slot (R128). The fields of a FREE slot are not read. -/
structure Lot where
  state : LotState
  id : Nat
  stackSize : Nat
  bin : Option Bin
  lastUse : Pos
  released : Nat
  stacked : Nat
  returned : Nat
  rejected : Nat
  lost : Nat
  purged : Nat
  inFlight : Nat
  stackCount : Nat
  summaryPending : Bool
  deriving DecidableEq, Repr

/-- The lot table and the bin table (R128, R130). -/
structure LotUnit where
  lots : Vector Lot 8
  bins : Vector (Option LotSlot) 6
  deriving DecidableEq, Repr

/-! ### Program Store -/

/-- The width classes (R144). -/
inductive WidthClass where
  | single
  | double
  | full
  deriving DecidableEq, Repr

/-- The fields of a VALID program record (R144). -/
structure ProgramRec where
  width : WidthClass
  nominal : Nat
  minLength : Nat
  maxLength : Nat
  gapMin : Nat
  shrink : Nat
  folds : List Nat
  fold : Bool
  cross : Bool
  stack : Bool
  refineWindow : Nat
  deriving DecidableEq, Repr

/-- A program record: EMPTY is `none`, VALID is `some` (R144). -/
abbrev Program := Option ProgramRec

/-- The fault mode, HOLD or CONTINUE (R151). -/
inductive FaultMode where
  | hold
  | carryOn
  deriving DecidableEq, Repr

/-- The rotation order (R47, R151). -/
inductive Rotation where
  | sequential
  | crossed
  deriving DecidableEq, Repr

/-- The line settings record (R151), in the order of its table. -/
structure LineSettings where
  lanes : LaneSet
  dStation : Vector Nat 4
  lIron : Nat
  dPf : Nat
  dRj : Nat
  dXf : Nat
  dStk : Nat
  dBin : Vector Nat 6
  tolEntryEarly : Nat
  tolEntryLate : Nat
  tolExitEarly : Nat
  tolExitLate : Nat
  tolStkEarly : Nat
  tolStkLate : Nat
  tRel : Nat
  tPf : Nat
  tXf : Nat
  tRj : Nat
  tBin : Nat
  wRel : Nat
  wPf : Nat
  wXf : Nat
  wRj : Nat
  wBin : Nat
  wSr : Nat
  leadMax : Nat
  arming : Nat
  xfCycle : Nat
  eyeMin : Nat
  eyeBlock : Nat
  speedMin : Nat
  speedNominal : Nat
  lotGap : Nat
  binsEnabled : Nat
  idleDistance : Nat
  faultMode : FaultMode
  rotation : Rotation
  starveLimit : Nat
  deriving DecidableEq, Repr

/-- The factory defaults of the line settings (R151). -/
def factoryDefaults : LineSettings where
  lanes := 0b1111#4
  dStation := #v[2350, 2400, 2450, 2500]
  lIron := 9600
  dPf := 1800
  dRj := 3000
  dXf := 4200
  dStk := 5400
  dBin := #v[600, 900, 1200, 1500, 1800, 2100]
  tolEntryEarly := 150
  tolEntryLate := 150
  tolExitEarly := 200
  tolExitLate := 200
  tolStkEarly := 250
  tolStkLate := 250
  tRel := 80
  tPf := 60
  tXf := 90
  tRj := 40
  tBin := 50
  wRel := 120
  wPf := 80
  wXf := 150
  wRj := 250
  wBin := 200
  wSr := 300
  leadMax := 400
  arming := 64
  xfCycle := 300
  eyeMin := 6
  eyeBlock := 8000
  speedMin := 150
  speedNominal := 600
  lotGap := 600
  binsEnabled := 6
  idleDistance := 0
  faultMode := .hold
  rotation := .sequential
  starveLimit := 3

/-- A store write: its entry and the record it carries (R155). -/
inductive StoreRecord where
  | program (ix : ProgramIx) (rec : Program)
  | settings (rec : LineSettings)
  deriving DecidableEq, Repr

/-- A store write that waits or is under way, and whether the reply in hand waits on it (R155, R175). -/
structure StoreWrite where
  record : StoreRecord
  replies : Bool
  deriving DecidableEq, Repr

/-- The Program Store (R144 to R155). A stored entry is `some r` when its check value matches its record r, and `none` when
it does not match. The front of `queue` is the write under way. -/
structure ProgramStore where
  programs : Vector Program 32
  staged : Vector (Option Program) 32
  inFlight : Vector Nat 32
  settings : LineSettings
  valid : Bool
  storedPrograms : Vector (Option Program) 32
  storedSettings : Option LineSettings
  queue : List StoreWrite
  deriving DecidableEq, Repr

/-! ### Completion Log -/

/-- The fields of a PIECE entry but its number (R157). -/
structure PieceEntry where
  tag : Nat
  kind : PieceKind
  lotId : Option Nat
  program : Option ProgramIx
  station : Option StationIx
  completion : Completion
  reason : Option RejectReason
  undiverted : Bool
  entryLength : Option Nat
  exitLength : Option Nat
  bin : Option Bin
  deriving DecidableEq, Repr

/-- The fields of a LOT entry but its number (R158). -/
structure LotEntry where
  lotId : Nat
  released : Nat
  stacked : Nat
  returned : Nat
  rejected : Nat
  lost : Nat
  purged : Nat
  inFlight : Nat
  deriving DecidableEq, Repr

/-- What a log entry says (R156 to R158). -/
inductive EntryBody where
  | piece (e : PieceEntry)
  | lot (e : LotEntry)
  | notice (code : Nat) (pos : Pos)
  deriving DecidableEq, Repr

/-- A log entry with its number (R156). -/
structure LogEntry where
  number : Nat
  body : EntryBody
  deriving DecidableEq, Repr

/-- A request in the order of pending writes: a DONE_PENDING record or a CLOSING lot whose summary is pending (R159). -/
inductive PendingWrite where
  | piece (tag : Nat)
  | lot (slot : LotSlot)
  deriving DecidableEq, Repr

/-- The Completion Log (R156, R159, R160). -/
structure CompletionLog where
  entries : List LogEntry
  counter : Nat
  order : List PendingWrite
  dropped : Bool
  deriving DecidableEq, Repr

/-! ### Fault Latch -/

/-- The fault reasons (R163). -/
inductive FaultReason where
  | lost
  | strayStack
  | strayUntracked
  | encoder
  | eyeBlocked
  | noSlot
  | undiverted
  deriving DecidableEq, Repr

/-- The Fault Latch (R163). -/
structure FaultLatch where
  latched : Bool
  first : Option FaultReason
  seen : ReasonSet
  deriving DecidableEq, Repr

/-! ### Link Interface -/

/-- The states of the receiver (R169). -/
inductive RxState where
  | waiting
  | receiving
  | skipping
  deriving DecidableEq, Repr

/-- The reply owed to the request in hand: code and body of its frame, and whether it waits for the end of its store write
(R174, R175). -/
structure Owed where
  code : Byte
  body : List Byte
  awaitsStore : Bool
  deriving DecidableEq, Repr

/-- The Link Interface (R167 to R180). `sent` is the last reply frame put on the line (log 21). -/
structure Link where
  address : Fin 32
  rate : Rate
  rx : RxState
  buffer : List Byte
  quiet : Bool
  owed : Option Owed
  sent : Option (List Byte)
  deriving DecidableEq, Repr

/-! ### Events due at a forward edge -/

/-- An event that fell due at the last forward edge (log 2): an acceptance (R11), a blocking (R16), the grant step (R44), a
window expiry (R92), the firing of the slot in a place (R120), an idle unbind (R135). `firing` stands in the list from an edge
with a slot to fire until its first firing is taken: a slot made meanwhile at or behind P fires with the others (R120, log
27). -/
inductive Due where
  | accept (e : Eye)
  | block (e : Eye)
  | grant
  | expiry (tag : Nat)
  | firing
  | fire (place : Nat)
  | idle (slot : LotSlot)
  deriving DecidableEq, Repr

/-! ### The whole -/

/-- Why the block stops with a fault. It has no constructor: the spec names no condition in which the FT4 stops, and what it
calls faults are the reasons of the Fault Latch, which are state (R163). -/
inductive Fault where
  deriving DecidableEq, Repr

/-- Why a command is refused. -/
inductive Refusal where
  /-- Raised by an arm of `exec` whose command has no meaning yet; safe. No arm raises it now. -/
  | notModelled (mnemonic : String)
  deriving DecidableEq, Repr

/-- The state of the FT4, and the queue of commands that wait. -/
structure State where
  powered : Bool
  line : LineUnit
  eyes : Vector EyeRec 9
  stations : Vector Station 4
  inputs : Inputs
  seq : Sequencer
  track : TrackStore
  sched : Scheduler
  lot : LotUnit
  prog : ProgramStore
  log : CompletionLog
  latch : FaultLatch
  link : Link
  due : List Due
  heldExpiry : List Nat
  pending : List Instr
  deriving DecidableEq, Repr

/-! ### Values after reset, block by block -/

/-- A station after reset (R34). -/
def Station.initial : Station where
  state := .idle
  current := none
  next := .absent
  snapshot := none
  disablePending := false
  waitCount := 0
  waitReason := .none

/-- The Track Store after reset (R59, R75). -/
def TrackStore.initial : TrackStore where
  pool := []
  tagCounter := 1
  takeCounter := 0#32
  feedZone := []
  ironZone := []
  foldZone := []
  dropZone := []
  entryLists := Vector.replicate 4 []
  exitLists := Vector.replicate 4 []

/-- All 22 channels off (R127). -/
def Outputs.allOff : Outputs where
  rel := Vector.replicate 4 none
  pf := Vector.replicate 4 none
  xf := none
  rj := none
  bf := Vector.replicate 6 none
  sr := Vector.replicate 6 none

/-- The Actuator Scheduler after reset (R127). -/
def Scheduler.initial : Scheduler where
  slots := []
  out := Outputs.allOff
  held := Vector.replicate 6 false

/-- A FREE lot slot; its other fields are not read, and are held at 0 (R128, log 22). -/
def Lot.free : Lot where
  state := .free
  id := 0
  stackSize := 0
  bin := none
  lastUse := 0#32
  released := 0
  stacked := 0
  returned := 0
  rejected := 0
  lost := 0
  purged := 0
  inFlight := 0
  stackCount := 0
  summaryPending := false

/-- The Lot and Stacker Unit after reset (R143). -/
def LotUnit.initial : LotUnit where
  lots := Vector.replicate 8 Lot.free
  bins := Vector.replicate 6 none

/-- The Completion Log after reset (R166). -/
def CompletionLog.initial : CompletionLog where
  entries := []
  counter := 0
  order := []
  dropped := false

/-- The Fault Latch after reset and after FAULT ACK (R164, R166). -/
def FaultLatch.clear : FaultLatch where
  latched := false
  first := none
  seen := 0#7

/-- The Release Sequencer after reset, with the mark at the present P (R35, R41, R44, R48). -/
def Sequencer.initial (p : Pos) : Sequencer where
  feed := .off
  tails := Vector.replicate 4 none
  scanStart := 0
  mark := p

/-- The FT4 right after power-on of a new module, with the sampled levels of log 6: encoder channels low, eyes light,
buttons, LINE RUN and ESTOP inactive, KEY at SETUP, address 1, 19,200 bit/s. -/
def State.reset : State where
  powered := true
  line :=
    { p := 0#32, dir := .forward, encA := false, encB := false, hist := Vector.replicate 4 0, advance := 0,
      fullWindows := 0, windowEnd := 10, now := 0 }
  eyes := Vector.replicate 9 { dark := false, state := .light, cLead := 0#32, darkTravel := 0 }
  stations := Vector.replicate 4 Station.initial
  inputs := { buttons := Vector.replicate 4 false, key := .setup, lineRun := false, estop := false }
  seq := Sequencer.initial 0#32
  track := TrackStore.initial
  sched := Scheduler.initial
  lot := LotUnit.initial
  prog :=
    { programs := Vector.replicate 32 none, staged := Vector.replicate 32 none, inFlight := Vector.replicate 32 0,
      settings := factoryDefaults, valid := false, storedPrograms := Vector.replicate 32 none, storedSettings := none,
      queue := [] }
  log := CompletionLog.initial
  latch := FaultLatch.clear
  link :=
    { address := 1, rate := .r19200, rx := .skipping, buffer := [], quiet := false, owed := none, sent := none }
  due := []
  heldExpiry := []
  pending := []

end Sys2Proof.Machine
end

