-- ==== Sys2Proof/Machine/Ops.lean ====
section
/-! DEFINITION. The shared operations: positions, lane sets, updates of one element of a table, piece records by tag, the
lists kept in order of a key, the counters. -/

namespace Sys2Proof.Machine

open Sys2Proof

/-! ### Positions (R2) -/

/-- The difference a - b of two positions, read as a signed number (R2). -/
def posDiff (a b : Pos) : Int := (a - b).toInt

/-- A position and a distance ahead of it, modulo 2^32 (R2). -/
def posAdd (a : Pos) (n : Nat) : Pos := a + BitVec.ofNat 32 n

/-- A position and a distance behind it, modulo 2^32 (R2). -/
def posSub (a : Pos) (n : Nat) : Pos := a - BitVec.ofNat 32 n

/-- a is at or past b (R2). -/
def atOrPast (a b : Pos) : Bool := decide (0 ≤ posDiff a b)

/-- A measured length: the distance from a lead to an end, clamped to 0..16383 (R83, R88). -/
def measuredLength (t lead : Pos) : Nat := min Config.maxLength (posDiff t lead).toNat

/-! ### Lane sets -/

/-- Lane w is in the set. -/
def hasLane (l : LaneSet) (w : Lane) : Bool := l.getLsbD w.val

/-- The set of the one lane w. -/
def laneBit (w : Lane) : LaneSet := 1#4 <<< w.val

/-- The four lanes, in order. -/
def allLanes : List Lane := [0, 1, 2, 3]

/-- The two sets share a lane. -/
def sharesLane (a b : LaneSet) : Bool := decide (a &&& b ≠ 0#4)

/-- Some lane of `seen` is not in `ended` (R78). -/
def someOpen (seen ended : LaneSet) : Bool := decide (seen &&& ~~~ended ≠ 0#4)

/-- Lane w is open: in `seen` and not in `ended` (R78). -/
def laneOpen (seen ended : LaneSet) (w : Lane) : Bool := hasLane seen w && !hasLane ended w

/-- The bins, in order. -/
def allBins : List Bin := [0, 1, 2, 3, 4, 5]

/-- The lot slots, in order. -/
def allLotSlots : List LotSlot := [0, 1, 2, 3, 4, 5, 6, 7]

/-- The programs, in order. -/
def allPrograms : List ProgramIx :=
  [0, 1, 2, 3, 4, 5, 6, 7, 8, 9, 10, 11, 12, 13, 14, 15, 16, 17, 18, 19, 20, 21, 22, 23, 24, 25, 26, 27, 28, 29, 30, 31]

/-- The eyes, in the order N1 to N4, X1 to X4, K. -/
def allEyes : List Eye := [.n 0, .n 1, .n 2, .n 3, .x 0, .x 1, .x 2, .x 3, .k]

/-- The place of an eye in the table of eyes. -/
def eyeIx : Eye → Fin 9
  | .n w => ⟨w.val, by omega⟩
  | .x w => ⟨w.val + 4, by omega⟩
  | .k => 8

/-! ### One element of a table -/

/-- The table with its element i changed by f. -/
def vmod {α : Type} {n : Nat} (v : Vector α n) (i : Fin n) (f : α → α) : Vector α n := v.set i.val (f v[i]) i.isLt

/-- The state with eye e changed. -/
def State.modEye (s : State) (e : Eye) (f : EyeRec → EyeRec) : State := { s with eyes := vmod s.eyes (eyeIx e) f }

/-- The record of an eye. -/
def State.eye (s : State) (e : Eye) : EyeRec := s.eyes[eyeIx e]

/-- The state with station k changed. -/
def State.modStation (s : State) (k : StationIx) (f : Station → Station) : State :=
  { s with stations := vmod s.stations k f }

/-- The state with lot slot i changed. -/
def State.modLot (s : State) (i : LotSlot) (f : Lot → Lot) : State :=
  { s with lot := { s.lot with lots := vmod s.lot.lots i f } }

/-- The state with the entry of bin b in the bin table set. -/
def State.setBin (s : State) (b : Bin) (x : Option LotSlot) : State :=
  { s with lot := { s.lot with bins := vmod s.lot.bins b fun _ => x } }

/-- The state with the pulse states changed. -/
def State.modOut (s : State) (f : Outputs → Outputs) : State := { s with sched := { s.sched with out := f s.sched.out } }

/-- The state with the held stack release of bin b set. -/
def State.setHeld (s : State) (b : Bin) (x : Bool) : State :=
  { s with sched := { s.sched with held := vmod s.sched.held b fun _ => x } }

/-- The state with the feed state set. -/
def State.setFeed (s : State) (x : FeedState) : State := { s with seq := { s.seq with feed := x } }

/-! ### Counters -/

/-- A count of a lot raised by 1, saturating at 65535 (R129). -/
def satCount (n : Nat) : Nat := if n < 65535 then n + 1 else 65535

/-- A wait count raised by 1, saturating at 15 (R24). -/
def satWait (n : Nat) : Nat := if n < 15 then n + 1 else 15

/-- A stack count raised by 1, saturating at 255 (R136). -/
def satStack (n : Nat) : Nat := if n < 255 then n + 1 else 255

/-- The tag counter advanced: 65535 is followed by 1 (R59). -/
def nextTag (n : Nat) : Nat := if n < 65535 then n + 1 else 1

/-! ### Piece records (R58 to R60) -/

/-- The record in use that holds the tag. -/
def State.piece? (s : State) (tag : Nat) : Option Piece := s.track.pool.find? fun r => r.tag == tag

/-- The state with the record of the tag changed. -/
def State.modPiece (s : State) (tag : Nat) (f : Piece → Piece) : State :=
  { s with track := { s.track with pool := s.track.pool.map fun r => if r.tag == tag then f r else r } }

/-- The state with the record of the tag freed (R70). -/
def State.freePiece (s : State) (tag : Nat) : State :=
  { s with track := { s.track with pool := s.track.pool.filter fun r => !(r.tag == tag) } }

/-- The number of free records (R58). -/
def State.freeRecords (s : State) : Nat := Config.poolSize - s.track.pool.length

/-- The first tag from n on that no record in use holds, among `fuel + 1` tries (R59). -/
def freeTag (pool : List Piece) : Nat → Nat → Nat
  | 0, n => n
  | fuel + 1, n => if pool.any fun r => r.tag == n then freeTag pool fuel (nextTag n) else n

/-! ### Keys and ordered lists (R66, R67) -/

/-- X_pred = entry lead + L_iron (R66). -/
def xPred (cfg : LineSettings) (r : Piece) : Pos := posAdd (r.entryLead.getD 0#32) cfg.lIron

/-- K_pred = exit lead + D_stk (R66). -/
def kPred (cfg : LineSettings) (r : Piece) : Pos := posAdd (r.exitLead.getD 0#32) cfg.dStk

/-- The key of a record in a zone (R66). -/
def zoneKey (cfg : LineSettings) : Zone → Piece → Pos
  | .feed, r => r.ePred.getD 0#32
  | .iron, r => xPred cfg r
  | .fold, r => kPred cfg r
  | .drop, r => r.stackerLead.getD 0#32

/-- A key and take number come before another: the lesser key, and at equal keys the lesser take number (R66). -/
def keyBefore (k : Pos) (take : Pos) (k' : Pos) (take' : Pos) : Bool :=
  decide (posDiff k k' < 0) || (decide (k = k') && decide (posDiff take take' < 0))

/-- A list of tags in ascending order of a key, with the record r put in at its place (R66). -/
def insertByKey (key : Piece → Pos) (pool : List Piece) (r : Piece) : List Nat → List Nat
  | [] => [r.tag]
  | t :: ts =>
    match pool.find? (fun q => q.tag == t) with
    | some q => if keyBefore (key r) r.take (key q) q.take then r.tag :: t :: ts else t :: insertByKey key pool r ts
    | none => t :: insertByKey key pool r ts

/-- The lane lists with the record r put into the list of each lane of its footprint (R67). -/
def insertLanes (key : Piece → Pos) (pool : List Piece) (r : Piece) (lists : Vector (List Nat) 4) : Vector (List Nat) 4 :=
  allLanes.foldl
    (fun v w => if hasLane r.footprint w then vmod v w (insertByKey key pool r) else v) lists

/-- The lane lists with a tag taken out of every list. -/
def removeLanes (tag : Nat) (lists : Vector (List Nat) 4) : Vector (List Nat) 4 :=
  allLanes.foldl (fun v w => vmod v w fun l => l.filter (· ≠ tag)) lists

/-- The list of a zone. -/
def TrackStore.zone (t : TrackStore) : Zone → List Nat
  | .feed => t.feedZone
  | .iron => t.ironZone
  | .fold => t.foldZone
  | .drop => t.dropZone

/-- The record r in the zone of its state, and for FEED and IRON in the lists of its lanes, each at its place (R66, R67). -/
def joinZone (cfg : LineSettings) (z : Zone) (r : Piece) (t : TrackStore) : TrackStore :=
  let key := zoneKey cfg z
  match z with
  | .feed =>
    { t with feedZone := insertByKey key t.pool r t.feedZone, entryLists := insertLanes key t.pool r t.entryLists }
  | .iron => { t with ironZone := insertByKey key t.pool r t.ironZone, exitLists := insertLanes key t.pool r t.exitLists }
  | .fold => { t with foldZone := insertByKey key t.pool r t.foldZone }
  | .drop => { t with dropZone := insertByKey key t.pool r t.dropZone }

/-- A tag taken out of every zone and every lane list (R68, R69). -/
def leaveLists (tag : Nat) (t : TrackStore) : TrackStore :=
  { t with
    feedZone := t.feedZone.filter (· ≠ tag)
    ironZone := t.ironZone.filter (· ≠ tag)
    foldZone := t.foldZone.filter (· ≠ tag)
    dropZone := t.dropZone.filter (· ≠ tag)
    entryLists := removeLanes tag t.entryLists
    exitLists := removeLanes tag t.exitLists }

/-- Taking a record into use: the tag and take number are given, both counters move on, and the record, filled by `f` from
them, joins the zone z (R59, R63, R64). Answers the record's tag with the state. -/
def takeRecord (z : Zone) (f : Nat → Pos → Piece) (s : State) : Nat × State :=
  let tag := freeTag s.track.pool Config.poolSize s.track.tagCounter
  let r := f tag s.track.takeCounter
  let t :=
    { s.track with
      pool := s.track.pool ++ [r], tagCounter := nextTag tag, takeCounter := s.track.takeCounter + 1#32 }
  (tag, { s with track := joinZone s.prog.settings z r t })

/-- The move of a record from its zone to the next, as one act: the record is changed by f, leaves every list and joins the
zone z (R68). -/
def moveRecord (tag : Nat) (z : Zone) (f : Piece → Piece) (s : State) : State :=
  let s := s.modPiece tag f
  match s.piece? tag with
  | some r => { s with track := joinZone s.prog.settings z r (leaveLists tag s.track) }
  | none => s

/-! ### Lots by id (R128) -/

/-- The slot in OPEN or CLOSING that holds a lot id (R128). -/
def State.lotOf? (s : State) (id : Nat) : Option LotSlot :=
  allLotSlots.find? fun i => decide (s.lot.lots[i].state ≠ .free) && s.lot.lots[i].id == id

end Sys2Proof.Machine
end

