-- ==== Sys2Proof/Machine/Flags.lean ====
section
/-! DEFINITION. What the state says of itself: the speed and its settled flag, leads, the run conditions, the blocking
condition, the Fault Latch and its hold on the feed. -/

namespace Sys2Proof.Machine

open Sys2Proof

/-- The speed v: 25 times the sum of the four history entries (R6). -/
def speed (l : LineUnit) : Int := 25 * (l.hist[0] + l.hist[1] + l.hist[2] + l.hist[3])

/-- The speed is settled when the count of full windows is 4 (R7). -/
def settled (l : LineUnit) : Bool := l.fullWindows == 4

/-- The speed as STATUS reports it: v clamped to -32,768..32,767 (R6). -/
def clampedSpeed (l : LineUnit) : Int := max (-32768) (min 32767 (speed l))

/-- v_eff: the larger of v and 0 while settled, speed_nominal while unsettled (R8). -/
def vEff (s : State) : Nat := if settled s.line then (speed s.line).toNat else s.prog.settings.speedNominal

/-- The lead for a delay of t ms: ceil(v_eff × t / 1000), clamped to 0..lead_max (R8). -/
def lead (s : State) (t : Nat) : Nat := min s.prog.settings.leadMax ((vEff s * t + 999) / 1000)

/-- The speed run condition: v is at least speed_min (R35). -/
def fastEnough (s : State) : Bool := decide ((s.prog.settings.speedMin : Int) ≤ speed s.line)

/-- All six run conditions hold (R35). -/
def runConditions (s : State) : Bool :=
  s.inputs.lineRun && settled s.line && fastEnough s && !s.inputs.estop && decide (s.inputs.key = .run) && s.prog.valid

/-- A latched fault holds the feed: the latch is latched and the fault mode is HOLD (R36, R40). -/
def faultHolds (s : State) : Bool := s.latch.latched && decide (s.prog.settings.faultMode = .hold)

/-- The blocking conditions (R40). -/
inductive Blocking where
  | none
  | estop
  | key
  | settings
  | lineRun
  | unsettled
  | slow
  | fault
  deriving DecidableEq, Repr

/-- The blocking condition: the first that applies, in the order of the table of R40. -/
def blocking (s : State) : Blocking :=
  if s.inputs.estop then .estop
  else if s.inputs.key = .setup then .key
  else if !s.prog.valid then .settings
  else if !s.inputs.lineRun then .lineRun
  else if !settled s.line then .unsettled
  else if !fastEnough s then .slow
  else if faultHolds s then .fault
  else .none

/-- The bit of a reason in a set of reasons (R176). -/
def reasonBit : FaultReason → ReasonSet
  | .lost => 0b0000001#7
  | .strayStack => 0b0000010#7
  | .strayUntracked => 0b0000100#7
  | .encoder => 0b0001000#7
  | .eyeBlocked => 0b0010000#7
  | .noSlot => 0b0100000#7
  | .undiverted => 0b1000000#7

/-- The latch after a latch request (R163). -/
def FaultLatch.take (l : FaultLatch) (r : FaultReason) : FaultLatch :=
  if l.latched then { l with seen := l.seen ||| reasonBit r }
  else { latched := true, first := some r, seen := reasonBit r }

/-- The feed state after a latch: in fault mode HOLD, RUN and PAUSE become HELD (R39). -/
def heldByFault (mode : FaultMode) (feed : FeedState) : FeedState :=
  match mode, feed with
  | .hold, .run => .held
  | .hold, .pause => .held
  | _, f => f

/-- A latch request (R39, R163). -/
def latchFault (r : FaultReason) (s : State) : State :=
  ({ s with latch := s.latch.take r }).setFeed (heldByFault s.prog.settings.faultMode s.seq.feed)

/-! ### Values of enumerations on the link (R176) -/

/-- Feed state (R176). -/
def feedCode : FeedState → Byte
  | .off => 0
  | .run => 1
  | .pause => 2
  | .held => 3

/-- Blocking condition (R176). -/
def blockingCode : Blocking → Byte
  | .none => 0
  | .estop => 1
  | .key => 2
  | .settings => 3
  | .lineRun => 4
  | .unsettled => 5
  | .slow => 6
  | .fault => 7

/-- Station state (R176). -/
def stationCode : StationState → Byte
  | .disabled => 0
  | .idle => 1
  | .loaded => 2
  | .releasing => 3

/-- Completion kind (R176). -/
def completionCode : CompletionKind → Byte
  | .stacked => 1
  | .returned => 2
  | .rejected => 3
  | .lost => 4
  | .purged => 5

/-- Stage, 0 if absent (R176). -/
def stageCode : Option Stage → Byte
  | none => 0
  | some .feed => 1
  | some .iron => 2
  | some .fold => 3

/-- Reject reason, 0 if absent (R176). -/
def rejectCode : Option RejectReason → Byte
  | none => 0
  | some .joined => 1
  | some .short => 2
  | some .stray => 3
  | some .lateFold => 4
  | some .xfConflict => 5
  | some .exitMismatch => 6
  | some .slotFull => 7
  | some .foldMissed => 8

/-- Fault reason, 0 if absent (R176). -/
def faultCode : Option FaultReason → Byte
  | none => 0
  | some .lost => 1
  | some .strayStack => 2
  | some .strayUntracked => 3
  | some .encoder => 4
  | some .eyeBlocked => 5
  | some .noSlot => 6
  | some .undiverted => 7

/-- Width class (R176). -/
def widthCode : WidthClass → Byte
  | .single => 1
  | .double => 2
  | .full => 3

/-- Lot state (R176). -/
def lotCode : LotState → Byte
  | .free => 0
  | .opened => 1
  | .closing => 2

/-- Waiting reason (R176). -/
def waitCode : WaitReason → Byte
  | .none => 0
  | .feedState => 1
  | .program => 2
  | .lane => 3
  | .lot => 4
  | .bin => 5
  | .pool => 6
  | .laneGap => 7
  | .lotGap => 8
  | .starving => 9

/-- Next assignment (R176). -/
def nextCode : NextAssignment → Byte
  | .absent => 0
  | .pair _ => 1
  | .clear => 2

/-- Record state (R176). -/
def pieceStateCode : PieceState → Byte
  | .released => 1
  | .ironing => 2
  | .folding => 3
  | .dropping => 4
  | .donePending => 5

/-- Slot action (R176). -/
def actionCode : SlotAction → Byte
  | .fold1 => 1
  | .fold2 => 2
  | .cross => 3
  | .reject => 4
  | .drop => 5

/-- yes or no as a byte, 1 or 0. -/
def boolByte (b : Bool) : Byte := if b then 1 else 0

/-- Flags as a byte, the first of the list at bit 0 (R176). The bits to which the layout assigns no flag are 0: the model's choice
(log 31, log 33). -/
def flagByte (flags : List Bool) : Byte :=
  flags.foldr (fun b acc => (acc <<< 1) ||| boolByte b) 0

end Sys2Proof.Machine
end

