-- ==== Sys2Proof/Machine/Outputs.lean ====
section
/-! DEFINITION. The output channels and the stack releases (R113 to R115, R137), and the unbinding of a lot (R138), which asks
for one. -/

namespace Sys2Proof.Machine

open Sys2Proof

/-- The retrigger extension: a channel's pulse end becomes the later of its present end and the present time plus the width;
a channel that was off takes the present time plus the width (R114). -/
def retrigger (now width : Nat) : Option Nat → Option Nat
  | none => some (now + width)
  | some e => some (max e (now + width))

/-- A channel of the PF group is started or extended on each lane of a set (R114). -/
def retriggerLanes (now width : Nat) (lanes : LaneSet) (v : Vector (Option Nat) 4) : Vector (Option Nat) 4 :=
  allLanes.foldl (fun v w => if hasLane lanes w then vmod v w (retrigger now width) else v) v

/-- The firing of a slot on its channels (R114, R121 to R123). -/
def fireDrive (d : Drive) (s : State) : State :=
  let now := s.line.now
  let c := s.prog.settings
  match d with
  | .pf lanes => s.modOut fun o => { o with pf := retriggerLanes now c.wPf lanes o.pf }
  | .xf => s.modOut fun o => { o with xf := retrigger now c.wXf o.xf }
  | .rj => s.modOut fun o => { o with rj := retrigger now c.wRj o.rj }
  | .bf b => s.modOut fun o => { o with bf := vmod o.bf b (retrigger now c.wBin) }

/-- The start or extension of SR_b; the stack count of the lot bound to bin b becomes 0 (R115, R137). -/
def startRelease (b : Bin) (s : State) : State :=
  let s := (s.modOut fun o => { o with sr := vmod o.sr b (retrigger s.line.now s.prog.settings.wSr) }).setHeld b false
  match s.lot.bins[b] with
  | some i => s.modLot i fun l => { l with stackCount := 0 }
  | none => s

/-- A stack release asked for bin b: merged into one already held, held under e-stop or while BF_b is on, or started
(R115). -/
def requestRelease (b : Bin) (s : State) : State :=
  if s.sched.held[b] then s
  else if s.inputs.estop || s.sched.out.bf[b].isSome then s.setHeld b true
  else startRelease b s

/-- A held release of bin b starts when BF_b is off and ESTOP is inactive together (R115). -/
def startHeld (b : Bin) (s : State) : State :=
  if s.sched.held[b] && !s.inputs.estop && s.sched.out.bf[b].isNone then startRelease b s else s

/-- The unbinding of a bound lot: a stack release if its stack count is above 0, then stack count 0 and the bin free (R138).
An unbound lot is left. -/
def unbindLot (i : LotSlot) (s : State) : State :=
  match s.lot.lots[i].bin with
  | none => s
  | some b =>
    let s := if 0 < s.lot.lots[i].stackCount then requestRelease b s else s
    (s.modLot i fun l => { l with stackCount := 0, bin := none }).setBin b none

end Sys2Proof.Machine
end

