-- ==== Sys2Proof/Machine/Release.lean ====
section
/-! DEFINITION. The Release Sequencer's examination: footprint, grant conditions, gap arithmetic, binding, the grant, starving
stations (R41 to R57, R132, R133). -/

namespace Sys2Proof.Machine

open Sys2Proof

/-- The four stations, in order. -/
def allStations : List StationIx := [0, 1, 2, 3]

/-- The footprint of a piece of a width class from station k (R49). -/
def footprintOf (width : WidthClass) (k : StationIx) : LaneSet :=
  match width with
  | .single => laneBit k
  | .double => if k.val < 2 then 0b0011#4 else 0b1100#4
  | .full => 0b1111#4

/-- The lowest-numbered usable bin that is free (R130, R132). -/
def freeBin? (s : State) : Option Bin :=
  allBins.find? fun b => decide (b.val < s.prog.settings.binsEnabled) && s.lot.bins[b].isNone

/-- The lot that an eviction takes, with its bin: among the OPEN bound lots with in_flight 0, the one whose last-use position
lies furthest behind P, and of several the one of the lowest bin number (R133). -/
def evictable? (s : State) : Option (LotSlot × Bin) :=
  allBins.foldl
    (fun best b =>
      match s.lot.bins[b] with
      | none => best
      | some i =>
        let l := s.lot.lots[i]
        if decide (l.state = .opened) && l.inFlight == 0 then
          match best with
          | none => some (i, b)
          | some (j, _) =>
            if posDiff s.line.p s.lot.lots[j].lastUse < posDiff s.line.p l.lastUse then some (i, b) else best
        else best)
    none

/-- The tie between lot slot i and bin b (R130). -/
def bindTo (i : LotSlot) (b : Bin) (s : State) : State := (s.modLot i fun l => { l with bin := some b }).setBin b (some i)

/-- The binding of an unbound lot at a grant: to the lowest free usable bin, else to the bin of the evicted lot (R132,
R133). -/
def bindLot (i : LotSlot) (s : State) : State :=
  match freeBin? s with
  | some b => bindTo i b s
  | none =>
    match evictable? s with
    | some (j, b) => bindTo i b (unbindLot j s)
    | none => s

/-- The slot that holds a lot id in state OPEN (R51). -/
def openLot? (s : State) (id : Nat) : Option LotSlot :=
  allLotSlots.find? fun i => decide (s.lot.lots[i].state = .opened) && s.lot.lots[i].id == id

/-- A tail is discarded when it lies more than 1,000,000 counts behind P (R43). -/
def agedTail (p : Pos) : Option Tail → Option Tail
  | some t => if Config.tailAge < posDiff p t.pos then none else some t
  | none => none

/-- The ageing of the four tails (R43). -/
def ageTails (s : State) : State :=
  { s with
    seq := { s.seq with tails := allLanes.foldl (fun v w => vmod v w (agedTail s.line.p)) s.seq.tails } }

/-- The predicted entry position of a piece released by station k now (R53). -/
def eNew (s : State) (k : StationIx) : Pos :=
  posAdd (posAdd s.line.p (lead s s.prog.settings.tRel)) s.prog.settings.dStation[k]

/-- The lane gap on one lane: an empty tail sets no limit (R54). -/
def laneGapHolds (s : State) (e : Pos) (gapMin : Nat) (w : Lane) : Bool :=
  match s.seq.tails[w] with
  | none => true
  | some t => decide ((gapMin : Int) ≤ posDiff e t.pos)

/-- The lot gap on one lane: an empty tail and a tail of the same lot set none (R55). -/
def lotGapHolds (s : State) (e : Pos) (lotId : Nat) (w : Lane) : Bool :=
  match s.seq.tails[w] with
  | none => true
  | some t => t.lotId == lotId || decide ((s.prog.settings.lotGap : Int) ≤ posDiff e t.pos)

/-- The first of the seven grant conditions that fails for a LOADED station with snapshot a, as its waiting reason; `none` when
all hold (R50 to R55). -/
def failing (s : State) (k : StationIx) (a : Assignment) : Option WaitReason :=
  if s.seq.feed ≠ .run then some .feedState
  else
    match s.prog.programs[a.program] with
    | none => some .program
    | some pr =>
      let foot := footprintOf pr.width k
      if foot &&& ~~~s.prog.settings.lanes ≠ 0#4 then some .lane
      else
        match openLot? s a.lotId with
        | none => some .lot
        | some i =>
          if s.lot.lots[i].bin.isNone && (freeBin? s).isNone && (evictable? s).isNone then some .bin
          else if s.freeRecords < 2 then some .pool
          else
            let e := eNew s k
            if !(allLanes.all fun w => !hasLane foot w || laneGapHolds s e pr.gapMin w) then some .laneGap
            else if !(allLanes.all fun w => !hasLane s.prog.settings.lanes w || lotGapHolds s e a.lotId w) then some .lotGap
            else none

/-- The FED record that a grant makes (R56, R63). -/
def fedRecord (s : State) (k : StationIx) (a : Assignment) (pr : ProgramRec) (i : LotSlot) (tag : Nat) (take : Pos) : Piece where
  tag := tag
  take := take
  kind := .fed
  state := .released
  station := some k
  program := some a.program
  lot := some { slot := i, id := a.lotId }
  footprint := footprintOf pr.width k
  grantPos := some s.line.p
  ePred := some (eNew s k)
  entrySeen := 0#4
  entryEnded := 0#4
  entryLead := none
  entryLength := none
  lEst := none
  exitSeen := 0#4
  exitEnded := 0#4
  exitLead := none
  exitLength := none
  stackerLead := none
  bin := none
  reason := none
  undiverted := false
  route := if pr.stack then .stack else .back
  actions := []
  completion := none

/-- The station's part of its own grant, with the REL pulse (R22). -/
def stationGranted (k : StationIx) (s : State) : State :=
  (s.modStation k fun st => { st with state := .releasing, snapshot := none, waitCount := 0, waitReason := .none }).modOut
    fun o => { o with rel := vmod o.rel k fun _ => some (s.line.now + s.prog.settings.wRel) }

/-- The grant of station k with snapshot a under program record pr and lot slot i, as one act (R56). -/
def grant (k : StationIx) (a : Assignment) (pr : ProgramRec) (i : LotSlot) (s : State) : State :=
  let e := eNew s k
  let foot := footprintOf pr.width k
  let s := if s.lot.lots[i].bin.isNone then bindLot i s else s
  let (tag, s) := takeRecord .feed (fedRecord s k a pr i) s
  let s := stationGranted k s
  let s := s.modLot i fun l =>
    { l with released := satCount l.released, inFlight := satCount l.inFlight, lastUse := s.line.p }
  let s := { s with prog := { s.prog with inFlight := vmod s.prog.inFlight a.program (· + 1) } }
  let tail : Tail := { pos := posAdd e pr.nominal, lotId := a.lotId, tag := tag }
  let s :=
    { s with
      seq :=
        { s.seq with
          tails := allLanes.foldl (fun v w => if hasLane foot w then vmod v w (fun _ => some tail) else v) s.seq.tails } }
  allStations.foldl
    (fun s j =>
      if j ≠ k ∧ s.stations[j].state = .loaded then s.modStation j fun st => { st with waitCount := satWait st.waitCount }
      else s)
    s

/-- Whether station k is starving: LOADED with a wait count of at least starve_limit, which is not 0 (R57). -/
def isStarving (s : State) (k : StationIx) : Bool :=
  decide (s.stations[k].state = .loaded) && decide (0 < s.prog.settings.starveLimit) &&
    decide (s.prog.settings.starveLimit ≤ s.stations[k].waitCount)

/-- The reasons with which a starving station blocks (R57). -/
def blocksWith : WaitReason → Bool
  | .bin => true
  | .pool => true
  | .laneGap => true
  | .lotGap => true
  | _ => false

/-- An examination under way: the state, the lanes of the blocking stations, the last station granted. -/
structure Exam where
  state : State
  blocked : LaneSet
  last : Option StationIx

/-- Station k takes a waiting reason (R24). -/
def setWait (k : StationIx) (r : WaitReason) (s : State) : State := s.modStation k fun st => { st with waitReason := r }

/-- The check of one station in an examination: it is granted, or takes its waiting reason; a starving station that waits with
a blocking reason blocks its lanes for the rest of the examination (R46, R50, R57). -/
def checkStation (starving : Bool) (x : Exam) (k : StationIx) : Exam :=
  let s := x.state
  match s.stations[k].state, s.stations[k].snapshot with
  | .loaded, some a =>
    let foot := match s.prog.programs[a.program] with
      | some pr => footprintOf pr.width k
      | none => 0#4
    match failing s k a with
    | some r =>
      { x with
        state := setWait k r s
        blocked := if starving && blocksWith r then x.blocked ||| foot else x.blocked }
    | none =>
      if sharesLane foot x.blocked then { x with state := setWait k .starving s }
      else
        match s.prog.programs[a.program], openLot? s a.lotId with
        | some pr, some i => { x with state := grant k a pr i s, last := some k }
        | _, _ => x
  | _, _ => x

/-- The stations in the rotation order from a scan start (R47). In CROSSED, the exclusive-or of the start and i. -/
def rotationFrom (rot : Rotation) (start : StationIx) : List StationIx :=
  match rot with
  | .sequential => allStations.map fun i => ⟨(start.val + i.val) % 4, Nat.mod_lt _ (by decide)⟩
  | .crossed => allStations.map fun i => ⟨(start.val ^^^ i.val) % 4, Nat.mod_lt _ (by decide)⟩

/-- The scan start after an examination: the station after the last one granted, or unchanged (R48). -/
def scanAfter (start : StationIx) : Option StationIx → StationIx
  | some k => k + 1
  | none => start

/-- The examination of the stations (R46). -/
def examine (s : State) : State :=
  let s := ageTails { s with seq := { s.seq with mark := s.line.p } }
  if s.seq.feed ≠ .run then
    allStations.foldl (fun s k => if s.stations[k].state = .loaded then setWait k .feedState s else s) s
  else
    let starving := allStations.filter (isStarving s)
    let others := (rotationFrom s.prog.settings.rotation s.seq.scanStart).filter fun k => !starving.contains k
    let x : Exam := { state := s, blocked := 0#4, last := none }
    let x := starving.foldl (checkStation true) x
    let x := others.foldl (checkStation false) x
    { x.state with seq := { x.state.seq with scanStart := scanAfter x.state.seq.scanStart x.last } }

/-- The feed state enters RUN, and the stations are examined (R36, R37, R39, R45). -/
def enterRun (s : State) : State := examine (s.setFeed .run)

/-- In RUN, a run condition that has just failed makes the feed state PAUSE; in PAUSE, all six holding makes it RUN, with an
examination (R37). `lost` says that the change was one that leaves RUN. -/
def runPause (lost : Bool) (s : State) : State :=
  match s.seq.feed with
  | .run => if lost then s.setFeed .pause else s
  | .pause => if runConditions s then enterRun s else s
  | _ => s

/-- The measured entry trailing position t of the record of a tag with footprint `foot`: each footprint lane whose tail holds
the tag takes it, and the stations are examined if a lane did (R42). A tail that takes the position it already had counts as
changed (log 14). -/
def measureTails (tag : Nat) (foot : LaneSet) (t : Pos) (s : State) : State :=
  let mine (w : Lane) : Bool :=
    hasLane foot w && match s.seq.tails[w] with
      | some x => x.tag == tag
      | none => false
  if allLanes.any mine then
    examine
      { s with
        seq :=
          { s.seq with
            tails :=
              allLanes.foldl (fun v w => if mine w then vmod v w (Option.map fun x => { x with pos := t }) else v)
                s.seq.tails } }
  else s

end Sys2Proof.Machine
end

