-- ==== Sys2Proof/Machine/Slots.lean ====
section
/-! DEFINITION. The slot table: making, joining, cancelling, moving (R116 to R119). -/

namespace Sys2Proof.Machine

open Sys2Proof

/-- The slots with an action other than REJECT. -/
def plainCount (slots : List Slot) : Nat := (slots.filter fun sl => decide (sl.action ≠ .reject)).length

/-- There is room for a slot of an action (R117). -/
def hasRoom (slots : List Slot) (a : SlotAction) : Bool :=
  decide (slots.length < Config.slotPlaces) && (decide (a = .reject) || decide (plainCount slots < Config.plainSlots))

/-- The table with a slot put in at its place by position, counted from the present P, after the slots of its position
(R116). -/
def insertSlot (p : Pos) (x : Slot) : List Slot → List Slot
  | [] => [x]
  | y :: ys => if posDiff x.pos p < posDiff y.pos p then x :: y :: ys else y :: insertSlot p x ys

/-- The lowest place from n on, among `fuel` tries, that no slot holds (log 12). -/
def freePlace (slots : List Slot) : Nat → Nat → Nat
  | 0, n => n
  | fuel + 1, n => if slots.any fun y => y.place == n then freePlace slots fuel (n + 1) else n

/-- The slot in a place. -/
def State.slot? (s : State) (place : Nat) : Option Slot := s.sched.slots.find? fun y => y.place == place

/-- The state with the slot table set. -/
def State.setSlots (s : State) (slots : List Slot) : State := { s with sched := { s.sched with slots := slots } }

/-- A firing of the present edge is to come and none of it has been taken (R120): a slot that is due still stands. -/
def firingAhead (s : State) : Bool :=
  !s.inputs.estop && s.due.contains .firing &&
    s.sched.slots.any fun y => s.due.contains (.fire y.place) && atOrPast s.line.p y.pos

/-- The events due once a slot has been made in a place: nothing is due from a slot that held the place before, and the new
slot, at or behind P, fires at this edge when its making is taken before the edge's firing, and otherwise at the next forward
edge (R120, log 27). -/
def dueAfterMaking (place : Nat) (pos : Pos) (s : State) : List Due :=
  s.due.filter (· ≠ .fire place) ++ if firingAhead s && atOrPast s.line.p pos then [.fire place] else []

/-- A slot asked for by the Fold Planner; `none` when it is refused (R117). -/
def makeSlot (pos : Pos) (a : SlotAction) (d : Drive) (tag : Nat) (s : State) : Option State :=
  if hasRoom s.sched.slots a then
    let place := freePlace s.sched.slots Config.slotPlaces 0
    let x : Slot := { place := place, pos := pos, action := a, drive := d, tags := [tag], passed := false }
    let s := { s.setSlots (insertSlot s.line.p x s.sched.slots) with due := dueAfterMaking place pos s }
    some (s.modPiece tag fun r => { r with actions := r.actions ++ [place] })
  else none

/-- A tag joins a standing CROSS slot (R117). -/
def joinSlot (place tag : Nat) (s : State) : State :=
  (s.setSlots (s.sched.slots.map fun y => if y.place == place then { y with tags := y.tags ++ [tag] } else y)).modPiece tag
    fun r => { r with actions := r.actions ++ [place] }

/-- A slot with a tag withdrawn: gone when it named that tag alone (R118). -/
def withdraw (tag : Nat) (y : Slot) : Option Slot :=
  if y.tags.contains tag then
    let rest := y.tags.filter (· ≠ tag)
    if rest.isEmpty then none else some { y with tags := rest }
  else some y

/-- A cancellation of a slot for a tag (R118). -/
def cancelSlot (tag place : Nat) (s : State) : State :=
  (s.setSlots (s.sched.slots.filterMap fun y => if y.place == place then withdraw tag y else some y)).modPiece tag fun r =>
    { r with actions := r.actions.filter (· ≠ place) }

/-- The cancellation of every slot in a list of places, for a tag. -/
def cancelSlots (tag : Nat) (places : List Nat) (s : State) : State := places.foldl (fun s pl => cancelSlot tag pl s) s

/-- A slot taken out of the table, with its reference taken from each tag it names (R120, R125). -/
def removeSlot (x : Slot) (s : State) : State :=
  let s := s.setSlots (s.sched.slots.filter fun y => !(y.place == x.place))
  x.tags.foldl (fun s tag => s.modPiece tag fun r => { r with actions := r.actions.filter (· ≠ x.place) }) s

/-- A move of a slot to a new position (R119). -/
def moveSlot (place : Nat) (pos : Pos) (s : State) : State :=
  match s.slot? place with
  | some x =>
    s.setSlots
      (insertSlot s.line.p { x with pos := pos } (s.sched.slots.filter fun y => !(y.place == place)))
  | none => s

end Sys2Proof.Machine
end

