-- ==== Sys2Proof/Machine/Completion.lean ====
section
/-! DEFINITION. Writing the Completion Log with the writer's work, and completing a record (R69, R70, R140, R147, R148, R156 to
R160). -/

namespace Sys2Proof.Machine

open Sys2Proof

/-- The log holds fewer than 32 entries (R159, R160). -/
def logHasRoom (s : State) : Bool := decide (s.log.entries.length < Config.logSize)

/-- The entry counter moved on: 65535 is followed by 0 (R156). -/
def nextEntryNumber (n : Nat) : Nat := if n < 65535 then n + 1 else 0

/-- An entry written at the back of the log under the next entry number (R156). -/
def appendEntry (b : EntryBody) (s : State) : State :=
  { s with
    log :=
      { s.log with
        entries := s.log.entries ++ [{ number := s.log.counter, body := b }], counter := nextEntryNumber s.log.counter } }

/-- A notice asked for: written if the log has room, and otherwise dropped with the flag set (R160). -/
def notice (code : Nat) (pos : Pos) (s : State) : State :=
  if logHasRoom s then appendEntry (.notice code pos) s else { s with log := { s.log with dropped := true } }

/-- The LOT entry of a lot as it stands (R158). -/
def lotEntry (l : Lot) : LotEntry where
  lotId := l.id
  released := l.released
  stacked := l.stacked
  returned := l.returned
  rejected := l.rejected
  lost := l.lost
  purged := l.purged
  inFlight := l.inFlight

/-- The write of a lot's summary, with the freeing of its slot (R140, R159). -/
def writeSummary (i : LotSlot) (s : State) : State :=
  (appendEntry (.lot (lotEntry s.lot.lots[i])) s).modLot i fun _ => Lot.free

/-- A lot summary asked for: written at once, or pending at the back of the order (R140, R159). -/
def requestSummary (i : LotSlot) (s : State) : State :=
  if logHasRoom s && s.log.order.isEmpty then writeSummary i s
  else
    let s := s.modLot i fun l => { l with summaryPending := true }
    { s with log := { s.log with order := s.log.order ++ [.lot i] } }

/-- The end of a lot's close: unbound with an examination if it was bound, then its summary asked for (R140). The work that
falls to the same act is done between the unbinding and its examination, so that every examination finds the lot already unbound
(R133). -/
def endClose (i : LotSlot) (work : State → State) (s : State) : State :=
  requestSummary i (if s.lot.lots[i].bin.isSome then examine (work (unbindLot i s)) else work s)

/-- A program record applied: in force, its store write asked for, the stations examined (R147). `replies` says that a reply
waits on the store write (R155). -/
def applyProgram (ix : ProgramIx) (pr : Program) (replies : Bool) (s : State) : State :=
  examine
    { s with
      prog :=
        { s.prog with
          programs := vmod s.prog.programs ix fun _ => pr
          queue := s.prog.queue ++ [{ record := .program ix pr, replies := replies }] } }

/-- The staged copy of a program is applied and becomes absent, when its in-flight count is 0 and it has one (R148). -/
def applyStaged (ix : ProgramIx) (s : State) : State :=
  match s.prog.staged[ix] with
  | some pr =>
    if s.prog.inFlight[ix] = 0 then
      applyProgram ix pr false { s with prog := { s.prog with staged := vmod s.prog.staged ix fun _ => none } }
    else s
  | none => s

/-- A lot with the count of a completion kind raised and in_flight lowered (R70, R129). -/
def countCompletion (k : CompletionKind) (l : Lot) : Lot :=
  let l := { l with inFlight := l.inFlight - 1 }
  match k with
  | .stacked => { l with stacked := satCount l.stacked }
  | .returned => { l with returned := satCount l.returned }
  | .rejected => { l with rejected := satCount l.rejected }
  | .lost => { l with lost := satCount l.lost }
  | .purged => { l with purged := satCount l.purged }

/-- The PIECE entry of a record with its completion (R157). -/
def pieceEntry (r : Piece) (c : Completion) : PieceEntry where
  tag := r.tag
  kind := r.kind
  lotId := r.lot.map (·.id)
  program := r.program
  station := r.station
  completion := c
  reason := r.reason
  undiverted := r.undiverted
  entryLength := r.entryLength
  exitLength := r.exitLength
  bin := r.bin

/-- The in-flight count of a record's program lowered (R70, R148). -/
def lowerProgram (ix : ProgramIx) (s : State) : State :=
  { s with prog := { s.prog with inFlight := vmod s.prog.inFlight ix (· - 1) } }

/-- The counts of the lot and the program of a completed record change (R70, step 1). A STRAY record has neither. -/
def countPiece (r : Piece) (k : CompletionKind) (s : State) : State :=
  let s := match r.lot with
    | some l => s.modLot l.slot (countCompletion k)
    | none => s
  match r.program with
  | some ix => lowerProgram ix s
  | none => s

/-- A staged copy of the program of a record is applied if the record was the program's last (R148). -/
def stagedIfDone (r : Piece) (s : State) : State :=
  match r.program with
  | some ix => applyStaged ix s
  | none => s

/-- What the counts of a written record bring: a staged apply (R148), and the end of the close of its CLOSING lot with in_flight
at 0, which is unbound before the stations are examined for either (R133, R140; log 5). -/
def closeAndApply (r : Piece) (s : State) : State :=
  match r.lot with
  | some l =>
    if s.lot.lots[l.slot].state = .closing ∧ s.lot.lots[l.slot].inFlight = 0 then endClose l.slot (stagedIfDone r) s
    else stagedIfDone r s
  | none => stagedIfDone r s

/-- The write of a record's PIECE entry with its writer's work: the counts, the freeing of the record, the end of a close and a
staged apply that the counts bring, the examination (R70, R148, R159; log 5). -/
def writePiece (tag : Nat) (s : State) : State :=
  match s.piece? tag with
  | some r =>
    match r.completion with
    | some c =>
      let s := appendEntry (.piece (pieceEntry r c)) s
      let s := (countPiece r c.kind s).freePiece tag
      examine (closeAndApply r s)
    | none => s
  | none => s

/-- A piece entry asked for: written at once, or the record goes to DONE_PENDING and joins the order (R70, R159). -/
def requestPiece (tag : Nat) (s : State) : State :=
  if logHasRoom s && s.log.order.isEmpty then writePiece tag s
  else
    let s := s.modPiece tag fun r => { r with state := .donePending }
    { s with log := { s.log with order := s.log.order ++ [.piece tag] } }

/-- A waiting request of the order of pending writes is written (R159). -/
def writePending (w : PendingWrite) (s : State) : State :=
  match w with
  | .piece tag => writePiece tag s
  | .lot i => writeSummary i s

/-- The room of the log filled from the order of pending writes, at most `fuel` requests (R162, step 4). -/
def fillLog : Nat → State → State
  | 0, s => s
  | fuel + 1, s =>
    match s.log.order with
    | [] => s
    | w :: ws =>
      if logHasRoom s then fillLog fuel (writePending w { s with log := { s.log with order := ws } }) else s

/-- The completion of a record, as one act; ignored when the record has a completion already (R69). -/
def complete (tag : Nat) (k : CompletionKind) (stage : Option Stage) (s : State) : State :=
  match s.piece? tag with
  | some r =>
    if r.completion.isSome then s
    else
      let s := s.modPiece tag fun r => { r with completion := some { kind := k, stage := stage, pos := s.line.p } }
      let s := cancelSlots tag r.actions s
      let s := s.modPiece tag fun r => { r with actions := [] }
      requestPiece tag { s with track := leaveLists tag s.track }
  | none => s

end Sys2Proof.Machine
end

