-- ==== Sys2Proof/Machine/Planner.lean ====
section
/-! DEFINITION. The Fold Planner: length estimate, fold offsets, the fold and reject plans, reasons that arrive after planning,
refinement, drops (R96 to R112), with the windows and the expectation of the stacker that they read (R77, R89, R93). -/

namespace Sys2Proof.Machine

open Sys2Proof

/-- A position lies inside the margin: less than the arming distance ahead of P (R97). -/
def insideMargin (s : State) (q : Pos) : Bool := decide (posDiff q s.line.p < (s.prog.settings.arming : Int))

/-- The record of the program of a FED record (R60). -/
def pieceProgram (s : State) (r : Piece) : Option ProgramRec :=
  match r.program with
  | some ix => s.prog.programs[ix]
  | none => none

/-! ### Length estimate and fold offsets (R98, R99) -/

/-- L_est = floor((L × shrink + 512) / 1024), clamped to 1..16383 (R98). -/
def lengthEstimate (len shrink : Nat) : Nat := max 1 (min Config.maxLength ((len * shrink + 512) / 1024))

/-- The fold offset of a fraction (R99). -/
def foldOffset (len f : Nat) : Nat := len * f / 256

/-- The largest difference of consecutive boundaries, the first boundary given (R99). -/
def largestGap : Nat → List Nat → Nat
  | _, [] => 0
  | a, b :: bs => max (b - a) (largestGap b bs)

/-- The pack length Lf (R99). -/
def packLength (len : Nat) (folds : List Nat) : Nat := largestGap 0 (folds.map (foldOffset len) ++ [len])

/-- The cross offset (R99). -/
def crossOffset (len : Nat) (folds : List Nat) : Nat := (packLength len folds + 1) / 2

/-- The position of a fold at a fraction (R101). -/
def foldPos (s : State) (x : Pos) (len f : Nat) : Pos :=
  posSub (posAdd (posAdd x s.prog.settings.dPf) (foldOffset len f)) (lead s s.prog.settings.tPf)

/-- The cross position (R102). -/
def crossPos (s : State) (x : Pos) (len : Nat) (folds : List Nat) : Pos :=
  posSub (posAdd (posAdd x s.prog.settings.dXf) (crossOffset len folds)) (lead s s.prog.settings.tXf)

/-- The reject position (R104). -/
def rejectPos (s : State) (x : Pos) : Pos := posSub (posAdd x s.prog.settings.dRj) (lead s s.prog.settings.tRj)

/-- The drop position for bin b (R111). -/
def dropPos (s : State) (c : Pos) (b : Bin) : Pos :=
  posSub (posAdd c s.prog.settings.dBin[b]) (lead s s.prog.settings.tBin)

/-! ### Windows, expiry points, the stacker's expectation (R77, R89) -/

/-- The predicted position of a record at the eye group of a stage (R77). -/
def predicted (c : LineSettings) : Stage → Piece → Pos
  | .feed, r => r.ePred.getD 0#32
  | .iron, r => xPred c r
  | .fold, r => kPred c r

/-- The early and late tolerances of an eye group (R77). -/
def tolerances (c : LineSettings) : Stage → Nat × Nat
  | .feed => (c.tolEntryEarly, c.tolEntryLate)
  | .iron => (c.tolExitEarly, c.tolExitLate)
  | .fold => (c.tolStkEarly, c.tolStkLate)

/-- A position lies in the window of a record at an eye group, both ends included (R77). -/
def inWindow (c : LineSettings) (st : Stage) (r : Piece) (q : Pos) : Bool :=
  let pred := predicted c st r
  let tol := tolerances c st
  atOrPast q (posSub pred tol.1) && atOrPast (posAdd pred tol.2) q

/-- The expiry point of a record at an eye group (R77). -/
def expiryPoint (c : LineSettings) (st : Stage) (r : Piece) : Pos :=
  posAdd (posAdd (predicted c st r) (tolerances c st).2) c.eyeMin

/-- A record expects the stacker (R89). -/
def expectsStacker (r : Piece) : Bool :=
  decide (r.state = .folding) && (r.undiverted || (decide (r.route = .stack) && r.reason.isNone))

/-- A record still waits at the eye group of a stage (R92). -/
def stillWaits (st : Stage) (r : Piece) : Bool :=
  r.completion.isNone &&
    match st with
    | .feed => decide (r.state = .released)
    | .iron => decide (r.state = .ironing)
    | .fold => expectsStacker r

/-- The eyes at which a record of a stage waits: those of its footprint lanes, or K (R94). -/
def waitEyes (st : Stage) (r : Piece) : List Eye :=
  match st with
  | .feed => (allLanes.filter (hasLane r.footprint)).map .n
  | .iron => (allLanes.filter (hasLane r.footprint)).map .x
  | .fold => [.k]

/-- The expiry of a record is held back: one of its eyes is PENDING with a captured lead inside its window and P - C_lead equal
to eye_min (R94). -/
def heldBack (s : State) (st : Stage) (r : Piece) : Bool :=
  (waitEyes st r).any fun e =>
    let x := s.eye e
    decide (x.state = .pending) && inWindow s.prog.settings st r x.cLead &&
      decide (posDiff s.line.p x.cLead = (s.prog.settings.eyeMin : Int))

/-- A record is lost at a stage: LOST is latched, then the record completes LOST (R92, R93). -/
def expire (st : Stage) (tag : Nat) (s : State) : State := complete tag .lost (some st) (latchFault .lost s)

/-! ### Reject reasons (R62) -/

/-- A record takes a reject reason; one that holds a reason keeps it (R62). -/
def takeReason (tag : Nat) (why : RejectReason) (s : State) : State :=
  s.modPiece tag fun r => if r.reason.isNone then { r with reason := some why } else r

/-- The action of the slot in a place. -/
def actionAt (s : State) (place : Nat) : Option SlotAction := (s.slot? place).map (·.action)

/-- The expiry of a record is taken: it is held back for an acceptance on the same edge, or the record expires (R92 to R94). -/
def expireOrHold (st : Stage) (tag : Nat) (s : State) : State :=
  match s.piece? tag with
  | some r => if heldBack s st r then { s with heldExpiry := s.heldExpiry ++ [tag] } else expire st tag s
  | none => s

/-- A record becomes undiverted; if it then expects the stacker with its expiry point passed, its expiry is taken at once, or held
back (R93, R94, R104; log 15). -/
def becomeUndiverted (tag : Nat) (s : State) : State :=
  let s := s.modPiece tag fun r => { r with undiverted := true }
  match s.piece? tag with
  | some r =>
    if stillWaits .fold r && atOrPast s.line.p (expiryPoint s.prog.settings .fold r) then expireOrHold .fold tag s else s
  | none => s

/-- A slot that cannot be had ends a record: the reason SLOT_FULL, the latch NO_SLOT, LOST at stage FOLD (R105, R107). -/
def lostForSlot (tag : Nat) (s : State) : State :=
  complete tag .lost (some .fold) (latchFault .noSlot (takeReason tag .slotFull s))

/-- The reject plan of a record with an exit lead (R104, R105). -/
def rejectPlan (tag : Nat) (s : State) : State :=
  match s.piece? tag with
  | some r =>
    if r.undiverted || r.actions.any fun pl => decide (actionAt s pl = some .reject) then s
    else
      let q := rejectPos s (r.exitLead.getD 0#32)
      if insideMargin s q then becomeUndiverted tag (latchFault .undiverted s)
      else
        match makeSlot q .reject .rj tag s with
        | some s => s
        | none => lostForSlot tag s
  | none => s

/-- The fold and cross slots of a record are cancelled, and the reject plan is carried out (R106). -/
def planAway (tag : Nat) (s : State) : State :=
  match s.piece? tag with
  | some r =>
    let folds := r.actions.filter fun pl =>
      match actionAt s pl with
      | some .fold1 => true
      | some .fold2 => true
      | some .cross => true
      | _ => false
    rejectPlan tag (cancelSlots tag folds s)
  | none => s

/-- A reason arrives on a record: it is taken as R62 gives, and if it is the first and the record is FOLDING, the folds are
taken back and the reject plan follows (R106). On any other record it is only written. -/
def reasonArrives (tag : Nat) (why : RejectReason) (s : State) : State :=
  match s.piece? tag with
  | some r =>
    if r.reason.isSome || r.completion.isSome then s
    else
      let s := takeReason tag why s
      if r.state = .folding then planAway tag s else s
  | none => s

/-! ### Planning at the exit lead (R100 to R103, R107) -/

/-- The distance between two positions, counted in either direction (R102). -/
def posDistance (a b : Pos) : Nat := (posDiff a b).natAbs

/-- The CROSS slots within xf_cycle of a position, in table order (R102). -/
def nearCross (s : State) (q : Pos) : List Slot :=
  s.sched.slots.filter fun y => decide (y.action = .cross) && decide (posDistance y.pos q < s.prog.settings.xfCycle)

/-- A CROSS slot is of the program and lot of a record: every record it names is (R102). -/
def sameWork (s : State) (r : Piece) (y : Slot) : Bool :=
  y.tags.all fun t =>
    match s.piece? t with
    | some o => decide (o.program = r.program) && decide (o.lot.map (·.id) = r.lot.map (·.id))
    | none => false

/-- What a record's cross position meets (R102). -/
inductive CrossOutcome where
  | fresh
  | join (place : Nat)
  | conflict
  deriving DecidableEq, Repr

/-- The outcome of R102 for a record and its cross position. -/
def crossOutcome (s : State) (r : Piece) (q : Pos) : CrossOutcome :=
  let near := nearCross s q
  if near.isEmpty then .fresh
  else if !near.all (sameWork s r) then .conflict
  else
    match near.find? fun y => decide (y.tags.length < Config.crossTags) with
    | some y => .join y.place
    | none => .conflict

/-- A request of the fold plan to the Actuator Scheduler (R103, step 4). -/
inductive PlanRequest where
  | make (pos : Pos) (a : SlotAction) (d : Drive)
  | join (place : Nat)
  deriving DecidableEq, Repr

/-- The requests of the fold plan, one after another; at a refusal the rest are not made, and the record takes SLOT_FULL and
is dealt with as R106 gives (R103, R107). -/
def askAll (tag : Nat) : List PlanRequest → State → State
  | [], s => s
  | .join place :: rest, s => askAll tag rest (joinSlot place tag s)
  | .make pos a d :: rest, s =>
    match makeSlot pos a d tag s with
    | some s => askAll tag rest s
    | none => planAway tag (takeReason tag .slotFull s)

/-- The action of the primary fold of the i-th fraction (R101). -/
def foldAction (i : Nat) : SlotAction := if i = 0 then .fold1 else .fold2

/-- The FOLD requests of a list of positions, the first being the fold of index i (R101). -/
def foldRequests (d : Drive) : Nat → List Pos → List PlanRequest
  | _, [] => []
  | i, q :: qs => .make q (foldAction i) d :: foldRequests d (i + 1) qs

/-- The fold plan of a FED record with route STACK and no reason (R101 to R103). -/
def foldPlan (tag : Nat) (r : Piece) (pr : ProgramRec) (s : State) : State :=
  let x := r.exitLead.getD 0#32
  let len := r.lEst.getD 0
  let folds := if pr.fold then pr.folds.map (foldPos s x len) else []
  let cross : Option Pos := if pr.fold && pr.cross then some (crossPos s x len pr.folds) else none
  if folds.any (insideMargin s) || cross.any (insideMargin s) then rejectPlan tag (takeReason tag .lateFold s)
  else
    let asks := foldRequests (.pf r.footprint) 0 folds
    match cross with
    | none => askAll tag asks s
    | some q =>
      match crossOutcome s r q with
      | .conflict => rejectPlan tag (takeReason tag .xfConflict s)
      | .fresh => askAll tag (asks ++ [.make q .cross .xf]) s
      | .join place => askAll tag (asks ++ [.join place]) s

/-- L_est of a FED record at its exit match, written into the record (R98). -/
def writeEstimate (tag : Nat) (s : State) : State :=
  match s.piece? tag with
  | some r =>
    match pieceProgram s r with
    | some pr =>
      s.modPiece tag fun r => { r with lEst := some (lengthEstimate (r.entryLength.getD pr.nominal) pr.shrink) }
    | none => s
  | none => s

/-- The planning of a record at its exit match: L_est, then the fold plan or the reject plan (R98, R100). -/
def planExit (tag : Nat) (s : State) : State :=
  let s := writeEstimate tag s
  match s.piece? tag with
  | some r =>
    match pieceProgram s r with
    | some pr => if r.route = .stack ∧ r.reason = none then foldPlan tag r pr s else rejectPlan tag s
    | none => rejectPlan tag s
  | none => s

/-! ### Exit length: comparison and refinement (R108, R109) -/

/-- The position that refinement computes for a slot of an action (R109). -/
def refinedPos (s : State) (x : Pos) (len : Nat) (pr : ProgramRec) : SlotAction → Option Pos
  | .fold1 => pr.folds[0]?.map (foldPos s x len)
  | .fold2 => pr.folds[1]?.map (foldPos s x len)
  | .cross => some (crossPos s x len pr.folds)
  | _ => none

/-- A slot of the record of a tag may be moved to a new position (R109, conditions 1 to 5). -/
def mayMove (s : State) (tag : Nat) (y : Slot) (q : Pos) : Bool :=
  !insideMargin s y.pos && !insideMargin s q && !y.passed &&
    (decide (y.action ≠ .cross) ||
      (decide (y.tags = [tag]) &&
        s.sched.slots.all fun z =>
          z.place == y.place || decide (z.action ≠ .cross) || decide (s.prog.settings.xfCycle ≤ posDistance q z.pos)))

/-- The refinement of one slot of a record; a slot whose new position is its standing one stays (R109, log 13). -/
def refineSlot (tag : Nat) (x : Pos) (len : Nat) (pr : ProgramRec) (s : State) (place : Nat) : State :=
  match s.slot? place with
  | some y =>
    match refinedPos s x len pr y.action with
    | some q => if mayMove s tag y q && decide (q ≠ y.pos) then moveSlot place q s else s
    | none => s
  | none => s

/-- The exit length of a record handed to the Fold Planner: EXIT_MISMATCH, or refinement (R108, R109). A STRAY record is not
compared. The slots are refined one after another in the order of the record's pending actions: R109 names none, and the order,
which decides how FOLD1 and FOLD2 stand in the table when both move to one position (R99, R116), is the model's choice
(log 32). -/
def exitLengthKnown (tag : Nat) (len : Nat) (s : State) : State :=
  match s.piece? tag with
  | some r =>
    match pieceProgram s r, r.lEst with
    | some pr, some est =>
      if pr.refineWindow < ((len : Int) - (est : Int)).natAbs then reasonArrives tag .exitMismatch s
      else r.actions.foldl (refineSlot tag (r.exitLead.getD 0#32) len pr) s
    | _, _ => s
  | none => s

/-! ### Drops (R107, R111, R112) -/

/-- The planning of a record at its stacker match: the bin and a DROP slot, or STACKED at once for a record without a lot
(R111, R112; log 16 for a lot without a bin). -/
def planDrop (tag : Nat) (s : State) : State :=
  match s.piece? tag with
  | some r =>
    match r.lot.bind fun l => s.lot.lots[l.slot].bin with
    | some b =>
      let s := s.modPiece tag fun r => { r with bin := some b }
      match makeSlot (dropPos s (r.stackerLead.getD 0#32) b) .drop (.bf b) tag s with
      | some s => s
      | none => lostForSlot tag s
    | none => complete tag .stacked none s
  | none => s

end Sys2Proof.Machine
end

