-- ==== Sys2Proof/Machine/Layouts.lean ====
section
/-! DEFINITION. The layouts of records, log entries and reply bodies (R171, R176). -/

namespace Sys2Proof.Machine

open Sys2Proof

/-- A number of one character. -/
def b8 (n : Nat) : Byte := BitVec.ofNat 8 n

/-- A position, 4 characters, low byte first (R168). -/
def posBytes (p : Pos) : List Byte := le32 p.toNat

/-- A set of lanes, one character; bits 4 to 7, which name no lane, are 0: the model's choice (R176; log 33). -/
def laneByte (l : LaneSet) : Byte := l.setWidth 8

/-- An index sent as a number from 1, 0 if absent. -/
def ixByte {n : Nat} : Option (Fin n) → Byte
  | some i => b8 (i.val + 1)
  | none => 0

/-- A program sent as its number, 0xFF if absent. -/
def programByte : Option ProgramIx → Byte
  | some i => b8 i.val
  | none => 0xFF

/-- A record of the program table, 18 characters; an EMPTY one is all zeros (R176). The fraction bytes beyond the number of
fractions and the attribute bits above bit 2, which R176 says are not read on a write, are sent as 0: the model's choice (log
31). -/
def programBytes : Program → List Byte
  | none => List.replicate 18 0
  | some r =>
    [1, widthCode r.width] ++ le16 r.nominal ++ le16 r.minLength ++ le16 r.maxLength ++ le16 r.gapMin ++ le16 r.shrink ++
      [b8 r.folds.length, b8 (r.folds.getD 0 0), b8 (r.folds.getD 1 0), flagByte [r.fold, r.cross, r.stack]] ++
      le16 r.refineWindow

/-- The line settings record, 83 characters, in the order of the table of R151 (R171). -/
def settingsBytes (c : LineSettings) : List Byte :=
  [laneByte c.lanes] ++ c.dStation.toList.flatMap le16 ++ le16 c.lIron ++ le16 c.dPf ++ le16 c.dRj ++ le16 c.dXf ++
    le16 c.dStk ++ c.dBin.toList.flatMap le16 ++ le16 c.tolEntryEarly ++ le16 c.tolEntryLate ++ le16 c.tolExitEarly ++
    le16 c.tolExitLate ++ le16 c.tolStkEarly ++ le16 c.tolStkLate ++ [b8 c.tRel, b8 c.tPf, b8 c.tXf, b8 c.tRj, b8 c.tBin] ++
    le16 c.wRel ++ le16 c.wPf ++ le16 c.wXf ++ le16 c.wRj ++ le16 c.wBin ++ le16 c.wSr ++ le16 c.leadMax ++ le16 c.arming ++
    le16 c.xfCycle ++ [b8 c.eyeMin] ++ le16 c.eyeBlock ++ le16 c.speedMin ++ le16 c.speedNominal ++ le16 c.lotGap ++
    [b8 c.binsEnabled] ++ le32 c.idleDistance ++
    [match c.faultMode with
      | .hold => 0
      | .carryOn => 1,
      match c.rotation with
      | .sequential => 0
      | .crossed => 1, b8 c.starveLimit]

/-- An assignment with a first byte that says present or what it is: flag, program, lot id; absent fields are 0 (R176). -/
def assignmentBytes (flag : Byte) : Option Assignment → List Byte
  | some a => [flag, b8 a.program.val] ++ le16 a.lotId
  | none => [flag, 0] ++ le16 0

/-- The pair of a next assignment. -/
def nextPair : NextAssignment → Option Assignment
  | .pair a => some a
  | _ => none

/-- The STATION READ reply, 17 characters (R33, R176). -/
def stationBytes (s : State) (k : StationIx) : List Byte :=
  let st := s.stations[k]
  [stationCode st.state, boolByte st.disablePending] ++ assignmentBytes (boolByte st.current.isSome) st.current ++
    assignmentBytes (nextCode st.next) (nextPair st.next) ++ assignmentBytes (boolByte st.snapshot.isSome) st.snapshot ++
    [b8 st.waitCount, waitCode st.waitReason, boolByte (isStarving s k)]

/-- The LOT READ reply, 26 characters (R141, R176). -/
def lotBytes (i : LotSlot) (l : Lot) : List Byte :=
  [b8 (i.val + 1), lotCode l.state] ++ le16 l.id ++ [b8 l.stackSize, ixByte l.bin] ++ posBytes l.lastUse ++ le16 l.released ++
    le16 l.stacked ++ le16 l.returned ++ le16 l.rejected ++ le16 l.lost ++ le16 l.purged ++ le16 l.inFlight ++
    [b8 l.stackCount, boolByte l.summaryPending]

/-- The slot actions of a record's pending actions, in the order of their entry, padded with 0 to 5 characters (R176). -/
def actionBytes (s : State) (r : Piece) : List Byte :=
  let acts := r.actions.map fun pl =>
    match actionAt s pl with
    | some a => actionCode a
    | none => 0
  (acts ++ List.replicate 5 0).take 5

/-- The PIECE READ reply, 59 characters (R72, R176). Bits 2 to 7 of byte 8, to which R176 assigns no flag, are 0: the model's
choice (log 33). -/
def pieceBytes (s : State) (r : Piece) : List Byte :=
  le16 r.tag ++ posBytes r.take ++
    [pieceStateCode r.state,
      flagByte
        [decide (r.kind = .stray), r.undiverted, decide (r.route = .back), r.entryLead.isSome, r.entryLength.isSome,
          r.lEst.isSome, r.exitLead.isSome, r.exitLength.isSome],
      flagByte [r.stackerLead.isSome, r.completion.isSome], ixByte r.station, programByte r.program,
      ixByte (r.lot.map (·.slot))] ++
    le16 ((r.lot.map (·.id)).getD 0) ++
    [laneByte r.footprint, laneByte r.entrySeen, laneByte r.entryEnded, laneByte r.exitSeen, laneByte r.exitEnded] ++
    posBytes (r.grantPos.getD 0) ++ posBytes (r.ePred.getD 0) ++ posBytes (r.entryLead.getD 0) ++
    le16 (r.entryLength.getD 0) ++ le16 (r.lEst.getD 0) ++ posBytes (r.exitLead.getD 0) ++ le16 (r.exitLength.getD 0) ++
    posBytes (r.stackerLead.getD 0) ++
    [ixByte r.bin, rejectCode r.reason,
      match r.completion with
      | some c => completionCode c.kind
      | none => 0,
      stageCode (r.completion.bind (·.stage))] ++
    posBytes
      (match r.completion with
        | some c => c.pos
        | none => 0) ++
    [b8 r.actions.length] ++ actionBytes s r

/-- A run of characters padded with 0 to n. -/
def padTo (n : Nat) (l : List Byte) : List Byte := l ++ List.replicate (n - l.length) 0

/-- A log entry, 24 characters (R157, R158, R176). Bits 4 to 7 of the flags of a PIECE entry, to which R176 assigns no flag, are 0
(log 33), and so are the two bytes of an entry length or exit length that is absent (log 34): the model's choices. -/
def entryBytes (e : LogEntry) : List Byte :=
  padTo 24 <|
    match e.body with
    | .piece x =>
      [1] ++ le16 e.number ++ le16 x.tag ++
        [flagByte [decide (x.kind = .stray), x.undiverted, x.entryLength.isSome, x.exitLength.isSome]] ++
        le16 (x.lotId.getD 0) ++ [programByte x.program, ixByte x.station, completionCode x.completion.kind,
          stageCode x.completion.stage, rejectCode x.reason, ixByte x.bin] ++ le16 (x.entryLength.getD 0) ++
        le16 (x.exitLength.getD 0) ++ posBytes x.completion.pos
    | .lot x =>
      [2] ++ le16 e.number ++ le16 x.lotId ++ le16 x.released ++ le16 x.stacked ++ le16 x.returned ++ le16 x.rejected ++
        le16 x.lost ++ le16 x.purged ++ le16 x.inFlight
    | .notice code pos => [3] ++ le16 e.number ++ [b8 code] ++ posBytes pos

/-- A set of fault reasons, one character; bit 7, which names no reason, is 0: the model's choice (R176; log 33). -/
def reasonByte (s : ReasonSet) : Byte := s.setWidth 8

/-- A signed number of two characters, in two's complement (R168). -/
def signed16 (i : Int) : List Byte := le16 (BitVec.ofInt 16 i).toNat

/-- The STATUS reply, 19 characters (R165, R176). Bit 7 of its flags, to which R176 assigns no flag, is 0: the model's choice
(log 33). -/
def statusBytes (s : State) : List Byte :=
  [feedCode s.seq.feed, blockingCode (blocking s)] ++ posBytes s.line.p ++ signed16 (clampedSpeed s.line) ++
    [flagByte
        [settled s.line, s.log.dropped, s.latch.latched, !s.prog.valid, decide (s.inputs.key = .run), s.inputs.estop,
          s.inputs.lineRun],
      b8 s.track.pool.length, b8 s.sched.slots.length, b8 s.log.entries.length, b8 s.log.order.length,
      faultCode s.latch.first, reasonByte s.latch.seen] ++
    s.stations.toList.map fun st => stationCode st.state

/-- The FEED reply: feed state and blocking condition (R36, R176). -/
def feedBytes (s : State) : List Byte := [feedCode s.seq.feed, blockingCode (blocking s)]

/-- The PROGRAM READ reply, 38 characters (R150, R176). -/
def programReadBytes (s : State) (ix : ProgramIx) : List Byte :=
  programBytes s.prog.programs[ix] ++ [b8 s.prog.inFlight[ix], boolByte (s.prog.staged[ix]).isSome] ++
    programBytes (s.prog.staged[ix].getD none)

end Sys2Proof.Machine
end

