-- ==== Sys2Proof/Machine/Operands.lean ====
section
/-! DEFINITION. The operands of the requests: reading the numbers and records of a body, and the checks of the program record
and of the line settings record (R145, R152, R171, R176). -/

namespace Sys2Proof.Machine

open Sys2Proof

/-- The number in character i of a body. -/
def rd8 (b : List Byte) (i : Nat) : Nat := (b.getD i 0).toNat

/-- The number in characters i and i + 1 of a body, low byte first (R168). -/
def rd16 (b : List Byte) (i : Nat) : Nat := rd8 b i + 256 * rd8 b (i + 1)

/-- The number in characters i to i + 3 of a body, low byte first (R168). -/
def rd32 (b : List Byte) (i : Nat) : Nat := rd16 b i + 65536 * rd16 b (i + 2)

/-- A station number 1..4 (R26, R29, R33). -/
def stationOf (n : Nat) : Option StationIx := if h : 1 ≤ n ∧ n ≤ 4 then some ⟨n - 1, by omega⟩ else none

/-- A program index 0..31 (R26, R146, R150). -/
def programOf (n : Nat) : Option ProgramIx := if h : n < 32 then some ⟨n, h⟩ else none

/-- n lies in a..b. -/
def within (a b n : Nat) : Bool := decide (a ≤ n) && decide (n ≤ b)

/-! ### The program record (R144, R145, R176) -/

/-- A width class byte (R176). -/
def widthOf : Nat → Option WidthClass
  | 1 => some .single
  | 2 => some .double
  | 3 => some .full
  | _ => none

/-- The fold fractions given: the first n of the two bytes; a byte beyond the number given is not read (R176). -/
def foldsOf (n f1 f2 : Nat) : List Nat := [f1, f2].take n

/-- Checks 3 to 6 and 8 of R145; checks 1 and 2 are made as the bytes are read, and check 7 is that of a bit. -/
def ProgramRec.passes (r : ProgramRec) : Bool :=
  within 200 6000 r.nominal && (decide (r.minLength ≤ r.nominal) && decide (r.nominal ≤ r.maxLength) &&
    decide (r.maxLength ≤ 16383)) && (within 50 3000 r.gapMin && within 900 1100 r.shrink && within 0 500 r.refineWindow) &&
    (decide (r.folds.length ≤ 2) && r.folds.all (within 1 255) &&
      match r.folds with
      | [f1, f2] => decide (f1 < f2)
      | _ => true) && (r.fold || (r.folds.isEmpty && !r.cross))

/-- A program record passes the checks of R145; an EMPTY one is checked at step 1 alone. -/
def programPasses : Program → Bool
  | none => true
  | some r => r.passes

/-- The program record in the 18 characters of a body from i on, if it passes the checks of R145 (R176). The attribute bits
above bit 2 are not read. -/
def readProgram (b : List Byte) (i : Nat) : Option Program :=
  match rd8 b i with
  | 0 => some none
  | 1 =>
    match widthOf (rd8 b (i + 1)) with
    | none => none
    | some width =>
      let attr := b.getD (i + 15) 0
      let r : ProgramRec :=
        { width := width, nominal := rd16 b (i + 2), minLength := rd16 b (i + 4), maxLength := rd16 b (i + 6),
          gapMin := rd16 b (i + 8), shrink := rd16 b (i + 10),
          folds := foldsOf (rd8 b (i + 12)) (rd8 b (i + 13)) (rd8 b (i + 14)), fold := attr.getLsbD 0,
          cross := attr.getLsbD 1, stack := attr.getLsbD 2, refineWindow := rd16 b (i + 16) }
      if decide (rd8 b (i + 12) ≤ 2) && r.passes then some (some r) else none
  | _ => none

/-! ### The line settings record (R151, R152, R171) -/

/-- The checks of R152 on the fields of a line settings record. -/
def LineSettings.passes (c : LineSettings) : Bool :=
  decide (c.lanes ≠ 0#4) && c.dStation.toList.all (within 0 4000) && within 1000 30000 c.lIron &&
    ([c.dPf, c.dRj, c.dXf, c.dStk].all (within 100 20000) && decide (c.dPf ≤ c.dRj) && decide (c.dRj < c.dXf) &&
      decide (c.dXf < c.dStk)) &&
    c.dBin.toList.all (within 100 3000) &&
    [c.tolEntryEarly, c.tolEntryLate, c.tolExitEarly, c.tolExitLate, c.tolStkEarly, c.tolStkLate].all (within 0 2000) &&
    [c.tRel, c.tPf, c.tXf, c.tRj, c.tBin].all (within 0 250) &&
    [c.wRel, c.wPf, c.wXf, c.wRj, c.wBin, c.wSr].all (within 5 500) &&
    (within 0 1000 c.leadMax && within 16 1000 c.arming && within 100 3000 c.xfCycle && within 1 50 c.eyeMin &&
      within 1000 30000 c.eyeBlock && within 50 2000 c.speedMin && within 50 5000 c.speedNominal && within 0 5000 c.lotGap &&
      within 1 6 c.binsEnabled && within 0 2000000 c.idleDistance && within 0 15 c.starveLimit)

/-- A fault mode byte (R171). -/
def faultModeOf : Nat → Option FaultMode
  | 0 => some .hold
  | 1 => some .carryOn
  | _ => none

/-- A rotation order byte (R171). -/
def rotationOf : Nat → Option Rotation
  | 0 => some .sequential
  | 1 => some .crossed
  | _ => none

/-- The line settings record of an 83-character body, if it passes the checks of R152 (R171). A lane enable byte with a bit
above lane 4 is outside its range. -/
def readSettings (b : List Byte) : Option LineSettings :=
  match faultModeOf (rd8 b 80), rotationOf (rd8 b 81) with
  | some fm, some rot =>
    let c : LineSettings :=
      { lanes := BitVec.ofNat 4 (rd8 b 0)
        dStation := #v[rd16 b 1, rd16 b 3, rd16 b 5, rd16 b 7]
        lIron := rd16 b 9
        dPf := rd16 b 11
        dRj := rd16 b 13
        dXf := rd16 b 15
        dStk := rd16 b 17
        dBin := #v[rd16 b 19, rd16 b 21, rd16 b 23, rd16 b 25, rd16 b 27, rd16 b 29]
        tolEntryEarly := rd16 b 31
        tolEntryLate := rd16 b 33
        tolExitEarly := rd16 b 35
        tolExitLate := rd16 b 37
        tolStkEarly := rd16 b 39
        tolStkLate := rd16 b 41
        tRel := rd8 b 43
        tPf := rd8 b 44
        tXf := rd8 b 45
        tRj := rd8 b 46
        tBin := rd8 b 47
        wRel := rd16 b 48
        wPf := rd16 b 50
        wXf := rd16 b 52
        wRj := rd16 b 54
        wBin := rd16 b 56
        wSr := rd16 b 58
        leadMax := rd16 b 60
        arming := rd16 b 62
        xfCycle := rd16 b 64
        eyeMin := rd8 b 66
        eyeBlock := rd16 b 67
        speedMin := rd16 b 69
        speedNominal := rd16 b 71
        lotGap := rd16 b 73
        binsEnabled := rd8 b 75
        idleDistance := rd32 b 76
        faultMode := fm
        rotation := rot
        starveLimit := rd8 b 82 }
    if decide (rd8 b 0 < 16) && c.passes then some c else none
  | _, _ => none

end Sys2Proof.Machine
end

