-- ==== Sys2Proof/Machine/Link.lean ====
section
/-! DEFINITION. The Link Interface: the receiver character by character (R169), the request table (R171), the checks of a
request before its owner's (R172, R173), the reply owed (R175, R177). -/

namespace Sys2Proof.Machine

open Sys2Proof

/-! ### The receiver -/

/-- The buffer holds a complete frame of 5 + n characters (R168, R169). -/
def bufferComplete (b : List Byte) : Bool :=
  match b with
  | _ :: _ :: len :: rest => decide (rest.length = len.toNat + 2)
  | _ => false

/-- The buffer's third character has just been taken and is a length above 240 (R169). -/
def lengthTooBig (b : List Byte) : Bool :=
  match b with
  | [_, _, len] => decide (Config.maxBody < len.toNat)
  | _ => false

/-- A character, without parity or framing error, reaches the receiver (R169). -/
def rxChar (l : Link) (c : Byte) : Link :=
  match l.rx with
  | .waiting => { l with rx := .receiving, buffer := [c] }
  | .receiving =>
    let b := l.buffer ++ [c]
    { l with buffer := b, rx := if lengthTooBig b || bufferComplete b then .skipping else .receiving }
  | .skipping => l

/-- A run of characters reaches the receiver alone: what a complete frame asks for is left out here (see `receiveChars`). -/
def rxChars (l : Link) (cs : List Byte) : Link := cs.foldl rxChar l

/-- More than 3 character times pass without a character (R169). -/
def rxQuiet (l : Link) : Link := { l with rx := .waiting }

/-- A character with a parity or framing error, taken as c, reaches the receiver: in RECEIVING the frame is discarded; in
WAITING it begins a frame like any other character (R169). -/
def rxError (c : Byte) (l : Link) : Link :=
  match l.rx with
  | .receiving => { l with rx := .skipping }
  | .waiting => { l with rx := .receiving, buffer := [c] }
  | .skipping => l

/-- The state with the link changed. -/
def State.modLink (s : State) (f : Link → Link) : State := { s with link := f s.link }

/-! ### Replies -/

/-- The reasons of an error reply (R173). -/
inductive RefuseReason where
  | unknownRequest
  | badIndex
  | badValue
  | wrongState
  | locked
  | inUse
  | noRoom
  | badLength
  deriving DecidableEq, Repr

/-- The value of a reason in an error reply (R173). -/
def refuseCode : RefuseReason → Byte
  | .unknownRequest => 1
  | .badIndex => 2
  | .badValue => 3
  | .wrongState => 4
  | .locked => 5
  | .inUse => 6
  | .noRoom => 7
  | .badLength => 8

/-- What the owner of a request answers: a reply body, a reply body that waits for the store write it asked for, no reply, or
a refusal (R173, R175, R177). -/
inductive Answer where
  | reply (body : List Byte)
  | afterStore (body : List Byte)
  | silent
  | refuse (why : RefuseReason)
  deriving DecidableEq, Repr

/-- The reply owed for an answer to a request of a code (R173, R175). The code of an error reply is the code plus 0x80 in one
character; for an unknown code of 0x80 or more, where the sum does not fit one, the sum is taken modulo 256: the model's choice
(log 30). -/
def owedFor (code : Byte) : Answer → Option Owed
  | .reply body => some { code := code, body := body, awaitsStore := false }
  | .afterStore body => some { code := code, body := body, awaitsStore := true }
  | .silent => none
  | .refuse why => some { code := code + 0x80, body := [refuseCode why], awaitsStore := false }

/-- The reply to an addressed request is owed; with the quiet flag yes none is, and no store write has a reply waiting on it
(R174, R177). -/
def owe (code : Byte) (a : Answer) (s : State) : State :=
  if s.link.quiet then s else s.modLink fun l => { l with owed := owedFor code a }

/-- A reply owed is not sent, and no store write has a reply waiting on it any longer (R177, R179). -/
def dropOwed (s : State) : State :=
  { s.modLink (fun l => { l with owed := none }) with
    prog := { s.prog with queue := s.prog.queue.map fun w => { w with replies := false } } }

/-! ### The request table (R171) -/

/-- Whether a body has the length that a code takes (R171). LINE SETTINGS WRITE takes 83 characters, PROGRAM WRITE 19. -/
def lengthFits (code : Byte) (n : Nat) : Bool :=
  if code = 0x63 then true
  else if code = 0x10 ∨ code = 0x13 ∨ code = 0x31 ∨ code = 0x50 ∨ code = 0x51 then n == 1
  else if code = 0x12 ∨ code = 0x21 ∨ code = 0x22 ∨ code = 0x40 then n == 2
  else if code = 0x20 ∨ code = 0x41 then n == 3
  else if code = 0x11 then n == 4
  else if code = 0x30 then n == 19
  else if code = 0x32 then n == 83
  else n == 0

/-- The codes carried out on broadcast: FEED, FAULT ACK, QUIET, RESUME, RESTART (R171, R172). -/
def broadcastCode (code : Byte) : Bool := [0x10, 0x52, 0x60, 0x61, 0x62].contains code

/-- A request is carried out by its owner, once its code is in the table and its length fits (R172, R173). -/
def carryOut (code : Byte) (body : List Byte) (owner : State → State × Answer) (s : State) : State × Answer :=
  if !knownCodes.contains code then (s, .refuse .unknownRequest)
  else if !lengthFits code body.length then (s, .refuse .badLength)
  else owner s

/-- The state after a frame of an address, code and body has come in from WAITING: it fills the buffer, and the receiver is in
SKIPPING (R169). -/
def State.received (s : State) (addr code : Byte) (body : List Byte) : State :=
  s.modLink fun l => { l with rx := .skipping, buffer := frameBytes addr code body }

/-- The frame of the reply owed (R173). -/
def replyFrame (l : Link) (o : Owed) : List Byte := frameBytes (BitVec.ofNat 8 l.address.val) o.code o.body

/-- The meaning of a command of the block while the supply is on; without it nothing happens (log 11). -/
def whenPowered (f : State → State) (s : State) : Host.Outcome State Fault Refusal :=
  if s.powered then .next (f s) else .next s

end Sys2Proof.Machine
end

