-- ==== Sys2Proof/Machine/Matcher.lean ====
section
/-! DEFINITION. The Matcher: leading and trailing edges at the three eye groups, strays, window expiries (R76 to R95). -/

namespace Sys2Proof.Machine

open Sys2Proof

/-- The zone whose records wait at the eye group of a stage (R77). -/
def stageZone : Stage → Zone
  | .feed => .feed
  | .iron => .iron
  | .fold => .fold

/-- The records of a list of tags that hold a property, in the order of the list. -/
def State.select (s : State) (tags : List Nat) (q : Piece → Bool) : List Nat :=
  tags.filter fun t =>
    match s.piece? t with
    | some r => q r
    | none => false

/-! ### Strays (R64, R82, R87) -/

/-- A stray record for an edge on lane w, before the fields of its eye group are filled (R64). -/
def strayRecord (w : Lane) (tag : Nat) (take : Pos) : Piece where
  tag := tag
  take := take
  kind := .stray
  state := .ironing
  station := none
  program := none
  lot := none
  footprint := laneBit w
  grantPos := none
  ePred := none
  entrySeen := 0#4
  entryEnded := 0#4
  entryLead := none
  entryLength := none
  lEst := none
  exitSeen := 0#4
  exitEnded := 0#4
  exitLead := none
  exitLength := none
  stackerLead := none
  bin := none
  reason := some .stray
  undiverted := false
  route := .back
  actions := []
  completion := none

/-- The stray of an entry edge at c on lane w (R64). -/
def entryStray (w : Lane) (c : Pos) (tag : Nat) (take : Pos) : Piece :=
  { strayRecord w tag take with state := .ironing, entryLead := some c, entrySeen := laneBit w }

/-- The stray of an exit edge at c on lane w (R64). -/
def exitStray (w : Lane) (c : Pos) (tag : Nat) (take : Pos) : Piece :=
  { strayRecord w tag take with state := .folding, exitLead := some c, exitSeen := laneBit w }

/-- Linen that no record can account for: the notice, then the latch (R82, R87). -/
def untracked (code : Nat) (c : Pos) (s : State) : State := latchFault .strayUntracked (notice code c s)

/-! ### Leading edges -/

/-- Lane w is closed at the entry on the record on which it is open (R79). -/
def closeEntryLane (w : Lane) (s : State) : State :=
  { s with
    track :=
      { s.track with
        pool := s.track.pool.map fun r =>
          if r.completion.isNone && laneOpen r.entrySeen r.entryEnded w then
            { r with entryEnded := r.entryEnded ||| laneBit w }
          else r } }

/-- Lane w is closed at the exit on the record on which it is open (R79). -/
def closeExitLane (w : Lane) (s : State) : State :=
  { s with
    track :=
      { s.track with
        pool := s.track.pool.map fun r =>
          if r.completion.isNone && laneOpen r.exitSeen r.exitEnded w then
            { r with exitEnded := r.exitEnded ||| laneBit w }
          else r } }

/-- A record absorbs an entry edge at c on lane w (R80). -/
def absorbsEntry (cfg : LineSettings) (w : Lane) (c : Pos) (r : Piece) : Bool :=
  decide (r.kind = .fed) && decide (r.state = .ironing) && hasLane r.footprint w && !hasLane r.entrySeen w &&
    someOpen r.entrySeen r.entryEnded && atOrPast c (r.entryLead.getD 0#32) && inWindow cfg .feed r c

/-- A record absorbs an exit edge at c on lane w (R85). -/
def absorbsExit (cfg : LineSettings) (w : Lane) (c : Pos) (r : Piece) : Bool :=
  decide (r.kind = .fed) && decide (r.state = .folding) && hasLane r.footprint w && !hasLane r.exitSeen w &&
    someOpen r.exitSeen r.exitEnded && atOrPast c (r.exitLead.getD 0#32) && inWindow cfg .iron r c

/-- An accepted leading edge at entry eye Nw at c: closing, absorption, match or stray (R79 to R82). -/
def leadEntry (w : Lane) (c : Pos) (s : State) : State :=
  let s := closeEntryLane w s
  match s.select s.track.ironZone (absorbsEntry s.prog.settings w c) with
  | t :: _ => s.modPiece t fun r => { r with entrySeen := r.entrySeen ||| laneBit w }
  | [] =>
    match s.select s.track.entryLists[w] (inWindow s.prog.settings .feed · c) with
    | t :: _ =>
      moveRecord t .iron
        (fun r => { r with state := .ironing, entryLead := some c, entrySeen := r.entrySeen ||| laneBit w }) s
    | [] => if 0 < s.freeRecords then (takeRecord .iron (entryStray w c) s).2 else untracked (32 + w.val) c s

/-- An accepted leading edge at exit eye Xw at c: closing, absorption, match with planning, or stray with planning (R79, R85 to
R87). -/
def leadExit (w : Lane) (c : Pos) (s : State) : State :=
  let s := closeExitLane w s
  match s.select s.track.foldZone (absorbsExit s.prog.settings w c) with
  | t :: _ => s.modPiece t fun r => { r with exitSeen := r.exitSeen ||| laneBit w }
  | [] =>
    match s.select s.track.exitLists[w] (inWindow s.prog.settings .iron · c) with
    | t :: _ =>
      planExit t
        (moveRecord t .fold
          (fun r => { r with state := .folding, exitLead := some c, exitSeen := r.exitSeen ||| laneBit w }) s)
    | [] =>
      if 0 < s.freeRecords then
        let (t, s) := takeRecord .fold (exitStray w c) s
        planExit t s
      else untracked (36 + w.val) c s

/-- The stacker match of one record of a row: it moves to DROPPING and its drop is planned (R90). -/
def matchStacker (c : Pos) (s : State) (t : Nat) : State :=
  planDrop t (moveRecord t .drop (fun r => { r with state := .dropping, stackerLead := some c }) s)

/-- An accepted leading edge at K at c: every expecting record whose window contains it is matched, in the order of the FOLD
zone; if there is none, a notice and a latch (R90, R91). -/
def leadStacker (c : Pos) (s : State) : State :=
  match s.select s.track.foldZone fun r => expectsStacker r && inWindow s.prog.settings .fold r c with
  | [] => latchFault .strayStack (notice 48 c s)
  | row => row.foldl (matchStacker c) s

/-- A leading edge reported by an eye (R76). -/
def leadingEdge (e : Eye) (c : Pos) (s : State) : State :=
  match e with
  | .n w => leadEntry w c s
  | .x w => leadExit w c s
  | .k => leadStacker c s

/-! ### Trailing edges -/

/-- The length check of a FED record's entry length (R84). -/
def lengthCheck (tag : Nat) (len : Nat) (pr : ProgramRec) (s : State) : State :=
  if pr.maxLength < len then reasonArrives tag .joined s
  else if len < pr.minLength then reasonArrives tag .short s
  else s

/-- A trailing edge from entry eye Nw at t (R83). -/
def trailEntry (w : Lane) (t : Pos) (s : State) : State :=
  match s.track.pool.find? fun r => r.completion.isNone && laneOpen r.entrySeen r.entryEnded w with
  | none => s
  | some r =>
    let ended := r.entryEnded ||| laneBit w
    let s := s.modPiece r.tag fun r => { r with entryEnded := ended }
    if someOpen r.entrySeen ended then s
    else
      let len := measuredLength t (r.entryLead.getD 0#32)
      let s := s.modPiece r.tag fun r => { r with entryLength := some len }
      match r.kind with
      | .stray => s
      | .fed =>
        let s := match pieceProgram s r with
          | some pr => lengthCheck r.tag len pr s
          | none => s
        measureTails r.tag r.footprint t s

/-- A trailing edge from exit eye Xw at t (R88). -/
def trailExit (w : Lane) (t : Pos) (s : State) : State :=
  match s.track.pool.find? fun r => r.completion.isNone && laneOpen r.exitSeen r.exitEnded w with
  | none => s
  | some r =>
    let ended := r.exitEnded ||| laneBit w
    let s := s.modPiece r.tag fun r => { r with exitEnded := ended }
    if someOpen r.exitSeen ended then s
    else
      let len := measuredLength t (r.exitLead.getD 0#32)
      exitLengthKnown r.tag len (s.modPiece r.tag fun r => { r with exitLength := some len })

/-- A trailing edge reported by an eye; one from K changes no record (R76, R91). -/
def trailingEdge (e : Eye) (t : Pos) (s : State) : State :=
  match e with
  | .n w => trailEntry w t s
  | .x w => trailExit w t s
  | .k => s

/-! ### Window expiry (R92, R94) -/

/-- The stage at which a record waits, from its state. -/
def stageOf : PieceState → Option Stage
  | .released => some .feed
  | .ironing => some .iron
  | .folding => some .fold
  | _ => none

/-- A record waits with its expiry point at P (R92). -/
def expiresNow (s : State) (st : Stage) (r : Piece) : Bool :=
  stillWaits st r && decide (expiryPoint s.prog.settings st r = s.line.p)

/-- A held-back expiry is taken up when nothing holds it back any longer and the record still waits (R94). -/
def settleOne (s : State) (tag : Nat) : State :=
  match s.piece? tag with
  | none => { s with heldExpiry := s.heldExpiry.filter (· ≠ tag) }
  | some r =>
    match stageOf r.state with
    | none => { s with heldExpiry := s.heldExpiry.filter (· ≠ tag) }
    | some st =>
      if !expiresNow s st r then { s with heldExpiry := s.heldExpiry.filter (· ≠ tag) }
      else if heldBack s st r then s
      else expire st tag { s with heldExpiry := s.heldExpiry.filter (· ≠ tag) }

/-- The held-back expiries are looked at again, in the order in which they were held back (R94). -/
def settleHeld (s : State) : State := s.heldExpiry.foldl settleOne s

end Sys2Proof.Machine
end

