-- ==== Sys2Proof/Machine/LineEvents.lean ====
section
/-! DEFINITION. The meanings of COUNTED_EDGE, INVALID_TRANSITION, SPEED_WINDOW_END, and of the eye rows EYE_DARK, EYE_LIGHT,
EYE_ACCEPT, EYE_BLOCKED (R1 to R18). -/

namespace Sys2Proof.Machine

open Sys2Proof

/-! ### Eyes -/

/-- The lane of an eye is enabled; K belongs to no lane (R17). -/
def eyeEnabled (lanes : LaneSet) : Eye → Bool
  | .n w => hasLane lanes w
  | .x w => hasLane lanes w
  | .k => true

/-- The number of an eye in the notice codes of R158: N1 to N4 are 0 to 3, X1 to X4 are 4 to 7, K is 8. -/
def eyeNumber (e : Eye) : Nat := (eyeIx e).val

/-- A dark interval begins at an eye in LIGHT (R10). -/
def beginDark (dir : Direction) (p : Pos) (x : EyeRec) : EyeRec :=
  match dir with
  | .forward => { x with state := .pending, cLead := p }
  | .reverse => { x with state := .dropped }

/-- An eye put in LIGHT with a dark travel count of 0 and, if its lane is enabled, its input taken up (R17, R18). -/
def takeUp (e : Eye) (s : State) : State :=
  s.modEye e fun x =>
    let x := { x with state := .light, darkTravel := 0 }
    if eyeEnabled s.prog.settings.lanes e && x.dark then beginDark s.line.dir s.line.p x else x

/-- The input of an eye goes dark (R9, R10, R17). -/
def goDark (e : Eye) (s : State) : State :=
  if (s.eye e).dark then s
  else
    s.modEye e fun x =>
      let x := { x with dark := true }
      if eyeEnabled s.prog.settings.lanes e && decide (x.state = .light) then beginDark s.line.dir s.line.p x else x

/-- The eye after its input goes light, with the dark travel count 0: an ACCEPTED eye stays in reverse motion, every other
state goes to LIGHT (R9, R12 to R16). -/
def lightened (dir : Direction) (x : EyeRec) : EyeRec :=
  match x.state, dir with
  | .accepted, .reverse => { x with dark := false, darkTravel := 0 }
  | _, _ => { x with dark := false, darkTravel := 0, state := .light }

/-- The input of an eye goes light; an ACCEPTED eye in forward motion reports its trailing edge (R13, R15). -/
def goLight (e : Eye) (s : State) : State :=
  let x := s.eye e
  if !x.dark then s
  else
    let reports := decide (x.state = .accepted) && decide (s.line.dir = .forward)
    let s := s.modEye e (lightened s.line.dir)
    settleHeld (if reports then trailingEdge e s.line.p s else s)

/-- An event leaves the list of events due. -/
def dropDue (d : Due) (s : State) : State := { s with due := s.due.filter (· ≠ d) }

/-- A PENDING eye has travelled eye_min from its captured lead (R11). -/
def acceptReady (s : State) (e : Eye) : Bool :=
  decide ((s.eye e).state = .pending) && decide ((s.prog.settings.eyeMin : Int) ≤ posDiff s.line.p (s.eye e).cLead)

/-- An acceptance that fell due still stands: the eye is PENDING with the lead that the edge found. A dark interval that began
after the edge has the captured lead P. The edge has read eye_min, and a later line settings write takes effect at the next
forward edge (R11, R153). -/
def acceptStands (s : State) (e : Eye) : Bool :=
  decide ((s.eye e).state = .pending) && decide ((s.eye e).cLead ≠ s.line.p)

/-- The dark travel count of a PENDING, ACCEPTED or DROPPED eye has reached eye_block (R16). -/
def blockReady (s : State) (e : Eye) : Bool :=
  let x := s.eye e
  (decide (x.state = .pending) || decide (x.state = .accepted) || decide (x.state = .dropped)) &&
    decide (s.prog.settings.eyeBlock ≤ x.darkTravel)

/-- A blocking that fell due still stands: the eye is PENDING, ACCEPTED or DROPPED in the dark interval that the edge found,
which has travelled. The edge has read eye_block (R16, R153). -/
def blockStands (s : State) (e : Eye) : Bool :=
  let x := s.eye e
  (decide (x.state = .pending) || decide (x.state = .accepted) || decide (x.state = .dropped)) && decide (0 < x.darkTravel)

/-- The acceptance of an eye: ACCEPTED, the leading edge to the Matcher, then the expiries held back for it (R11, R94). -/
def acceptEye (e : Eye) (s : State) : State :=
  let c := (s.eye e).cLead
  let s := s.modEye e fun x => { x with state := .accepted }
  settleHeld (leadingEdge e c s)

/-- The blocking of an eye: BLOCKED, the notice, the latch (R16). -/
def blockEye (e : Eye) (s : State) : State :=
  latchFault .eyeBlocked
    (notice (16 + eyeNumber e) s.line.p (s.modEye e fun x => { x with state := .blocked }))

/-! ### The encoder -/

/-- The forward cycle of the channels A and B, in which A leads B: 00, 10, 11, 01 (R1). -/
def forwardNext : Bool × Bool → Bool × Bool
  | (false, false) => (true, false)
  | (true, false) => (true, true)
  | (true, true) => (false, true)
  | (false, true) => (false, false)

/-- The new state of the channels when one changes (R1). -/
def channelsAfter (ch : EncChannel) (l : LineUnit) : Bool × Bool :=
  match ch with
  | .a => (!l.encA, l.encB)
  | .b => (l.encA, !l.encB)

/-- A change of one channel is a forward edge when the new state follows the reference in the forward cycle (R1). -/
def isForward (ch : EncChannel) (l : LineUnit) : Bool := decide (channelsAfter ch l = forwardNext (l.encA, l.encB))

/-- The Line Position Unit after a counted edge (R1, R5). -/
def countEdge (ch : EncChannel) (l : LineUnit) : LineUnit :=
  let c := channelsAfter ch l
  if isForward ch l then
    { l with p := l.p + 1#32, dir := .forward, advance := l.advance + 1, encA := c.1, encB := c.2 }
  else { l with p := l.p - 1#32, dir := .reverse, advance := l.advance - 1, encA := c.1, encB := c.2 }

/-- An ACCEPTED eye of an enabled lane whose input is light: it reports its trailing edge at the next forward edge (R15). -/
def reportsTail (s : State) (e : Eye) : Bool :=
  eyeEnabled s.prog.settings.lanes e && !(s.eye e).dark && decide ((s.eye e).state = .accepted)

/-- One eye at a forward edge: the dark travel count rises while its input is dark (R9), and an ACCEPTED eye whose input is
light goes to LIGHT (R15). An eye of a disabled lane is left (R17). -/
def eyeForward (s : State) (e : Eye) : State :=
  s.modEye e fun x =>
    if !eyeEnabled s.prog.settings.lanes e then x
    else if x.dark then { x with darkTravel := x.darkTravel + 1 }
    else if x.state = .accepted then { x with state := .light }
    else x

/-- One eye at a reverse edge: PENDING goes to DROPPED (R14). -/
def eyeReverse (s : State) (e : Eye) : State :=
  s.modEye e fun x => if x.state = .pending then { x with state := .dropped } else x

/-- Every slot at or behind P is marked passed under stop (R124). -/
def markPassed (s : State) : State :=
  s.setSlots (s.sched.slots.map fun y => if atOrPast s.line.p y.pos then { y with passed := true } else y)

/-- A bound OPEN lot with in_flight 0 that has run idle_distance past its last use; idle_distance 0 is off (R135). -/
def idleReady (s : State) (i : LotSlot) : Bool :=
  let l := s.lot.lots[i]
  decide (l.state = .opened) && l.bin.isSome && l.inFlight == 0 && decide (0 < s.prog.settings.idleDistance) &&
    decide ((s.prog.settings.idleDistance : Int) ≤ posDiff s.line.p l.lastUse)

/-- The records of a stage whose expiry point is at P, in zone order (R92). -/
def expiring (s : State) (st : Stage) : List Nat :=
  s.select (s.track.zone (stageZone st)) (expiresNow s st)

/-- The firings of the forward edge just counted: every slot at or behind P, while ESTOP is inactive (R120). -/
def firesNow (s : State) : List Due :=
  if s.inputs.estop then []
  else
    match s.sched.slots.filter fun y => atOrPast s.line.p y.pos with
    | [] => []
    | ys => .firing :: ys.map (.fire ·.place)

/-- The events that fall due at the forward edge just counted (log 2). -/
def dueNow (s : State) : List Due :=
  (allEyes.filter (acceptReady s)).map .accept ++ (allEyes.filter (blockReady s)).map .block ++
    (if posDiff s.line.p s.seq.mark = Config.grantStepCounts then [.grant] else []) ++
    ([Stage.feed, .iron, .fold].flatMap (expiring s)).map .expiry ++
    firesNow s ++
    (allLotSlots.filter (idleReady s)).map .idle

/-- The eyes at a forward edge: their states, and then the trailing edges of R15 at the new P, which no eye's record enters
into. -/
def eyesForward (s : State) : State :=
  (allEyes.filter (reportsTail s)).foldl (fun s e => trailingEdge e s.line.p s) (allEyes.foldl eyeForward s)

/-- What a forward edge brings after the count: the eyes, the marks under stop, the list of the events due (R9, R15, R124). -/
def afterForward (s : State) : State :=
  let s := eyesForward { s with due := [], heldExpiry := [] }
  let s := if s.inputs.estop then markPassed s else s
  { s with due := dueNow s }

/-- What a reverse edge brings after the count: PENDING eyes are dropped, and nothing is due (R14, R2). -/
def afterReverse (s : State) : State := allEyes.foldl eyeReverse { s with due := [], heldExpiry := [] }

/-- COUNTED_EDGE (R1): one channel of the encoder changes. -/
def execCountedEdge (ch : EncChannel) : State → Host.Outcome State Fault Refusal :=
  whenPowered fun s =>
    let forward := isForward ch s.line
    let s := { s with line := countEdge ch s.line }
    if forward then afterForward s else afterReverse s

/-- INVALID_TRANSITION (R3): both channels change at once. The five steps of R3, with the PAUSE of R37 at the third. -/
def execInvalidTransition : State → Host.Outcome State Fault Refusal :=
  whenPowered fun s =>
    let l := s.line
    let s :=
      { s with
        line :=
          { l with
            encA := !l.encA, encB := !l.encB, hist := Vector.replicate 4 0, advance := 0,
            windowEnd := l.now + Config.windowMs, fullWindows := 0 } }
    latchFault .encoder (notice 1 s.line.p (runPause true s))

/-- The Line Position Unit after the end of a speed window (R5). The present time is then at least the window's end (log 1). -/
def endWindow (l : LineUnit) : LineUnit :=
  { l with
    hist := #v[l.advance, l.hist[0], l.hist[1], l.hist[2]], advance := 0, fullWindows := min 4 (l.fullWindows + 1),
    now := max l.now l.windowEnd, windowEnd := l.windowEnd + Config.windowMs }

/-- The block idles: while the supply is on, the time that its clocks read goes on by 1 ms (R5, R22, R114; log 1). -/
def idleTick (s : State) : State := if s.powered then { s with line := { s.line with now := s.line.now + 1 } } else s

/-- SPEED_WINDOW_END (R5, R37): the window clock ends a window. -/
def execSpeedWindowEnd : State → Host.Outcome State Fault Refusal :=
  whenPowered fun s =>
    let s := { s with line := endWindow s.line }
    runPause (!fastEnough s) s

/-- EYE_DARK (R10). -/
def execEyeDark (e : Eye) : State → Host.Outcome State Fault Refusal := whenPowered (goDark e)

/-- EYE_LIGHT (R12 to R16). -/
def execEyeLight (e : Eye) : State → Host.Outcome State Fault Refusal := whenPowered (goLight e)

/-- EYE_ACCEPT (R11): the acceptance due at the last forward edge; nothing if it is not due. -/
def execEyeAccept (e : Eye) : State → Host.Outcome State Fault Refusal :=
  whenPowered fun s =>
    if s.due.contains (.accept e) && acceptStands s e then acceptEye e (dropDue (.accept e) s) else s

/-- EYE_BLOCKED (R16): the blocking due at the last forward edge; nothing if it is not due. -/
def execEyeBlocked (e : Eye) : State → Host.Outcome State Fault Refusal :=
  whenPowered fun s =>
    if s.due.contains (.block e) && blockStands s e then blockEye e (dropDue (.block e) s) else s

end Sys2Proof.Machine
end

