-- ==== Sys2Proof/Machine/StationEvents.lean ====
section
/-! DEFINITION. The meanings of LOAD_PRESS, LOAD_BUTTON_RELEASE, REL_PULSE_END, PULSE_END, ESTOP_ACTIVE, ESTOP_INACTIVE,
KEY_CHANGE, LINE_RUN_CHANGE (R20 to R25, R35 to R38, R113, R124 to R126). -/

namespace Sys2Proof.Machine

open Sys2Proof

/-! ### Stations -/

/-- The level of a load button. -/
def State.setButton (s : State) (k : StationIx) (x : Bool) : State :=
  { s with inputs := { s.inputs with buttons := vmod s.inputs.buttons k fun _ => x } }

/-- A press on an IDLE station with an assignment loads it and causes an examination; any other press is ignored (R20). -/
def press (k : StationIx) (s : State) : State :=
  match s.stations[k].state, s.stations[k].current with
  | .idle, some a =>
    examine (s.modStation k fun st => { st with state := .loaded, snapshot := some a, waitReason := .none })
  | _, _ => s

/-- LOAD_PRESS (R20): the filtered input turns active; a button that is already active makes no press. -/
def execLoadPress (k : StationIx) : State → Host.Outcome State Fault Refusal :=
  whenPowered fun s => if s.inputs.buttons[k] then s else press k (s.setButton k true)

/-- LOAD_BUTTON_RELEASE (R20): the filtered input turns inactive, so that the next activation is a press. -/
def execLoadButtonRelease (k : StationIx) : State → Host.Outcome State Fault Refusal :=
  whenPowered fun s => s.setButton k false

/-- A next assignment takes effect (R23, step 2; R32). -/
def applyNext (st : Station) : Station :=
  match st.next with
  | .absent => st
  | .pair a => { st with current := some a, next := .absent }
  | .clear => { st with current := none, next := .absent }

/-- A RELEASING station leaves RELEASING (R23). -/
def leaveReleasing (st : Station) : Station :=
  applyNext
    (if st.disablePending then { st with state := .disabled, disablePending := false } else { st with state := .idle })

/-- The end of a REL pulse: the output off, and the station out of RELEASING (R23, R25). -/
def endRel (k : StationIx) (s : State) : State :=
  (s.modOut fun o => { o with rel := vmod o.rel k fun _ => none }).modStation k fun st =>
    if st.state = .releasing then leaveReleasing st else st

/-- The present time is at least t (log 1). -/
def State.reachTime (s : State) (t : Nat) : State := { s with line := { s.line with now := max s.line.now t } }

/-- REL_PULSE_END (R23): the REL pulse of a station reaches its end; nothing if none is running. -/
def execRelPulseEnd (k : StationIx) : State → Host.Outcome State Fault Refusal :=
  whenPowered fun s =>
    match s.sched.out.rel[k] with
    | some t => endRel k (s.reachTime t)
    | none => s

/-! ### Pulse ends of the other channels -/

/-- The pulse state of a channel. -/
def pulseOf (o : Outputs) : OutChannel → Option Nat
  | .pf w => o.pf[w]
  | .xf => o.xf
  | .rj => o.rj
  | .bf b => o.bf[b]
  | .sr b => o.sr[b]

/-- A channel turned off. -/
def turnOff (o : Outputs) : OutChannel → Outputs
  | .pf w => { o with pf := vmod o.pf w fun _ => none }
  | .xf => { o with xf := none }
  | .rj => { o with rj := none }
  | .bf b => { o with bf := vmod o.bf b fun _ => none }
  | .sr b => { o with sr := vmod o.sr b fun _ => none }

/-- PULSE_END (R113, R115): a channel reaches its pulse end and turns off; at the end of BF_b a held release of bin b starts.
Nothing if the channel is off. -/
def execPulseEnd (c : OutChannel) : State → Host.Outcome State Fault Refusal :=
  whenPowered fun s =>
    match pulseOf s.sched.out c with
    | none => s
    | some t =>
      let s := (s.reachTime t).modOut (turnOff · c)
      match c with
      | .bf b => startHeld b s
      | _ => s

/-! ### ESTOP, KEY, LINE RUN -/

/-- The event is the firing of a slot. -/
def isFire : Due → Bool
  | .firing => true
  | .fire _ => true
  | _ => false

/-- The slots that were due at the present edge and have not fired are marked passed under stop, and no firing is due any
longer (R124). -/
def markDue (s : State) : State :=
  { s.setSlots
      (s.sched.slots.map fun y =>
        if s.due.contains (.fire y.place) && atOrPast s.line.p y.pos then { y with passed := true } else y) with
    due := s.due.filter fun d => !isFire d }

/-- The stop: every output off, the REL ends told to the stations, the slots due at this edge marked, the feed OFF (R25, R38,
R124). -/
def stopAll (s : State) : State :=
  let s := allStations.foldl (fun s k => endRel k s) { s with inputs := { s.inputs with estop := true } }
  let s := markDue (s.modOut fun _ => Outputs.allOff)
  s.setFeed .off

/-- ESTOP_ACTIVE (R25, R38, R124); nothing if ESTOP is taken as active already. -/
def execEstopActive : State → Host.Outcome State Fault Refusal :=
  whenPowered fun s => if s.inputs.estop then s else stopAll s

/-- The number of a slot action in the notice codes of R158. -/
def droppedCode : SlotAction → Nat
  | .fold1 => 64
  | .fold2 => 65
  | .cross => 66
  | .reject => 67
  | .drop => 68

/-- The consequence of a dropped slot for one record it named (R126). -/
def droppedFor (a : SlotAction) (s : State) (tag : Nat) : State :=
  match a with
  | .reject => becomeUndiverted tag (latchFault .undiverted s)
  | .drop => expire .fold tag s
  | _ => reasonArrives tag .foldMissed s

/-- One slot marked passed under stop is dropped: the notice, the removal, the consequence for each tag (R125). -/
def dropSlot (x : Slot) (s : State) : State :=
  x.tags.foldl (droppedFor x.action) (removeSlot x (notice (droppedCode x.action) x.pos s))

/-- The marked slots are dropped, one at a time in table order, at most `fuel` of them (R125). -/
def dropPassed : Nat → State → State
  | 0, s => s
  | fuel + 1, s =>
    match s.sched.slots.find? (·.passed) with
    | some x => dropPassed fuel (dropSlot x s)
    | none => s

/-- The release of the stop: ESTOP inactive, the marked slots dropped, the held releases started where the flap is closed
(R115, R125). -/
def releaseStop (s : State) : State :=
  let s := dropPassed Config.slotPlaces { s with inputs := { s.inputs with estop := false } }
  allBins.foldl (fun s b => startHeld b s) s

/-- ESTOP_INACTIVE (R125); nothing if ESTOP is taken as inactive already. -/
def execEstopInactive : State → Host.Outcome State Fault Refusal :=
  whenPowered fun s => if s.inputs.estop then releaseStop s else s

/-- KEY_CHANGE (R35, R38): the filtered KEY input takes a new position; SETUP makes the feed state OFF. -/
def execKeyChange (key : KeyPos) : State → Host.Outcome State Fault Refusal :=
  whenPowered fun s =>
    let s := { s with inputs := { s.inputs with key := key } }
    if key = .setup then s.setFeed .off else s

/-- LINE_RUN_CHANGE (R35, R37): the filtered LINE RUN input takes a new level. -/
def execLineRunChange (active : Bool) : State → Host.Outcome State Fault Refusal :=
  whenPowered fun s => runPause (!active) { s with inputs := { s.inputs with lineRun := active } }

end Sys2Proof.Machine
end

