-- ==== Sys2Proof/Machine/SlotEvents.lean ====
section
/-! DEFINITION. The meanings of GRANT_STEP, WINDOW_EXPIRY, FOLD_SLOT_FIRE, REJECT_SLOT_FIRE, DROP_SLOT_FIRE, IDLE_UNBIND: what
falls due at a forward edge (R44, R92, R120 to R123, R135; log 2). -/

namespace Sys2Proof.Machine

open Sys2Proof

/-- GRANT_STEP (R44): the examination due at the last forward edge; nothing if it is not due. -/
def execGrantStep : State → Host.Outcome State Fault Refusal :=
  whenPowered fun s =>
    if s.due.contains .grant && decide (posDiff s.line.p s.seq.mark = Config.grantStepCounts) then
      examine (dropDue .grant s)
    else s

/-- The first record of a stage, in zone order, whose expiry is due and which still waits (R92). -/
def nextExpiry (st : Stage) (s : State) : Option Nat :=
  (expiring s st).find? fun t => s.due.contains (.expiry t)

/-- WINDOW_EXPIRY (R92, R94): the first expiry due of a stage; nothing if none is due. -/
def execWindowExpiry (st : Stage) : State → Host.Outcome State Fault Refusal :=
  whenPowered fun s =>
    match nextExpiry st s with
    | some t => expireOrHold st t (dropDue (.expiry t) s)
    | none => s

/-- The slot that fires next: the first in table order that is due (R120). -/
def nextFire (s : State) : Option Slot :=
  if s.inputs.estop then none
  else s.sched.slots.find? fun y => s.due.contains (.fire y.place) && atOrPast s.line.p y.pos

/-- A slot leaves the table as it fires, and its channels start or are extended (R114, R120). The firing of the present edge
has then begun. -/
def fireSlot (y : Slot) (s : State) : State :=
  fireDrive y.drive (removeSlot y (dropDue .firing (dropDue (.fire y.place) s)))

/-- A slot with one of the fold actions. -/
def isFoldAction : SlotAction → Bool
  | .fold1 => true
  | .fold2 => true
  | .cross => true
  | _ => false

/-- FOLD_SLOT_FIRE (R121): the slot that fires next, if it is a FOLD1, FOLD2 or CROSS slot; else nothing. -/
def execFoldSlotFire : State → Host.Outcome State Fault Refusal :=
  whenPowered fun s =>
    match nextFire s with
    | some y => if isFoldAction y.action then fireSlot y s else s
    | none => s

/-- The completion kind of a record at the gate: RETURNED for route RETURN, REJECTED otherwise (R122). -/
def gateKind (r : Piece) : CompletionKind := if r.route = .back then .returned else .rejected

/-- The firing of a REJECT slot: RJ, then the completion of the record it names (R122). -/
def fireReject (y : Slot) (s : State) : State :=
  y.tags.foldl
    (fun s t =>
      match s.piece? t with
      | some r => complete t (gateKind r) none s
      | none => s)
    (fireSlot y s)

/-- REJECT_SLOT_FIRE (R122): the slot that fires next, if it is a REJECT slot; else nothing. -/
def execRejectSlotFire : State → Host.Outcome State Fault Refusal :=
  whenPowered fun s =>
    match nextFire s with
    | some y => if y.action = .reject then fireReject y s else s
    | none => s

/-- A drop into bin b for lot slot i: the stack count and last-use, and a stack release at a full stack (R136). -/
def countDrop (i : LotSlot) (b : Bin) (s : State) : State :=
  let s := s.modLot i fun l => { l with stackCount := satStack l.stackCount, lastUse := s.line.p }
  if s.lot.lots[i].stackSize ≤ s.lot.lots[i].stackCount then requestRelease b s else s

/-- The drop of a fired DROP slot counted for the lot of a record (R123, step 1). -/
def countDropOf (d : Drive) (r : Piece) (s : State) : State :=
  match d, r.lot with
  | .bf b, some l => countDrop l.slot b s
  | _, _ => s

/-- The firing of a DROP slot: BF_b, the drop counted, the record completed STACKED (R123). -/
def fireDrop (y : Slot) (s : State) : State :=
  y.tags.foldl
    (fun s t =>
      match s.piece? t with
      | some r => complete t .stacked none (countDropOf y.drive r s)
      | none => s)
    (fireSlot y s)

/-- DROP_SLOT_FIRE (R123): the slot that fires next, if it is a DROP slot; else nothing. -/
def execDropSlotFire : State → Host.Outcome State Fault Refusal :=
  whenPowered fun s =>
    match nextFire s with
    | some y => if y.action = .drop then fireDrop y s else s
    | none => s

/-- IDLE_UNBIND (R135): the unbinding of a lot due at the last forward edge, with an examination; nothing if it is not due. -/
def execIdleUnbind (i : LotSlot) : State → Host.Outcome State Fault Refusal :=
  whenPowered fun s =>
    if s.due.contains (.idle i) && idleReady s i then examine (unbindLot i (dropDue (.idle i) s)) else s

end Sys2Proof.Machine
end

