-- ==== Sys2Proof/Machine/PowerEvents.lean ====
section
/-! DEFINITION. The meanings of POWER_ON, POWER_FAIL and STORE_WRITE_END, and the RESTART of every block (R4, R18, R34, R75,
R127, R143, R148, R155, R166, R167, R179, R180). -/

namespace Sys2Proof.Machine

open Sys2Proof

/-! ### The store (R155) -/

/-- An entry of the store that holds a record with its check value. -/
def storeEntry (p : ProgramStore) : StoreRecord → ProgramStore
  | .program ix pr => { p with storedPrograms := vmod p.storedPrograms ix fun _ => some pr }
  | .settings c => { p with storedSettings := some c }

/-- An entry of the store whose write was cut off: its check value does not match (R155). -/
def spoilEntry (p : ProgramStore) : StoreRecord → ProgramStore
  | .program ix _ => { p with storedPrograms := vmod p.storedPrograms ix fun _ => none }
  | .settings _ => { p with storedSettings := none }

/-- The reply that waited for its store write may now be sent (R175). -/
def storeReady (o : Owed) : Owed := { o with awaitsStore := false }

/-- STORE_WRITE_END (R155, R175): the write under way ends, the next is taken up, and a reply that waited on it is owed;
nothing if no write is under way. -/
def execStoreWriteEnd : State → Host.Outcome State Fault Refusal :=
  whenPowered fun s =>
    match s.prog.queue with
    | [] => s
    | w :: ws =>
      let s := { s with prog := { storeEntry s.prog w.record with queue := ws } }
      if w.replies then s.modLink fun l => { l with owed := l.owed.map storeReady } else s

/-! ### Supply -/

/-- The supply fails: the write under way is cut off, those that wait are lost, and every output is off (R155; log 11). -/
def failSupply (s : State) : State :=
  let prog := match s.prog.queue with
    | [] => s.prog
    | w :: _ => { spoilEntry s.prog w.record with queue := [] }
  { s.modOut fun _ => Outputs.allOff with powered := false, prog := prog, due := [], heldExpiry := [] }

/-- POWER_FAIL (R155); nothing if the supply is off. -/
def execPowerFail : State → Host.Outcome State Fault Refusal := whenPowered failSupply

/-! ### Values at reset -/

/-- Every eye taken up afresh (R18). -/
def resetEyes (s : State) : State := allEyes.foldl (fun s e => takeUp e s) s

/-- RESTART: every block's runtime state at its RESTART value, as one act; P, the direction, the speed history, the inputs, the
records in force, the store and the link settings are kept, and a reply owed is not sent (R179). -/
def restartAll (s : State) : State :=
  let s :=
    { s with
      stations := Vector.replicate 4 Station.initial
      seq := Sequencer.initial s.line.p
      track := TrackStore.initial
      sched := Scheduler.initial
      lot := LotUnit.initial
      prog := { s.prog with staged := Vector.replicate 32 none, inFlight := Vector.replicate 32 0 }
      log := CompletionLog.initial
      latch := FaultLatch.clear
      due := []
      heldExpiry := [] }
  dropOwed (resetEyes s)

/-- A program entry of the store loaded at power-on: EMPTY unless its check value matches and its record passes (R155). -/
def loadProgram : Option Program → Program
  | some pr => if programPasses pr then pr else none
  | none => none

/-- The program records in force after power-on (R155). -/
def loadPrograms (stored : Vector (Option Program) 32) : Vector Program 32 :=
  allPrograms.foldl (fun v i => vmod v i fun _ => loadProgram stored[i]) (Vector.replicate 32 none)

/-- The line settings entry loaded at power-on, with the valid flag: the factory defaults unless its check value matches and
its record passes (R155). -/
def loadSettings : Option LineSettings → LineSettings × Bool
  | some c => if c.passes then (c, true) else (factoryDefaults, false)
  | none => (factoryDefaults, false)

/-- The Program Store after power-on, from its 33 entries (R148, R155). -/
def loadStore (p : ProgramStore) : ProgramStore :=
  let c := loadSettings p.storedSettings
  { p with
    programs := loadPrograms p.storedPrograms, staged := Vector.replicate 32 none, inFlight := Vector.replicate 32 0,
    settings := c.1, valid := c.2, queue := [] }

/-- The state right after the supply is switched on with the sampled levels. -/
def switchOn (smp : PowerSamples) (s : State) : State :=
  let dark (i : Fin 9) : EyeRec := { dark := smp.dark[i], state := .light, cLead := 0#32, darkTravel := 0 }
  resetEyes
    { powered := true
      line :=
        { p := 0#32, dir := .forward, encA := smp.encA, encB := smp.encB, hist := Vector.replicate 4 0, advance := 0,
          fullWindows := 0, windowEnd := Config.windowMs, now := 0 }
      eyes := #v[dark 0, dark 1, dark 2, dark 3, dark 4, dark 5, dark 6, dark 7, dark 8]
      stations := Vector.replicate 4 Station.initial
      inputs := { buttons := smp.buttons, key := smp.key, lineRun := smp.lineRun, estop := smp.estop }
      seq := Sequencer.initial 0#32
      track := TrackStore.initial
      sched := Scheduler.initial
      lot := LotUnit.initial
      prog := loadStore s.prog
      log := CompletionLog.initial
      latch := FaultLatch.clear
      link :=
        { address := smp.address, rate := smp.rate, rx := .skipping, buffer := [], quiet := false, owed := none,
          sent := none }
      due := []
      heldExpiry := []
      pending := s.pending }

/-- POWER_ON (R4, R180): the supply is switched on; if it was on, it failed first (log 11). -/
def execPowerOn (smp : PowerSamples) (s : State) : Host.Outcome State Fault Refusal :=
  .next (switchOn smp (if s.powered then failSupply s else s))

end Sys2Proof.Machine
end

