-- ==== Sys2Proof/Machine/LinkEvents.lean ====
section
/-! DEFINITION. The meaning of REPLY, and what the link's own requests QUIET, RESUME, RESTART, ECHO do (R175 to R180). -/

namespace Sys2Proof.Machine

open Sys2Proof

/-- The reply owed is sent, with the quiet flag no; with the flag yes it is not, and nothing is owed any longer (R175). A reply
that waits for its store write is not yet due. -/
def sendReply (s : State) : State :=
  match s.link.owed with
  | none => s
  | some o =>
    if o.awaitsStore then s
    else if s.link.quiet then s.modLink fun l => { l with owed := none }
    else s.modLink fun l => { l with owed := none, rx := .skipping, sent := some (replyFrame l o) }

/-- REPLY (R175). -/
def execReply : State → Host.Outcome State Fault Refusal := whenPowered sendReply

/-- QUIET (R177): the quiet flag yes; no reply, and a reply owed is not sent. -/
def quietOwner (s : State) : State × Answer := (dropOwed (s.modLink fun l => { l with quiet := true }), .silent)

/-- RESUME (R177): the quiet flag no. -/
def resumeOwner (s : State) : State × Answer := (s.modLink fun l => { l with quiet := false }, .reply [])

/-- RESTART (R179). -/
def restartOwner (s : State) : State × Answer := (restartAll s, .reply [])

/-- ECHO (R178): the reply carries the request's body. -/
def echoOwner (body : List Byte) (s : State) : State × Answer := (s, .reply body)

end Sys2Proof.Machine
end

