-- ==== Sys2Proof/Machine/FeedRequests.lean ====
section
/-! DEFINITION. What the requests FEED, ASSIGN, STATION ENABLE and STATION READ do once they are taken (R26 to R33, R36). -/

namespace Sys2Proof.Machine

open Sys2Proof

/-! ### FEED (R36) -/

/-- FEED on: refused under ESTOP or at KEY SETUP; from OFF to HELD, RUN or PAUSE; in any other feed state no change (R36). -/
def turnFeedOn (s : State) : State × Answer :=
  if s.inputs.estop || decide (s.inputs.key = .setup) then (s, .refuse .wrongState)
  else
    let t :=
      if s.seq.feed ≠ .off then s
      else if faultHolds s then s.setFeed .held
      else if runConditions s then enterRun s
      else s.setFeed .pause
    (t, .reply (feedBytes t))

/-- FEED off (R36). -/
def turnFeedOff (s : State) : State × Answer :=
  let t := s.setFeed .off
  (t, .reply (feedBytes t))

/-- FEED by its body byte: 1 on, 0 off, any other value refused (R36). -/
def feedOwner (body : List Byte) (s : State) : State × Answer :=
  match rd8 body 0 with
  | 0 => turnFeedOff s
  | 1 => turnFeedOn s
  | _ => (s, .refuse .badValue)

/-! ### ASSIGN (R26, R27) -/

/-- An accepted ASSIGN on a station: `some a` assigns, `none` clears (R27). -/
def assignStation (a : Option Assignment) (st : Station) : Station × Byte :=
  match st.state with
  | .idle => ({ st with current := a, next := .absent }, 1)
  | .disabled => ({ st with current := a, next := .absent }, 1)
  | .loaded => ({ st with next := a.elim .clear .pair }, 2)
  | .releasing => ({ st with next := a.elim .clear .pair }, 2)

/-- An accepted ASSIGN of station k, with its reply APPLIED or DEFERRED (R27). -/
def carryAssign (k : StationIx) (a : Option Assignment) (s : State) : State × Answer :=
  let (st, r) := assignStation a s.stations[k]
  (s.modStation k fun _ => st, .reply [r])

/-- ASSIGN with the checks of R26, in their order. -/
def assignOwner (body : List Byte) (s : State) : State × Answer :=
  let lotId := rd16 body 2
  match stationOf (rd8 body 0) with
  | none => (s, .refuse .badIndex)
  | some k =>
    if lotId = 0 then carryAssign k none s
    else
      match programOf (rd8 body 1), s.lotOf? lotId with
      | some ix, some i =>
        if s.lot.lots[i].state = .opened then carryAssign k (some { program := ix, lotId := lotId }) s
        else (s, .refuse .wrongState)
      | _, _ => (s, .refuse .badIndex)

/-! ### STATION ENABLE (R29 to R32) -/

/-- The DISABLE action on a station (R30). -/
def disableStation (st : Station) : Station :=
  match st.state with
  | .idle => { st with state := .disabled, snapshot := none }
  | .loaded => { st with state := .disabled }
  | .releasing => { st with disablePending := true }
  | .disabled => st

/-- The ENABLE action on a station (R31). -/
def enableStation (st : Station) : Station :=
  match st.state with
  | .disabled => if st.snapshot.isSome then { st with state := .loaded } else { st with state := .idle }
  | .releasing => { st with disablePending := false }
  | .idle => st
  | .loaded => st

/-- The reply of STATION ENABLE: the station's state after the request (R30). -/
def enableReply (k : StationIx) (s : State) : State × Answer := (s, .reply [stationCode s.stations[k].state])

/-- The DISABLE action (R30). -/
def doDisable (k : StationIx) (s : State) : State × Answer := enableReply k (s.modStation k disableStation)

/-- The ENABLE action (R31); a station that becomes LOADED causes an examination (R45). -/
def doEnable (k : StationIx) (s : State) : State × Answer :=
  let loads := decide (s.stations[k].state = .disabled) && s.stations[k].snapshot.isSome
  let t := s.modStation k enableStation
  enableReply k (if loads then examine t else t)

/-- The CLEAR action (R32). -/
def doClear (k : StationIx) (s : State) : State × Answer :=
  if s.stations[k].state = .disabled then
    enableReply k
      (s.modStation k fun st => if st.snapshot.isSome then applyNext { st with snapshot := none } else st)
  else (s, .refuse .wrongState)

/-- STATION ENABLE by its action byte: 0 DISABLE, 1 ENABLE, 2 CLEAR (R29; log 19). -/
def enableOwner (body : List Byte) (s : State) : State × Answer :=
  match stationOf (rd8 body 0) with
  | none => (s, .refuse .badIndex)
  | some k =>
    match rd8 body 1 with
    | 0 => doDisable k s
    | 1 => doEnable k s
    | 2 => doClear k s
    | _ => (s, .refuse .badValue)

/-! ### STATION READ (R33) -/

/-- STATION READ (R33). -/
def stationReadOwner (body : List Byte) (s : State) : State × Answer :=
  match stationOf (rd8 body 0) with
  | some k => (s, .reply (stationBytes s k))
  | none => (s, .refuse .badIndex)

end Sys2Proof.Machine
end

