-- ==== Sys2Proof/Machine/LogRequests.lean ====
section
/-! DEFINITION. What the requests LOG PEEK, LOG TAKE, FAULT ACK and STATUS do once they are taken (R39, R161 to R165). -/

namespace Sys2Proof.Machine

open Sys2Proof

/-- LOG PEEK (R161). -/
def logPeekOwner (body : List Byte) (s : State) : State × Answer :=
  let n := rd8 body 0
  if within 1 8 n then
    (s,
      .reply
        ([b8 s.log.entries.length, boolByte s.log.dropped] ++ (s.log.entries.take n).flatMap entryBytes))
  else (s, .refuse .badValue)

/-- The take of the n oldest entries: they leave, the flag is cleared, and the room is filled (R162, steps 2 to 4). Each
waiting request is written once, and brings at most one summary to the back of the order, so that 2 writes for each request
are enough. -/
def takeEntries (n : Nat) (s : State) : State :=
  fillLog (2 * s.log.order.length) { s with log := { s.log with entries := s.log.entries.drop n, dropped := false } }

/-- LOG TAKE (R162). -/
def logTakeOwner (body : List Byte) (s : State) : State × Answer :=
  let n := rd8 body 0
  let t := takeEntries n s
  (t, .reply [b8 (min n s.log.entries.length), b8 t.log.entries.length, boolByte s.log.dropped])

/-- The feed after an acknowledgement: from HELD to RUN, with an examination, or to PAUSE (R39). -/
def releaseHeld (s : State) : State :=
  if s.seq.feed = .held then if runConditions s then enterRun s else s.setFeed .pause else s

/-- The acknowledgement; with the flag already no it changes nothing (R164). -/
def acknowledge (s : State) : State :=
  if s.latch.latched then releaseHeld { s with latch := FaultLatch.clear } else s

/-- FAULT ACK (R164). -/
def faultAckOwner (s : State) : State × Answer :=
  let t := acknowledge s
  (t, .reply [boolByte s.latch.latched, faultCode s.latch.first, reasonByte s.latch.seen, feedCode t.seq.feed])

/-- STATUS (R165). -/
def statusOwner (s : State) : State × Answer := (s, .reply (statusBytes s))

end Sys2Proof.Machine
end

