-- ==== Sys2Proof/Machine/LotRequests.lean ====
section
/-! DEFINITION. What the requests LOT OPEN, LOT CLOSE and LOT READ do once they are taken (R131, R139 to R141). -/

namespace Sys2Proof.Machine

open Sys2Proof

/-- A lot slot as LOT OPEN sets it (R131). -/
def openedLot (id size : Nat) (p : Pos) : Lot := { Lot.free with state := .opened, id := id, stackSize := size, lastUse := p }

/-- LOT OPEN with the checks of R131, in their order. -/
def lotOpenOwner (body : List Byte) (s : State) : State × Answer :=
  let id := rd16 body 0
  let size := rd8 body 2
  if !within 1 65535 id then (s, .refuse .badValue)
  else if !within 1 50 size then (s, .refuse .badValue)
  else if (s.lotOf? id).isSome then (s, .refuse .inUse)
  else
    match allLotSlots.find? fun i => decide (s.lot.lots[i].state = .free) with
    | none => (s, .refuse .noRoom)
    | some i => (s.modLot i fun _ => openedLot id size s.line.p, .reply [b8 (i.val + 1)])

/-- The close of an OPEN lot, which ends at once if its in_flight count is 0 (R139, R140). -/
def closeLot (i : LotSlot) (s : State) : State :=
  let s := s.modLot i fun l => { l with state := .closing }
  if s.lot.lots[i].inFlight = 0 then endClose i id s else s

/-- LOT CLOSE (R139). -/
def lotCloseOwner (body : List Byte) (s : State) : State × Answer :=
  match s.lotOf? (rd16 body 0) with
  | none => (s, .refuse .badIndex)
  | some i =>
    let t := if s.lot.lots[i].state = .opened then closeLot i s else s
    (t, .reply (lotCode t.lot.lots[i].state :: le16 t.lot.lots[i].inFlight))

/-- LOT READ (R141). -/
def lotReadOwner (body : List Byte) (s : State) : State × Answer :=
  match s.lotOf? (rd16 body 0) with
  | none => (s, .refuse .badIndex)
  | some i => (s, .reply (lotBytes i s.lot.lots[i]))

end Sys2Proof.Machine
end

