-- ==== Sys2Proof/Machine/ProgramRequests.lean ====
section
/-! DEFINITION. What the requests PROGRAM WRITE, PROGRAM READ, LINE SETTINGS WRITE and LINE SETTINGS READ do once they are taken
(R142, R146 to R154). -/

namespace Sys2Proof.Machine

open Sys2Proof

/-- PROGRAM WRITE with the checks of R146, in their order: applied at once, or staged while the program has pieces in flight. -/
def programWriteOwner (body : List Byte) (s : State) : State × Answer :=
  if s.inputs.key = .run then (s, .refuse .locked)
  else
    match programOf (rd8 body 0) with
    | none => (s, .refuse .badIndex)
    | some ix =>
      match readProgram body 1 with
      | none => (s, .refuse .badValue)
      | some pr =>
        if s.prog.inFlight[ix] = 0 then (applyProgram ix pr (!s.link.quiet) s, .afterStore [1])
        else ({ s with prog := { s.prog with staged := vmod s.prog.staged ix fun _ => some pr } }, .reply [2])

/-- PROGRAM READ (R150). -/
def programReadOwner (body : List Byte) (s : State) : State × Answer :=
  match programOf (rd8 body 0) with
  | none => (s, .refuse .badIndex)
  | some ix => (s, .reply (programReadBytes s ix))

/-- An eye after a change of the lane enable set: LIGHT if its lane is newly disabled, its input taken up if it is newly
enabled, as it was otherwise (R17). -/
def laneChange (old : LaneSet) (s : State) (e : Eye) : State :=
  let now := eyeEnabled s.prog.settings.lanes e
  if eyeEnabled old e = now then s else takeUp e s

/-- The lot of a bin that has left use is unbound, and finishes its close if it was CLOSING (R142; log 26). -/
def leaveBin (s : State) (b : Bin) : State :=
  if b.val < s.prog.settings.binsEnabled then s
  else
    match s.lot.bins[b] with
    | none => s
    | some i =>
      let l := s.lot.lots[i]
      let s := unbindLot i s
      if l.state = .closing ∧ l.inFlight = 0 ∧ l.summaryPending = false then requestSummary i s else s

/-- The bins after a write that lowers bins_enabled, with the examination (R142). -/
def reduceBins (old : Nat) (s : State) : State :=
  if s.prog.settings.binsEnabled < old then examine (allBins.foldl leaveBin s) else s

/-- The line settings record put in force, as one act (R153). `replies` says that the reply waits on its store write. -/
def putSettings (c : LineSettings) (replies : Bool) (s : State) : State :=
  let old := s.prog.settings
  let s := { s with prog := { s.prog with settings := c, valid := true } }
  let s := allEyes.foldl (laneChange old.lanes) s
  let s := reduceBins old.binsEnabled s
  { s with prog := { s.prog with queue := s.prog.queue ++ [{ record := .settings c, replies := replies }] } }

/-- LINE SETTINGS WRITE with the checks of R153, in their order. -/
def settingsWriteOwner (body : List Byte) (s : State) : State × Answer :=
  if s.inputs.key = .run then (s, .refuse .locked)
  else if s.seq.feed ≠ .off ∨ s.track.pool ≠ [] then (s, .refuse .wrongState)
  else
    match readSettings body with
    | none => (s, .refuse .badValue)
    | some c => (putSettings c (!s.link.quiet) s, .afterStore [])

/-- LINE SETTINGS READ (R154). -/
def settingsReadOwner (s : State) : State × Answer :=
  (s, .reply (settingsBytes s.prog.settings ++ [boolByte s.prog.valid]))

end Sys2Proof.Machine
end

