-- ==== Sys2Proof/Machine/TrackRequests.lean ====
section
/-! DEFINITION. What the requests PIECE READ and PURGE do once they are taken (R72 to R74). -/

namespace Sys2Proof.Machine

open Sys2Proof

/-- PIECE READ (R72). -/
def pieceReadOwner (body : List Byte) (s : State) : State × Answer :=
  match s.piece? (rd16 body 0) with
  | none => (s, .refuse .badIndex)
  | some r => (s, .reply (pieceBytes s r))

/-- The tags that a zone selector selects, in the order of R73: DROP, FOLD, IRON, FEED, each from the front. -/
def selected (t : TrackStore) : Nat → Option (List Nat)
  | 1 => some t.feedZone
  | 2 => some t.ironZone
  | 3 => some t.foldZone
  | 4 => some t.dropZone
  | 5 => some (t.dropZone ++ t.foldZone ++ t.ironZone ++ t.feedZone)
  | _ => none

/-- The selected records completed as PURGED, one after another (R73). -/
def purgeAll (tags : List Nat) (s : State) : State := tags.foldl (fun s t => complete t .purged none s) s

/-- PURGE with selector TAG (R73, R74). -/
def purgeByTag (tag : Nat) (s : State) : State × Answer :=
  match s.piece? tag with
  | none => (s, .refuse .badIndex)
  | some r => if r.state = .donePending then (s, .reply [0]) else (purgeAll [tag] s, .reply [1])

/-- PURGE by its selector (R73, R74). -/
def purgeOwner (body : List Byte) (s : State) : State × Answer :=
  if rd8 body 0 = 6 then purgeByTag (rd16 body 1) s
  else
    match selected s.track (rd8 body 0) with
    | none => (s, .refuse .badValue)
    | some tags => (purgeAll tags s, .reply [b8 tags.length])

end Sys2Proof.Machine
end

