-- ==== Sys2Proof/Machine/Receiver.lean ====
section
/-! DEFINITION. The taking of a frame (R169, R170, R172 to R174): the owner of each request, a complete frame checked and carried
out, characters one by one, and the frame of a request row. -/

namespace Sys2Proof.Machine

open Sys2Proof

/-- What the owner of a request of a code does with its body, once the code is in the table and the length fits (R171). -/
def ownerOf (code : Byte) (body : List Byte) : State → State × Answer :=
  if code = 0x10 then feedOwner body
  else if code = 0x11 then assignOwner body
  else if code = 0x12 then enableOwner body
  else if code = 0x13 then stationReadOwner body
  else if code = 0x20 then lotOpenOwner body
  else if code = 0x21 then lotCloseOwner body
  else if code = 0x22 then lotReadOwner body
  else if code = 0x30 then programWriteOwner body
  else if code = 0x31 then programReadOwner body
  else if code = 0x32 then settingsWriteOwner body
  else if code = 0x33 then settingsReadOwner
  else if code = 0x40 then pieceReadOwner body
  else if code = 0x41 then purgeOwner body
  else if code = 0x50 then logPeekOwner body
  else if code = 0x51 then logTakeOwner body
  else if code = 0x52 then faultAckOwner
  else if code = 0x53 then statusOwner
  else if code = 0x60 then quietOwner
  else if code = 0x61 then resumeOwner
  else if code = 0x62 then restartOwner
  else echoOwner body

/-- A frame with a good CRC stands complete in the buffer: it is a broadcast, an addressed request, discarded while a reply is
owed, or another unit's (R170, R172 to R174). -/
def handleFrame (addr code : Byte) (body : List Byte) (s : State) : State :=
  if addr = 0 then
    if broadcastCode code then (carryOut code body (ownerOf code body) s).1 else s
  else if addr.toNat = s.link.address.val then
    if s.link.owed.isSome then s
    else
      let (t, a) := carryOut code body (ownerOf code body) s
      owe code a t
  else s

/-- The complete frame in the buffer is checked: the CRC first, and then the address (R170). -/
def takeBuffer (s : State) : State :=
  match s.link.buffer with
  | addr :: code :: _ :: rest =>
    if crcGood s.link.buffer then handleFrame addr code (rest.take (rest.length - 2)) s else s
  | _ => s

/-- A character, without parity or framing error, reaches the receiver; one that completes the frame being received has it
checked (R169, R170). -/
def receiveChar (s : State) (c : Byte) : State :=
  let t := s.modLink (rxChar · c)
  if decide (s.link.rx = .receiving) && bufferComplete t.link.buffer then takeBuffer t else t

/-- A run of characters reaches the receiver, one after another (R169). -/
def receiveChars (s : State) (cs : List Byte) : State := cs.foldl receiveChar s

/-- The frame of a request row, whose CRC is good. In WAITING it is received whole and carried out (R169, R170); outside WAITING
its characters join the frame begun or are dropped (R169, log 9). A body above 240 makes the receiver go to SKIPPING at its
length character. -/
def takeFrame (addr code : Byte) (body : List Byte) (s : State) : State :=
  if !s.powered then s
  else if s.link.rx ≠ .waiting then receiveChars s (frameBytes addr code body)
  else if Config.maxBody < body.length then s.modLink fun l => { l with rx := .skipping }
  else handleFrame addr code body (s.received addr code body)

end Sys2Proof.Machine
end

