-- ==== Sys2Proof/Machine/RequestRows.lean ====
section
/-! DEFINITION. The meanings of the rows that bring characters of the line: LINE_QUIET, FRAME_DISCARDED, PARITY_OR_FRAMING_ERROR,
LENGTH_ABOVE_240, UNKNOWN_REQUEST and the requests (R169 to R174; what each request does stands with its owner). -/

namespace Sys2Proof.Machine

open Sys2Proof

/-! ### Characters that are no request row's frame (R169, R170) -/

/-- LINE_QUIET (R169): the characters of an unfinished frame, if any, and then more than 3 character times without one. -/
def execLineQuiet (chars : List Byte) : State → Host.Outcome State Fault Refusal :=
  whenPowered fun s => (receiveChars s chars).modLink rxQuiet

/-- FRAME_DISCARDED (R170, R174): the characters of a complete frame; the checks discard one with a bad CRC, another unit's, or an
addressed one while a reply is owed. -/
def execFrameDiscarded (frame : List Byte) : State → Host.Outcome State Fault Refusal :=
  whenPowered (receiveChars · frame)

/-- PARITY_OR_FRAMING_ERROR (R169): the characters of a frame, the last of them with an error; nothing without a character. -/
def execParityOrFramingError (chars : List Byte) : State → Host.Outcome State Fault Refusal :=
  whenPowered fun s =>
    match chars.getLast? with
    | some bad => (receiveChars s chars.dropLast).modLink (rxError bad)
    | none => s

/-- LENGTH_ABOVE_240 (R169): the first three characters of a frame, the third a length above 240; nothing for a length of at
most 240. The characters reach the receiver in whatever state it is. -/
def execLengthAbove240 (addr code len : Byte) : State → Host.Outcome State Fault Refusal :=
  whenPowered fun s => if Config.maxBody < len.toNat then receiveChars s [addr, code, len] else s

/-- UNKNOWN_REQUEST (R173): a frame with a code not in the table; nothing for a code of the table. -/
def execUnknownRequest (addr code : Byte) (body : List Byte) (s : State) : Host.Outcome State Fault Refusal :=
  .next (if knownCodes.contains code then s else takeFrame addr code body s)

/-! ### Requests (R170 to R174) -/

/-- FEED_ON (R36): `feedOwner`. -/
def execFeedOn (addr : Byte) (body : List Byte) (s : State) : Host.Outcome State Fault Refusal :=
  .next (takeFrame addr 0x10 body s)

/-- FEED_OFF (R36): `feedOwner`. -/
def execFeedOff (addr : Byte) (body : List Byte) (s : State) : Host.Outcome State Fault Refusal :=
  .next (takeFrame addr 0x10 body s)

/-- ASSIGN (R26, R27): `assignOwner`. -/
def execAssign (addr : Byte) (body : List Byte) (s : State) : Host.Outcome State Fault Refusal :=
  .next (takeFrame addr 0x11 body s)

/-- STATION_ENABLE_DISABLE (R29, R30): `enableOwner`. -/
def execStationEnableDisable (addr : Byte) (body : List Byte) (s : State) : Host.Outcome State Fault Refusal :=
  .next (takeFrame addr 0x12 body s)

/-- STATION_ENABLE_ENABLE (R29, R31): `enableOwner`. -/
def execStationEnableEnable (addr : Byte) (body : List Byte) (s : State) : Host.Outcome State Fault Refusal :=
  .next (takeFrame addr 0x12 body s)

/-- STATION_ENABLE_CLEAR (R29, R32): `enableOwner`. -/
def execStationEnableClear (addr : Byte) (body : List Byte) (s : State) : Host.Outcome State Fault Refusal :=
  .next (takeFrame addr 0x12 body s)

/-- STATION_READ (R33): `stationReadOwner`. -/
def execStationRead (addr : Byte) (body : List Byte) (s : State) : Host.Outcome State Fault Refusal :=
  .next (takeFrame addr 0x13 body s)

/-- LOT_OPEN (R131): `lotOpenOwner`. -/
def execLotOpen (addr : Byte) (body : List Byte) (s : State) : Host.Outcome State Fault Refusal :=
  .next (takeFrame addr 0x20 body s)

/-- LOT_CLOSE (R139, R140): `lotCloseOwner`. -/
def execLotClose (addr : Byte) (body : List Byte) (s : State) : Host.Outcome State Fault Refusal :=
  .next (takeFrame addr 0x21 body s)

/-- LOT_READ (R141): `lotReadOwner`. -/
def execLotRead (addr : Byte) (body : List Byte) (s : State) : Host.Outcome State Fault Refusal :=
  .next (takeFrame addr 0x22 body s)

/-- PROGRAM_WRITE (R146, R147): `programWriteOwner`. -/
def execProgramWrite (addr : Byte) (body : List Byte) (s : State) : Host.Outcome State Fault Refusal :=
  .next (takeFrame addr 0x30 body s)

/-- PROGRAM_READ (R150): `programReadOwner`. -/
def execProgramRead (addr : Byte) (body : List Byte) (s : State) : Host.Outcome State Fault Refusal :=
  .next (takeFrame addr 0x31 body s)

/-- LINE_SETTINGS_WRITE (R153): `settingsWriteOwner`. -/
def execLineSettingsWrite (addr : Byte) (body : List Byte) (s : State) : Host.Outcome State Fault Refusal :=
  .next (takeFrame addr 0x32 body s)

/-- LINE_SETTINGS_READ (R154): `settingsReadOwner`. -/
def execLineSettingsRead (addr : Byte) (body : List Byte) (s : State) : Host.Outcome State Fault Refusal :=
  .next (takeFrame addr 0x33 body s)

/-- PIECE_READ (R72): `pieceReadOwner`. -/
def execPieceRead (addr : Byte) (body : List Byte) (s : State) : Host.Outcome State Fault Refusal :=
  .next (takeFrame addr 0x40 body s)

/-- PURGE (R73): `purgeOwner`. -/
def execPurge (addr : Byte) (body : List Byte) (s : State) : Host.Outcome State Fault Refusal :=
  .next (takeFrame addr 0x41 body s)

/-- PURGE_TAG (R73, R74): `purgeOwner`. -/
def execPurgeTag (addr : Byte) (body : List Byte) (s : State) : Host.Outcome State Fault Refusal :=
  .next (takeFrame addr 0x41 body s)

/-- LOG_PEEK (R161): `logPeekOwner`. -/
def execLogPeek (addr : Byte) (body : List Byte) (s : State) : Host.Outcome State Fault Refusal :=
  .next (takeFrame addr 0x50 body s)

/-- LOG_TAKE (R162): `logTakeOwner`. -/
def execLogTake (addr : Byte) (body : List Byte) (s : State) : Host.Outcome State Fault Refusal :=
  .next (takeFrame addr 0x51 body s)

/-- FAULT_ACK (R39, R164): `faultAckOwner`. -/
def execFaultAck (addr : Byte) (body : List Byte) (s : State) : Host.Outcome State Fault Refusal :=
  .next (takeFrame addr 0x52 body s)

/-- STATUS (R165): `statusOwner`. -/
def execStatus (addr : Byte) (body : List Byte) (s : State) : Host.Outcome State Fault Refusal :=
  .next (takeFrame addr 0x53 body s)

/-- QUIET (R177): `quietOwner`. -/
def execQuiet (addr : Byte) (body : List Byte) (s : State) : Host.Outcome State Fault Refusal :=
  .next (takeFrame addr 0x60 body s)

/-- RESUME (R177): `resumeOwner`. -/
def execResume (addr : Byte) (body : List Byte) (s : State) : Host.Outcome State Fault Refusal :=
  .next (takeFrame addr 0x61 body s)

/-- RESTART (R179): `restartOwner`. -/
def execRestart (addr : Byte) (body : List Byte) (s : State) : Host.Outcome State Fault Refusal :=
  .next (takeFrame addr 0x62 body s)

/-- ECHO (R178): `echoOwner`. -/
def execEcho (addr : Byte) (body : List Byte) (s : State) : Host.Outcome State Fault Refusal :=
  .next (takeFrame addr 0x63 body s)

end Sys2Proof.Machine
end

