-- ==== Sys2Proof/Machine/Dispatch.lean ====
section
/-! DEFINITION. The dispatch: one arm for each row of the opcode table, each a direct call of its meaning. -/

namespace Sys2Proof.Machine

open Sys2Proof

/-- The effect of a command on everything but the queue of waiting commands. -/
def exec (i : Instr) (s : State) : Host.Outcome State Fault Refusal :=
  match i with
  | .powerOn smp => Sys2Proof.Machine.execPowerOn smp s
  | .countedEdge ch => Sys2Proof.Machine.execCountedEdge ch s
  | .invalidTransition => Sys2Proof.Machine.execInvalidTransition s
  | .speedWindowEnd => Sys2Proof.Machine.execSpeedWindowEnd s
  | .eyeDark e => Sys2Proof.Machine.execEyeDark e s
  | .eyeLight e => Sys2Proof.Machine.execEyeLight e s
  | .eyeAccept e => Sys2Proof.Machine.execEyeAccept e s
  | .eyeBlocked e => Sys2Proof.Machine.execEyeBlocked e s
  | .loadPress k => Sys2Proof.Machine.execLoadPress k s
  | .relPulseEnd k => Sys2Proof.Machine.execRelPulseEnd k s
  | .pulseEnd c => Sys2Proof.Machine.execPulseEnd c s
  | .estopActive => Sys2Proof.Machine.execEstopActive s
  | .estopInactive => Sys2Proof.Machine.execEstopInactive s
  | .keyChange key => Sys2Proof.Machine.execKeyChange key s
  | .lineRunChange active => Sys2Proof.Machine.execLineRunChange active s
  | .grantStep => Sys2Proof.Machine.execGrantStep s
  | .windowExpiry stage => Sys2Proof.Machine.execWindowExpiry stage s
  | .foldSlotFire => Sys2Proof.Machine.execFoldSlotFire s
  | .rejectSlotFire => Sys2Proof.Machine.execRejectSlotFire s
  | .dropSlotFire => Sys2Proof.Machine.execDropSlotFire s
  | .idleUnbind slot => Sys2Proof.Machine.execIdleUnbind slot s
  | .storeWriteEnd => Sys2Proof.Machine.execStoreWriteEnd s
  | .reply => Sys2Proof.Machine.execReply s
  | .lineQuiet chars => Sys2Proof.Machine.execLineQuiet chars s
  | .frameDiscarded frame => Sys2Proof.Machine.execFrameDiscarded frame s
  | .unknownRequest addr code body => Sys2Proof.Machine.execUnknownRequest addr code body s
  | .feedOn addr body => Sys2Proof.Machine.execFeedOn addr body s
  | .feedOff addr body => Sys2Proof.Machine.execFeedOff addr body s
  | .assign addr body => Sys2Proof.Machine.execAssign addr body s
  | .stationEnableDisable addr body => Sys2Proof.Machine.execStationEnableDisable addr body s
  | .stationEnableEnable addr body => Sys2Proof.Machine.execStationEnableEnable addr body s
  | .stationEnableClear addr body => Sys2Proof.Machine.execStationEnableClear addr body s
  | .stationRead addr body => Sys2Proof.Machine.execStationRead addr body s
  | .lotOpen addr body => Sys2Proof.Machine.execLotOpen addr body s
  | .lotClose addr body => Sys2Proof.Machine.execLotClose addr body s
  | .lotRead addr body => Sys2Proof.Machine.execLotRead addr body s
  | .programWrite addr body => Sys2Proof.Machine.execProgramWrite addr body s
  | .programRead addr body => Sys2Proof.Machine.execProgramRead addr body s
  | .lineSettingsWrite addr body => Sys2Proof.Machine.execLineSettingsWrite addr body s
  | .lineSettingsRead addr body => Sys2Proof.Machine.execLineSettingsRead addr body s
  | .pieceRead addr body => Sys2Proof.Machine.execPieceRead addr body s
  | .purge addr body => Sys2Proof.Machine.execPurge addr body s
  | .purgeTag addr body => Sys2Proof.Machine.execPurgeTag addr body s
  | .logPeek addr body => Sys2Proof.Machine.execLogPeek addr body s
  | .logTake addr body => Sys2Proof.Machine.execLogTake addr body s
  | .faultAck addr body => Sys2Proof.Machine.execFaultAck addr body s
  | .status addr body => Sys2Proof.Machine.execStatus addr body s
  | .quiet addr body => Sys2Proof.Machine.execQuiet addr body s
  | .resume addr body => Sys2Proof.Machine.execResume addr body s
  | .restart addr body => Sys2Proof.Machine.execRestart addr body s
  | .echo addr body => Sys2Proof.Machine.execEcho addr body s
  | .loadButtonRelease k => Sys2Proof.Machine.execLoadButtonRelease k s
  | .powerFail => Sys2Proof.Machine.execPowerFail s
  | .parityOrFramingError chars => Sys2Proof.Machine.execParityOrFramingError chars s
  | .lengthAbove240 addr code len => Sys2Proof.Machine.execLengthAbove240 addr code len s

end Sys2Proof.Machine
end

