-- ==== Sys2Proof/Safety.lean ====
section
/-! DEFINITION. What holds of the FT4 at all times: the relations of the manual between the parts of the state, as predicates
that the statements use. -/

namespace Sys2Proof.Machine

open Sys2Proof

/-- The log never holds more than 32 entries (R156). -/
def LogBounded (s : State) : Prop := s.log.entries.length ≤ Config.logSize

/-- While the order of pending writes holds anything, the log is full (R159). -/
def WaitingMeansFull (s : State) : Prop := s.log.order ≠ [] → s.log.entries.length = Config.logSize

/-- Consecutive entries of the log carry consecutive numbers, and the next entry takes the counter's value (R156). -/
def numbersRun (counter : Nat) : List LogEntry → Prop
  | [] => True
  | [e] => (if e.number < 65535 then e.number + 1 else 0) = counter
  | e :: f :: rest => (if e.number < 65535 then e.number + 1 else 0) = f.number ∧ numbersRun counter (f :: rest)

/-- The entry numbers of the log (R156). -/
def NumbersRun (s : State) : Prop :=
  numbersRun s.log.counter s.log.entries ∧ s.log.counter ≤ 65535 ∧ ∀ e ∈ s.log.entries, e.number ≤ 65535

/-- The slot table holds at most 32 slots, of which at most 28 have an action other than REJECT (R116). -/
def SlotsBounded (s : State) : Prop :=
  s.sched.slots.length ≤ Config.slotPlaces ∧ plainCount s.sched.slots ≤ Config.plainSlots

/-- While ESTOP is active the feed state is OFF (R25), and no output is on (R124). -/
def StopHolds (s : State) : Prop := s.inputs.estop = true → s.seq.feed = .off ∧ s.sched.out = Outputs.allOff

/-- What the feed state says of the rest (R35 to R40): in RUN the blocking condition is NONE; feeding is on only with ESTOP
inactive and KEY at RUN; in HELD a latched fault holds the feed, and a fault that holds the feed leaves it OFF or HELD. -/
structure FeedRight (s : State) : Prop where
  runsUnblocked : s.seq.feed = .run → blocking s = .none
  onNeedsKey : s.seq.feed ≠ .off → s.inputs.estop = false ∧ s.inputs.key = .run
  heldByFault : s.seq.feed = .held → faultHolds s = true
  faultStops : faultHolds s = true → s.seq.feed = .off ∨ s.seq.feed = .held

/-- The first reason is present exactly while the latch is latched, the set is empty exactly while it is not, and the first
reason is in the set (R163). -/
structure LatchRight (l : FaultLatch) : Prop where
  firstIff : l.first.isSome = l.latched
  seenIff : l.seen = 0#7 ↔ l.latched = false
  firstSeen : ∀ r, l.first = some r → l.seen &&& reasonBit r = reasonBit r

/-- The snapshot is present while the state is LOADED and absent in IDLE and RELEASING, disable pending is yes only in
RELEASING, and the wait count is at most 15 (R19). -/
structure StationRight (st : Station) : Prop where
  loaded : st.state = .loaded → st.snapshot.isSome
  idle : st.state = .idle → st.snapshot = none
  releasing : st.state = .releasing → st.snapshot = none
  pending : st.disablePending = true → st.state = .releasing
  wait : st.waitCount ≤ 15

/-- The four station records stand as R19 gives, and while the supply is on a station is RELEASING exactly while its REL
output is on (R19, R22, R23). -/
def StationsRight (s : State) : Prop :=
  ∀ k : StationIx, StationRight s.stations[k] ∧
    (s.powered = true → (s.stations[k].state = .releasing ↔ s.sched.out.rel[k].isSome))

/-- No more than 64 records are in use, no two hold the same tag, and every tag and the tag counter lie in 1..65535 (R58,
R59). -/
structure PoolRight (t : TrackStore) : Prop where
  size : t.pool.length ≤ Config.poolSize
  nodup : (t.pool.map (·.tag)).Nodup
  tags : ∀ r ∈ t.pool, 1 ≤ r.tag ∧ r.tag ≤ 65535
  counter : 1 ≤ t.tagCounter ∧ t.tagCounter ≤ 65535

/-- While the quiet flag is yes no reply is owed, and no reply waits on a store write (R177). -/
def QuietOwesNothing (s : State) : Prop :=
  s.link.quiet = true → s.link.owed = none ∧ ∀ w ∈ s.prog.queue, w.replies = false

/-- The state of the records that a zone holds (R66). -/
def zoneState : Zone → PieceState
  | .feed => .released
  | .iron => .ironing
  | .fold => .folding
  | .drop => .dropping

/-- Each zone holds the tags of exactly the records in use in its state, each once, and the list of a lane those of its zone
whose footprint includes the lane; a record has a completion exactly when it is DONE_PENDING (R65 to R67). -/
structure ZonesRight (t : TrackStore) : Prop where
  holds : ∀ (z : Zone) (tag : Nat), tag ∈ t.zone z ↔ ∃ r ∈ t.pool, r.tag = tag ∧ r.state = zoneState z
  nodup : ∀ z : Zone, (t.zone z).Nodup
  entry : ∀ (w : Lane) (tag : Nat),
    tag ∈ t.entryLists[w] ↔ ∃ r ∈ t.pool, r.tag = tag ∧ r.state = .released ∧ hasLane r.footprint w = true
  exit : ∀ (w : Lane) (tag : Nat),
    tag ∈ t.exitLists[w] ↔ ∃ r ∈ t.pool, r.tag = tag ∧ r.state = .ironing ∧ hasLane r.footprint w = true
  lanesNodup : ∀ w : Lane, t.entryLists[w].Nodup ∧ t.exitLists[w].Nodup
  done : ∀ r ∈ t.pool, r.completion.isSome ↔ r.state = .donePending

/-- Two records in the order of the key of a zone: ascending keys, and at equal keys ascending take numbers (R66). -/
def inKeyOrder (c : LineSettings) (z : Zone) (q r : Piece) : Prop :=
  posDiff (zoneKey c z q) (zoneKey c z r) < 0 ∨ (zoneKey c z q = zoneKey c z r ∧ posDiff q.take r.take ≤ 0)

/-- A list of tags is in the order of the key of a zone (R66). -/
def listInOrder (c : LineSettings) (z : Zone) (pool : List Piece) (l : List Nat) : Prop :=
  l.Pairwise fun a b => ∀ q ∈ pool, ∀ r ∈ pool, q.tag = a → r.tag = b → inKeyOrder c z q r

/-- The zones are in ascending order of their keys, and the entry and exit lists of the lanes in that of FEED and IRON (R66,
R67). -/
structure ZonesOrdered (s : State) : Prop where
  zones : ∀ z : Zone, listInOrder s.prog.settings z s.track.pool (s.track.zone z)
  entry : ∀ w : Lane, listInOrder s.prog.settings .feed s.track.pool s.track.entryLists[w]
  exit : ∀ w : Lane, listInOrder s.prog.settings .iron s.track.pool s.track.exitLists[w]

/-- The keys of the records in the zones lie within 2^30 counts of P, and their take numbers within 2^30 of the take counter:
the manual's distances are far below 2^31 (R2, R66). -/
def KeysNear (s : State) : Prop :=
  ∀ z : Zone, ∀ r ∈ s.track.pool, r.tag ∈ s.track.zone z →
    (posDiff (zoneKey s.prog.settings z r) s.line.p).natAbs < 1073741824 ∧
      (posDiff r.take s.track.takeCounter).natAbs < 1073741824

/-- The slots stand in ascending order of position, counted from the present P, each in a place of its own among the 32
(R116). -/
structure SlotsOrdered (s : State) : Prop where
  order : s.sched.slots.Pairwise fun x y => posDiff x.pos s.line.p ≤ posDiff y.pos s.line.p
  places : (s.sched.slots.map (·.place)).Nodup
  inTable : ∀ y ∈ s.sched.slots, y.place < Config.slotPlaces

/-- Every slot lies closer to P than the signed difference can tell apart (R116). -/
def SlotsNear (s : State) : Prop := ∀ y ∈ s.sched.slots, (posDiff y.pos s.line.p).natAbs < 2147483647

/-- The records in use that count in a lot slot. -/
def ofLot (t : TrackStore) (i : LotSlot) : List Piece := t.pool.filter fun r => r.lot.any fun l => decide (l.slot = i)

/-- The records in use that name a program. -/
def ofProgram (t : TrackStore) (ix : ProgramIx) : List Piece := t.pool.filter fun r => decide (r.program = some ix)

/-- The seven counts of a lot, none of them saturated (R129). -/
def unsaturated (l : Lot) : Bool :=
  [l.released, l.stacked, l.returned, l.rejected, l.lost, l.purged, l.inFlight].all fun n => decide (n < 65535)

/-- A lot slot that waits in the order of pending writes is CLOSING, unbound, with nothing in flight and its summary pending
(R140, R159). -/
def awaitsSummary (l : Lot) : Prop := l.state = .closing ∧ l.bin = none ∧ l.inFlight = 0 ∧ l.summaryPending = true

/-- The accounts of the lots and the order of pending writes: released equals the sum of the completions and in_flight (R129),
in_flight is the number of the lot's records in use, a lot with a piece in flight is bound (R132), lots and bins agree (R130), a
usable bin alone is bound, a lot id stands once (R128), a program's in-flight count is the number of its records in use (R148),
and the order of pending writes holds exactly the DONE_PENDING records and the closed lots whose summary is pending, each once
(R140, R159). That the other fields of a FREE lot slot are 0 is the model's choice (log 22). -/
structure AccountsRight (s : State) : Prop where
  conserved : ∀ i : LotSlot, s.lot.lots[i].state ≠ .free → unsaturated s.lot.lots[i] = true →
    s.lot.lots[i].released =
      s.lot.lots[i].stacked + s.lot.lots[i].returned + s.lot.lots[i].rejected + s.lot.lots[i].lost + s.lot.lots[i].purged +
        s.lot.lots[i].inFlight
  inFlight : ∀ i : LotSlot, s.lot.lots[i].inFlight = (ofLot s.track i).length
  programs : ∀ ix : ProgramIx, s.prog.inFlight[ix] = (ofProgram s.track ix).length
  ids : ∀ r ∈ s.track.pool, ∀ l, r.lot = some l → s.lot.lots[l.slot].state ≠ .free ∧ s.lot.lots[l.slot].id = l.id
  bound : ∀ i : LotSlot, 0 < s.lot.lots[i].inFlight → s.lot.lots[i].bin.isSome
  agree : ∀ (i : LotSlot) (b : Bin), s.lot.lots[i].bin = some b ↔ s.lot.bins[b] = some i
  free : ∀ i : LotSlot, s.lot.lots[i].state = .free → s.lot.lots[i] = Lot.free
  usable : ∀ (i : LotSlot) (b : Bin), s.lot.lots[i].bin = some b → b.val < s.prog.settings.binsEnabled
  distinct : ∀ i j : LotSlot, s.lot.lots[i].state ≠ .free → s.lot.lots[j].state ≠ .free →
    s.lot.lots[i].id = s.lot.lots[j].id → i = j
  closed : ∀ i : LotSlot, s.lot.lots[i].state = .closing → s.lot.lots[i].inFlight = 0 → PendingWrite.lot i ∈ s.log.order
  waiting : ∀ i : LotSlot, PendingWrite.lot i ∈ s.log.order → awaitsSummary s.lot.lots[i]
  pieces : ∀ tag : Nat, PendingWrite.piece tag ∈ s.log.order ↔ ∃ r ∈ s.track.pool, r.tag = tag ∧ r.state = .donePending
  summary : ∀ i : LotSlot, s.lot.lots[i].summaryPending = true → PendingWrite.lot i ∈ s.log.order
  orderNodup : s.log.order.Nodup

/-! ### How a request reaches its owner and is answered -/

/-- A request frame is heard: the supply is on and the receiver is WAITING (R169). -/
def Hears (s : State) : Prop := s.powered = true ∧ s.link.rx = .waiting

/-- An addressed frame is taken as a request: it names this unit, whose address is not 0, and no reply is owed (R170, R174). -/
def Addressed (s : State) (addr : Byte) : Prop :=
  addr ≠ 0 ∧ addr.toNat = s.link.address.val ∧ s.link.owed = none

/-- The frame of an addressed request is heard and taken (R169, R170, R174). -/
def Takes (s : State) (addr : Byte) : Prop := Hears s ∧ Addressed s addr

/-- The frame of a broadcast or of an addressed request is heard and taken (R172, R174). -/
def TakesAny (s : State) (addr : Byte) : Prop := Hears s ∧ (addr = 0 ∨ Addressed s addr)

/-- The state in which a reply of a code and body is owed: none to a broadcast, and none while the quiet flag is yes (R172,
R177). -/
def State.answered (s : State) (addr code : Byte) (body : List Byte) : State :=
  if addr = 0 ∨ s.link.quiet = true then s
  else { s with link := { s.link with owed := some { code := code, body := body, awaitsStore := false } } }

/-- The state after a request that changes nothing but the link, and its reply (R173). -/
def State.told (s : State) (addr code : Byte) (body reply : List Byte) : State :=
  (s.received addr code body).answered addr code reply

/-- The state after a request that is refused with a reason of R173. -/
def State.turnedAway (s : State) (addr code : Byte) (body : List Byte) (why : RefuseReason) : State :=
  (s.received addr code body).answered addr (code + 0x80) [refuseCode why]

/-- The characters of a row that brings a whole run of them: the frame of a request row, a complete frame, or the first three
characters of one too long (R168, R169). LINE_QUIET and PARITY_OR_FRAMING_ERROR bring an event of the line besides. -/
def rowChars : Instr → Option (List Byte)
  | .frameDiscarded frame => some frame
  | .lengthAbove240 addr code len => some [addr, code, len]
  | i => i.frame?

/-! ### Expiries held back -/

/-- The expiry of record r at the eyes of a stage is held back: one of its eyes is PENDING with a captured lead inside its window
and P - C_lead equal to eye_min, so that its acceptance falls on this edge (R94). -/
def HoldsBack (s : State) (st : Stage) (r : Piece) : Prop :=
  ∃ e ∈ waitEyes st r, (s.eye e).state = .pending ∧ inWindow s.prog.settings st r (s.eye e).cLead = true ∧
    posDiff s.line.p (s.eye e).cLead = (s.prog.settings.eyeMin : Int)

/-- The expiry of a tag is held back no longer. -/
def State.unheld (s : State) (tag : Nat) : State := { s with heldExpiry := s.heldExpiry.filter (· ≠ tag) }

/-- The expiries held back, one after another, have been looked at again: one that an eye still holds back stays, a record that
still waits with its expiry point at P otherwise expires at once, with LOST latched and then its completion LOST, and one that no
longer waits there does not (R92, R94). -/
inductive Settled : List Nat → State → State → Prop
  | done (s : State) : Settled [] s s
  | stays (tag : Nat) (tags : List Nat) (st : Stage) (r : Piece) (s t : State) : s.piece? tag = some r →
      stillWaits st r = true → expiryPoint s.prog.settings st r = s.line.p → HoldsBack s st r → Settled tags s t →
      Settled (tag :: tags) s t
  | expires (tag : Nat) (tags : List Nat) (st : Stage) (r : Piece) (s t : State) : s.piece? tag = some r →
      stillWaits st r = true → expiryPoint s.prog.settings st r = s.line.p → ¬HoldsBack s st r →
      Settled tags (complete tag .lost (some st) (latchFault .lost (s.unheld tag))) t → Settled (tag :: tags) s t
  | leaves (tag : Nat) (tags : List Nat) (s t : State) :
      (∀ r st, s.piece? tag = some r → stillWaits st r = true → expiryPoint s.prog.settings st r ≠ s.line.p) →
      Settled tags (s.unheld tag) t → Settled (tag :: tags) s t

/-! ### What the statements say more than once -/

/-- A station that leaves RELEASING: DISABLED if a disable is pending and IDLE otherwise, with its next assignment in effect
(R23). -/
def leftReleasing (x : Station) : Station :=
  { x with
    state := if x.disablePending then .disabled else .idle
    disablePending := false
    current := match x.next with
      | .absent => x.current
      | .pair a => some a
      | .clear => none
    next := .absent }

/-- Slot y is gone from the table and from its records' pending actions (R120, R125). -/
def State.withoutSlot (s : State) (y : Slot) : State :=
  { s with
    sched := { s.sched with slots := s.sched.slots.filter fun z => z.place ≠ y.place }
    track :=
      { s.track with
        pool := s.track.pool.map fun r =>
          if r.tag ∈ y.tags then { r with actions := r.actions.filter fun pl => pl ≠ y.place } else r } }

/-- The outputs once a slot that drives d has fired: each channel that it drives is on until the later of its present end and the
present time plus the width of its group, and every other channel is as before (R113, R114, R121 to R123). -/
def State.pulsed (s : State) (d : Drive) : Outputs :=
  let o := s.sched.out
  let c := s.prog.settings
  let later (width : Nat) (now : Option Nat) : Option Nat := some (max (now.getD 0) (s.line.now + width))
  match d with
  | .pf lanes => { o with pf := Vector.ofFn fun w => if lanes.getLsbD w.val then later c.wPf o.pf[w] else o.pf[w] }
  | .xf => { o with xf := later c.wXf o.xf }
  | .rj => { o with rj := later c.wRj o.rj }
  | .bf b => { o with bf := o.bf.set b (later c.wBin o.bf[b]) }

/-- Slot y has fired: it is gone from the table and from its records' pending actions, it is no longer due, the firing of the
edge has begun (log 27), and its channels are started or extended (R114, R120). -/
def State.fired (s : State) (y : Slot) : State :=
  let u := s.withoutSlot y
  { u with
    due := s.due.filter fun d => d ≠ Due.fire y.place ∧ d ≠ Due.firing
    sched := { u.sched with out := s.pulsed y.drive } }

/-- SR_b starts or is extended: no release is held for bin b any longer, and the lot bound to it has a stack count of 0 (R115,
R137). -/
def State.releaseStarted (s : State) (b : Bin) : State :=
  { s with
    sched :=
      { s.sched with
        held := s.sched.held.set b false
        out :=
          { s.sched.out with
            sr := s.sched.out.sr.set b (some (max (s.sched.out.sr[b].getD 0) (s.line.now + s.prog.settings.wSr))) } }
    lot :=
      match s.lot.bins[b] with
      | some i => { s.lot with lots := s.lot.lots.set i { s.lot.lots[i] with stackCount := 0 } }
      | none => s.lot }

/-- A stack release has been asked for bin b: merged into one already held, held under ESTOP or while BF_b is on, started
otherwise (R115). -/
def State.releaseAsked (s : State) (b : Bin) : State :=
  if s.sched.held[b] = true then s
  else if s.inputs.estop = true ∨ s.sched.out.bf[b].isSome then
    { s with sched := { s.sched with held := s.sched.held.set b true } }
  else s.releaseStarted b

/-- Lot slot i, bound to bin b, has been unbound: a release asked for if its stack count is above 0, then the count 0 and the bin
free (R138). -/
def State.unbound (s : State) (i : LotSlot) (b : Bin) : State :=
  let u := if s.lot.lots[i].stackCount = 0 then s else s.releaseAsked b
  { u with
    lot :=
      { lots := u.lot.lots.set i { u.lot.lots[i] with stackCount := 0, bin := none }, bins := s.lot.bins.set b none } }

/-- The held releases whose flap is closed have started, each as R115 gives, and nothing else has changed (R115, R137). -/
structure HeldStarted (s t : State) : Prop where
  held : ∀ b : Bin, t.sched.held[b] = (s.sched.held[b] && s.sched.out.bf[b].isSome)
  pulse : ∀ b : Bin, t.sched.out.sr[b] =
    if s.sched.held[b] = true ∧ s.sched.out.bf[b] = none then
      some (max (s.sched.out.sr[b].getD 0) (s.line.now + s.prog.settings.wSr))
    else s.sched.out.sr[b]
  lots : ∀ i : LotSlot, t.lot.lots[i] =
    if ∃ b : Bin, s.sched.held[b] = true ∧ s.sched.out.bf[b] = none ∧ s.lot.bins[b] = some i then
      { s.lot.lots[i] with stackCount := 0 }
    else s.lot.lots[i]
  rest : t =
    { s with
      sched := { s.sched with held := t.sched.held, out := { s.sched.out with sr := t.sched.out.sr } }
      lot := { s.lot with lots := t.lot.lots } }

/-- An entry has been written at the back of the log under the next entry number; 65535 is followed by 0 (R156). -/
def State.withEntry (s : State) (b : EntryBody) : State :=
  { s with
    log :=
      { s.log with
        entries := s.log.entries ++ [{ number := s.log.counter, body := b }]
        counter := if s.log.counter < 65535 then s.log.counter + 1 else 0 } }

/-- A slot once it is cancelled for a tag: the tag withdrawn, and the slot gone when it named no other (R118). -/
def cancelledFor (tag : Nat) (y : Slot) : Option Slot :=
  if tag ∈ y.tags then
    if y.tags.filter (· ≠ tag) = [] then none else some { y with tags := y.tags.filter (· ≠ tag) }
  else some y

/-- Record r is off the line: its slots cancelled, and its tag out of every zone and lane list (R69). -/
def State.offLine (s : State) (r : Piece) : State :=
  { s with
    sched :=
      { s.sched with
        slots := s.sched.slots.filterMap fun y => if y.place ∈ r.actions then cancelledFor r.tag y else some y }
    track :=
      { s.track with
        feedZone := s.track.feedZone.filter (· ≠ r.tag)
        ironZone := s.track.ironZone.filter (· ≠ r.tag)
        foldZone := s.track.foldZone.filter (· ≠ r.tag)
        dropZone := s.track.dropZone.filter (· ≠ r.tag)
        entryLists := s.track.entryLists.map fun l => l.filter (· ≠ r.tag)
        exitLists := s.track.exitLists.map fun l => l.filter (· ≠ r.tag) } }

/-- A lot with in_flight lowered and the count of a completion kind raised, saturating at 65535 (R70, R129). -/
def counted (k : CompletionKind) (l : Lot) : Lot :=
  { l with
    inFlight := l.inFlight - 1
    stacked := if k = .stacked then min 65535 (l.stacked + 1) else l.stacked
    returned := if k = .returned then min 65535 (l.returned + 1) else l.returned
    rejected := if k = .rejected then min 65535 (l.rejected + 1) else l.rejected
    lost := if k = .lost then min 65535 (l.lost + 1) else l.lost
    purged := if k = .purged then min 65535 (l.purged + 1) else l.purged }

/-- The PIECE entry of record r has been written: the counts of its lot and its program are changed, and the record is free
(R70, R129, R148). -/
def State.pieceWritten (s : State) (r : Piece) (c : Completion) : State :=
  let s := s.withEntry (.piece (pieceEntry r c))
  { s with
    lot :=
      match r.lot with
      | some l => { s.lot with lots := s.lot.lots.set l.slot (counted c.kind s.lot.lots[l.slot]) }
      | none => s.lot
    prog :=
      match r.program with
      | some ix => { s.prog with inFlight := s.prog.inFlight.set ix (s.prog.inFlight[ix] - 1) }
      | none => s.prog
    track := { s.track with pool := s.track.pool.filter fun q => q.tag ≠ r.tag } }

/-- A staged record of the program of r is in force once the program has nothing in flight: its store write is asked for and the
stations are examined (R147, R148). -/
def State.stagedApplied (s : State) (r : Piece) : State :=
  match r.program with
  | none => s
  | some ix =>
    match s.prog.staged[ix] with
    | none => s
    | some p =>
      if s.prog.inFlight[ix] = 0 then
        examine
          { s with
            prog :=
              { s.prog with
                programs := s.prog.programs.set ix p
                staged := s.prog.staged.set ix none
                queue := s.prog.queue ++ [{ record := .program ix p, replies := false }] } }
      else s

/-- The summary of lot slot i has been asked for: written, and the slot freed, if the log has room and nothing waits, and otherwise
pending at the back of the order (R140, R159). -/
def State.summaryAsked (s : State) (i : LotSlot) : State :=
  if s.log.entries.length < 32 ∧ s.log.order = [] then
    let t := s.withEntry (.lot (lotEntry s.lot.lots[i]))
    { t with lot := { t.lot with lots := t.lot.lots.set i Lot.free } }
  else
    { s with
      lot := { s.lot with lots := s.lot.lots.set i { s.lot.lots[i] with summaryPending := true } }
      log := { s.log with order := s.log.order ++ [.lot i] } }

/-- What the written entry of r brings has been done: a staged record is in force, and a CLOSING lot of r with nothing in flight
has ended its close: unbound, if it was bound, before the stations are examined for either, and then its summary asked for (R133,
R140, R148). -/
def State.closedAndApplied (s : State) (r : Piece) : State :=
  match r.lot with
  | none => s.stagedApplied r
  | some l =>
    if s.lot.lots[l.slot].state = .closing ∧ s.lot.lots[l.slot].inFlight = 0 then
      (match s.lot.lots[l.slot].bin with
        | some b => examine ((s.unbound l.slot b).stagedApplied r)
        | none => s.stagedApplied r).summaryAsked l.slot
    else s.stagedApplied r

/-- The PIECE entry of record r has been written, with all the work that the writer does at once (R70, R148, R159; log 5). -/
def State.pieceDone (s : State) (r : Piece) (c : Completion) : State :=
  examine ((s.pieceWritten r c).closedAndApplied r)

/-- A waiting request of the order of pending writes has been written: a completed record's PIECE entry with its writer's work,
or a lot's LOT entry with the freeing of its slot (R140, R159). A tag that no completed record holds, which AccountsRight rules
out, writes nothing. -/
def State.waitingWritten (s : State) : PendingWrite → State
  | .piece tag =>
    match s.piece? tag with
    | none => s
    | some r =>
      match r.completion with
      | none => s
      | some c => s.pieceDone r c
  | .lot i =>
    let t := s.withEntry (.lot (lotEntry s.lot.lots[i]))
    { t with lot := { t.lot with lots := t.lot.lots.set i Lot.free } }

/-- The room of the log has been filled from the order of pending writes: the request at the front is written again and again,
until the order is empty or the log is full (R162, step 4). -/
inductive Filled : State → State → Prop
  | stop (s : State) : s.log.order = [] ∨ 32 ≤ s.log.entries.length → Filled s s
  | write (s t : State) (w : PendingWrite) (ws : List PendingWrite) : s.log.order = w :: ws → s.log.entries.length < 32 →
      Filled (State.waitingWritten { s with log := { s.log with order := ws } } w) t → Filled s t

/-- The entry that a waiting request is written as. -/
def waitingBody (s : State) : PendingWrite → Option EntryBody
  | .piece tag => (s.piece? tag).bind fun r => r.completion.map fun c => .piece (pieceEntry r c)
  | .lot i => some (.lot (lotEntry s.lot.lots[i]))

/-! ### The grant and the examination -/

/-- Lot slot i is the one in OPEN that a lot id names, the first if there were several (R51, R128). -/
def NamesOpenLot (s : State) (id : Nat) (i : LotSlot) : Prop :=
  s.lot.lots[i].state = .opened ∧ s.lot.lots[i].id = id ∧
    ∀ j : LotSlot, j < i → s.lot.lots[j].state ≠ .opened ∨ s.lot.lots[j].id ≠ id

/-- The tag counter n values on: 65535 is followed by 1 (R59). -/
def tagAfter (counter n : Nat) : Nat := (counter - 1 + n) % 65535 + 1

/-- The tag that a record taken into use is given: the tag counter's value when no record in use holds it, and otherwise the first
of the values that follow it which none holds (R59). -/
def GivesTag (t : TrackStore) (tag : Nat) : Prop :=
  (∀ q ∈ t.pool, q.tag ≠ tag) ∧
    ∃ n, tag = tagAfter t.tagCounter n ∧ ∀ m, m < n → ∃ q ∈ t.pool, q.tag = tagAfter t.tagCounter m

/-- A record of a tag and footprint has been taken into zone z: its tag stands there, and for FEED and IRON in the lists of its
lanes, and every list holds what it held besides (R66, R67). -/
structure Joined (tag : Nat) (z : Zone) (foot : LaneSet) (t u : TrackStore) : Prop where
  zones : ∀ y g, g ∈ u.zone y ↔ (g = tag ∧ y = z) ∨ g ∈ t.zone y
  entry : ∀ (w : Lane) g, g ∈ u.entryLists[w] ↔ (g = tag ∧ z = .feed ∧ hasLane foot w = true) ∨ g ∈ t.entryLists[w]
  exit : ∀ (w : Lane) g, g ∈ u.exitLists[w] ↔ (g = tag ∧ z = .iron ∧ hasLane foot w = true) ∨ g ∈ t.exitLists[w]

/-- A record of a tag and footprint has moved to zone z: its tag stands there alone, and for FEED and IRON in the lists of its
lanes, every other tag where it stood, and the counters are as before (R68). -/
structure Moved (tag : Nat) (z : Zone) (foot : LaneSet) (t u : TrackStore) : Prop where
  zones : ∀ y g, g ∈ u.zone y ↔ (g = tag ∧ y = z) ∨ (g ≠ tag ∧ g ∈ t.zone y)
  entry : ∀ (w : Lane) g,
    g ∈ u.entryLists[w] ↔ (g = tag ∧ z = .feed ∧ hasLane foot w = true) ∨ (g ≠ tag ∧ g ∈ t.entryLists[w])
  exit : ∀ (w : Lane) g,
    g ∈ u.exitLists[w] ↔ (g = tag ∧ z = .iron ∧ hasLane foot w = true) ∨ (g ≠ tag ∧ g ∈ t.exitLists[w])
  counters : u.tagCounter = t.tagCounter ∧ u.takeCounter = t.takeCounter

/-- A STRAY record for an edge on lane w, but for what its eye group fills in: no station, program or lot, the one lane as its
footprint, the reason STRAY and the route RETURN (R64). -/
def strayMade (w : Lane) (tag : Nat) (take : Pos) : Piece :=
  { tag := tag, take := take, kind := .stray, state := .ironing, station := none, program := none, lot := none,
    footprint := 1#4 <<< w.val, grantPos := none, ePred := none, entrySeen := 0#4, entryEnded := 0#4, entryLead := none,
    entryLength := none, lEst := none, exitSeen := 0#4, exitEnded := 0#4, exitLead := none, exitLength := none,
    stackerLead := none, bin := none, reason := some .stray, undiverted := false, route := .back, actions := [],
    completion := none }

/-- Station k, with snapshot a, has been granted under the program record pr for the bound lot slot i: the record, the tag and the
lists, the pulse, the counts, the tails and the wait counts of the other LOADED stations (R22, R24, R56, R63). -/
structure Granted (k : StationIx) (a : Assignment) (pr : ProgramRec) (i : LotSlot) (s t : State) (tag : Nat) (e : Pos) :
    Prop where
  predicted : e = posAdd (posAdd s.line.p (lead s s.prog.settings.tRel)) s.prog.settings.dStation[k]
  given : GivesTag s.track tag
  record : t.track.pool =
    s.track.pool ++
      [{ tag := tag, take := s.track.takeCounter, kind := .fed, state := .released, station := some k,
         program := some a.program, lot := some { slot := i, id := a.lotId }, footprint := footprintOf pr.width k,
         grantPos := some s.line.p, ePred := some e, entrySeen := 0#4, entryEnded := 0#4, entryLead := none,
         entryLength := none, lEst := none, exitSeen := 0#4, exitEnded := 0#4, exitLead := none, exitLength := none,
         stackerLead := none, bin := none, reason := none, undiverted := false,
         route := if pr.stack then .stack else .back, actions := [], completion := none }]
  lists : Joined tag .feed (footprintOf pr.width k) s.track t.track
  track : t.track =
    { s.track with
      pool := t.track.pool, feedZone := t.track.feedZone, entryLists := t.track.entryLists, tagCounter := tagAfter tag 1
      takeCounter := s.track.takeCounter + 1#32 }
  tails : ∀ w : Lane, t.seq.tails[w] =
    if hasLane (footprintOf pr.width k) w = true then some { pos := posAdd e pr.nominal, lotId := a.lotId, tag := tag }
    else s.seq.tails[w]
  granted : t.stations[k] =
    { s.stations[k] with state := .releasing, snapshot := none, waitCount := 0, waitReason := .none }
  others : ∀ j : StationIx, j ≠ k → t.stations[j] =
    if s.stations[j].state = .loaded then { s.stations[j] with waitCount := min 15 (s.stations[j].waitCount + 1) }
    else s.stations[j]
  rest : t =
    { s with
      stations := t.stations, track := t.track, seq := { s.seq with tails := t.seq.tails }
      sched :=
        { s.sched with
          out := { s.sched.out with rel := s.sched.out.rel.set k (some (s.line.now + s.prog.settings.wRel)) } }
      lot :=
        { s.lot with
          lots := s.lot.lots.set i
            { s.lot.lots[i] with
              released := min 65535 (s.lot.lots[i].released + 1), inFlight := min 65535 (s.lot.lots[i].inFlight + 1)
              lastUse := s.line.p } }
      prog := { s.prog with inFlight := s.prog.inFlight.set a.program (s.prog.inFlight[a.program] + 1) } }

/-- Bin b, bound to lot slot j, is the one an eviction takes: its lot is OPEN with nothing in flight, and no other such lot lies
further behind P by its last use, or as far in a bin of lower number (R133). -/
def Evicts (s : State) (j : LotSlot) (b : Bin) : Prop :=
  let free (i : LotSlot) : Prop := s.lot.lots[i].state = .opened ∧ s.lot.lots[i].inFlight = 0
  s.lot.bins[b] = some j ∧ free j ∧
    ∀ (d : Bin) (i : LotSlot), s.lot.bins[d] = some i → free i →
      posDiff s.line.p s.lot.lots[i].lastUse ≤ posDiff s.line.p s.lot.lots[j].lastUse ∧
        (posDiff s.line.p s.lot.lots[i].lastUse = posDiff s.line.p s.lot.lots[j].lastUse → b ≤ d)

/-- The check of station k in an examination, from x to y: a station that is not LOADED is passed by; one with a condition that
fails takes its reason and, if it is starving and the reason is BIN, POOL, LANE_GAP or LOT_GAP, blocks its footprint; one that
shares a lane with a blocked footprint waits with STARVING; any other is granted (R46, R50, R57). -/
structure Checked (starving : Bool) (k : StationIx) (x y : Exam) : Prop where
  passed : x.state.stations[k].state ≠ .loaded ∨ x.state.stations[k].snapshot = none → y = x
  waits : ∀ (a : Assignment) (why : WaitReason), x.state.stations[k].state = .loaded →
    x.state.stations[k].snapshot = some a → failing x.state k a = some why →
      y.state = x.state.modStation k (fun st => { st with waitReason := why }) ∧ y.last = x.last ∧
        y.blocked =
          if starving = true ∧ why ∈ [WaitReason.bin, .pool, .laneGap, .lotGap] then
            match x.state.prog.programs[a.program] with
            | some pr => x.blocked ||| footprintOf pr.width k
            | none => x.blocked
          else x.blocked
  holds : ∀ (a : Assignment) (pr : ProgramRec) (i : LotSlot), x.state.stations[k].state = .loaded →
    x.state.stations[k].snapshot = some a → failing x.state k a = none → x.state.prog.programs[a.program] = some pr →
    NamesOpenLot x.state a.lotId i →
      (footprintOf pr.width k &&& x.blocked ≠ 0#4 →
        y = { x with state := x.state.modStation k fun st => { st with waitReason := .starving } }) ∧
      (footprintOf pr.width k &&& x.blocked = 0#4 → y = { x with state := grant k a pr i x.state, last := some k })

/-- The checks of an examination, one station after another. -/
inductive Checks : List (StationIx × Bool) → Exam → Exam → Prop
  | done (x : Exam) : Checks [] x x
  | next (k : StationIx) (starving : Bool) (rest : List (StationIx × Bool)) (x y z : Exam) : Checked starving k x y →
      Checks rest y z → Checks ((k, starving) :: rest) x z

/-- The lots in OPEN that hold an id are one (R128). -/
def OneOpenLot (s : State) : Prop :=
  ∀ i j : LotSlot, s.lot.lots[i].state = .opened → s.lot.lots[j].state = .opened → s.lot.lots[i].id = s.lot.lots[j].id → i = j

end Sys2Proof.Machine
end

