-- ==== Sys2Proof/Certificates/Slice0/Obligations.lean ====
section
/-! DEFINITION. The statements for the provers. Each says which rule of the manual it formalises; a statement that rests on a
choice of the model says so and names the entry of the assumption log. -/

open Sys2Proof Sys2Proof.Machine

/-! ### The queue and the step -/

/-- A step takes the command at the front of the queue and carries it out on the state with the queue's rest. -/
def Obligations.StepTakesTheFrontCommand : Prop :=
  ∀ (c : Instr) (rest : List Instr) (s : State), s.pending = c :: rest → step s = exec c { s with pending := rest }

/-- The model's choices (log 1, log 11): a step on an empty queue is 1 ms of the time that the block's clocks read while the
supply is on, and changes nothing else; while the supply is off, every command but POWER_ON leaves the state as it is. -/
def Obligations.IdleTicksAndTheUnpoweredBlock : Prop :=
  (∀ s : State, s.pending = [] →
    step s = .next (if s.powered then { s with line := { s.line with now := s.line.now + 1 } } else s)) ∧
  ∀ (c : Instr) (s : State), s.powered = false → (∀ smp, c ≠ .powerOn smp) → exec c s = .next s

/-- Every command is carried out in every state: `exec` answers a next state, and leaves the queue as it was. That the commands
wait in a queue is the model's choice (log 2). -/
def Obligations.EveryCommandAnswersNextAndKeepsTheQueue : Prop :=
  ∀ (c : Instr) (s : State), ∃ t, exec c s = .next t ∧ t.pending = s.pending

/-! ### Frames on the line -/

/-- A frame written from a well-formed request command by the layout of R168 and the codes of R171 is read back as that
command, so that no bit of a request is dropped; for each address, code and body of at most 240 characters there is exactly one
such command; and a run of characters spells no request exactly when it is no complete frame or its CRC is wrong (R170). Of the
rows of the line, FRAME_DISCARDED is well formed with a complete frame and LENGTH_ABOVE_240 with a length above 240. Which of
the rows that share a code a body belongs to is the model's choice (log 20), and so is what characters a row of the line
carries (log 9). -/
def Obligations.RequestFramesReadBackAsTheirCommand : Prop :=
  (∀ (i : Instr) (frame : List Byte), i.wellFormed = true → i.frame? = some frame → requestOfFrame frame = some i) ∧
  (∀ (addr code : Byte) (body : List Byte), body.length ≤ 240 →
    ∃! i : Instr, i.wellFormed = true ∧ requestParts i = some (addr, code, body)) ∧
  (∀ frame : List Byte, requestOfFrame frame = none ↔ frameShaped frame = false ∨ crcGood frame = false) ∧
  (∀ frame : List Byte, (Instr.frameDiscarded frame).wellFormed = frameShaped frame) ∧
  ∀ addr code len : Byte, (Instr.lengthAbove240 addr code len).wellFormed = decide (240 < len.toNat)

/-- The receiver takes a frame character by character (R169): from WAITING the characters of a frame begun fill the buffer in
RECEIVING, the last of the 5 + n characters completes it and the receiver goes to SKIPPING, where every further character is
dropped; a third character above 240 makes it go to SKIPPING at once. The frame of an address, code and body is these two, the
body's length, the body and the CRC of all of it, low byte first; the CRC-16 starts from 0xFFFF and takes each character's bits
from bit 7 down, shifting left and combining with 0x1021 when the bit shifted out differs from the data bit; over the nine
characters of the text "123456789" it is 0x29B1 (R168). A complete frame has 5 + n characters with n, at most 240, in the
third, an unfinished one fewer, and its CRC is good when its last two characters are that of the rest (R169, R170). -/
def Obligations.FrameCharactersFillTheBuffer : Prop :=
  crc16 [0x31, 0x32, 0x33, 0x34, 0x35, 0x36, 0x37, 0x38, 0x39] = 0x29B1#16 ∧ crc16 [] = 0xFFFF#16 ∧
  (∀ (bytes : List Byte) (b : Byte),
    crc16 (bytes ++ [b]) =
      [7, 6, 5, 4, 3, 2, 1, 0].foldl
        (fun (reg : BitVec 16) (i : Nat) =>
          if reg.getLsbD 15 = b.getLsbD i then reg <<< 1 else (reg <<< 1) ^^^ 0x1021#16)
        (crc16 bytes)) ∧
  (∀ (addr code : Byte) (body : List Byte),
    let head := addr :: code :: BitVec.ofNat 8 body.length :: body
    frameBytes addr code body = head ++ [(crc16 head).setWidth 8, (crc16 head >>> 8).setWidth 8]) ∧
  (∀ (head : List Byte) (lo hi : Byte),
    crcGood (head ++ [lo, hi]) = true ↔ lo = (crc16 head).setWidth 8 ∧ hi = (crc16 head >>> 8).setWidth 8) ∧
  (∀ frame : List Byte, frameShaped frame = true ↔
    ∃ (addr code len : Byte) (rest : List Byte),
      frame = addr :: code :: len :: rest ∧ len.toNat ≤ 240 ∧ rest.length = len.toNat + 2) ∧
  (∀ chars : List Byte, unfinished chars = true ↔
    ∀ (addr code len : Byte) (rest : List Byte),
      chars = addr :: code :: len :: rest → len.toNat ≤ 240 ∧ rest.length < len.toNat + 2) ∧
  ∀ l : Link, l.rx = .waiting →
    (∀ (addr code : Byte) (body after : List Byte), body.length ≤ 240 →
      rxChars l (frameBytes addr code body ++ after) = { l with rx := .skipping, buffer := frameBytes addr code body } ∧
      ∀ n, 0 < n → n < (frameBytes addr code body).length →
        rxChars l ((frameBytes addr code body).take n) =
          { l with rx := .receiving, buffer := (frameBytes addr code body).take n }) ∧
    ∀ (addr code len : Byte) (after : List Byte), 240 < len.toNat →
      rxChars l ([addr, code, len] ++ after) = { l with rx := .skipping, buffer := [addr, code, len] }

/-- The codes, body lengths and broadcast handling of the table of R171: for each row, the body length that its code takes and
whether it is carried out on broadcast; the code of each request command; and that the frame of a request command is the frame
of its address, code and body (R168). -/
def Obligations.RequestTableOfCodesAndLengths : Prop :=
  (∀ row ∈ ([(0x10, 1, true), (0x11, 4, false), (0x12, 2, false), (0x13, 1, false), (0x20, 3, false), (0x21, 2, false),
      (0x22, 2, false), (0x30, 19, false), (0x31, 1, false), (0x32, 83, false), (0x33, 0, false), (0x40, 2, false),
      (0x41, 3, false), (0x50, 1, false), (0x51, 1, false), (0x52, 0, true), (0x53, 0, false), (0x60, 0, true),
      (0x61, 0, true), (0x62, 0, true)] : List (Byte × Nat × Bool)),
    row.1 ∈ knownCodes ∧ (∀ n : Nat, lengthFits row.1 n = true ↔ n = row.2.1) ∧ broadcastCode row.1 = row.2.2) ∧
  0x63 ∈ knownCodes ∧ (∀ n : Nat, lengthFits 0x63 n = true) ∧ broadcastCode 0x63 = false ∧ knownCodes.length = 21 ∧
  (∀ (addr : Byte) (body : List Byte),
    ([.feedOn, .feedOff, .assign, .stationEnableDisable, .stationEnableEnable, .stationEnableClear, .stationRead, .lotOpen,
        .lotClose, .lotRead, .programWrite, .programRead, .lineSettingsWrite, .lineSettingsRead, .pieceRead, .purge, .purgeTag,
        .logPeek, .logTake, .faultAck, .status, .quiet, .resume, .restart, .echo] :
          List (Byte → List Byte → Instr)).map (fun row => requestParts (row addr body)) =
      [0x10, 0x10, 0x11, 0x12, 0x12, 0x12, 0x13, 0x20, 0x21, 0x22, 0x30, 0x31, 0x32, 0x33, 0x40, 0x41, 0x41, 0x50, 0x51, 0x52,
        0x53, 0x60, 0x61, 0x62, 0x63].map fun code => some (addr, code, body)) ∧
  (∀ (addr code : Byte) (body : List Byte), requestParts (.unknownRequest addr code body) = some (addr, code, body)) ∧
  ∀ i : Instr, i.frame? =
    match requestParts i with
    | some (addr, code, body) => some (frameBytes addr code body)
    | none => none

/-- An addressed request with a code not in the table is refused with UNKNOWN_REQUEST, and one of a wrong body length with
BAD_LENGTH; nothing but the link changes (R173). That the code of the reply to a code of 0x80 or more, to which 0x80 is added,
is taken modulo 256 is the model's choice (log 30). -/
def Obligations.UnknownCodesAndWrongLengthsAreRefused : Prop :=
  ∀ (i : Instr) (addr code : Byte) (body : List Byte) (s : State),
    i.wellFormed = true → requestParts i = some (addr, code, body) → Takes s addr →
      (code ∉ knownCodes → exec i s = .next (s.turnedAway addr code body .unknownRequest)) ∧
      (code ∈ knownCodes → lengthFits code body.length = false →
        exec i s = .next (s.turnedAway addr code body .badLength))

/-- A request frame that names another unit, an addressed one completed while a reply is owed, and a broadcast of a code that
is not carried out on broadcast or of a wrong length are taken from the line and change nothing else (R170, R172, R174). A
request row or a FRAME_DISCARDED that comes while the receiver is SKIPPING changes nothing, and in RECEIVING its characters
join the frame begun (R169): they leave it unfinished, or one of them is a length above 240 in the third place, or one of them
completes it, and what comes after that is dropped. A frame completed so, such as one begun by a character with an error, is
checked like any other: with a bad CRC it is discarded, and with a good one the request that it spells is carried out as from
WAITING (R170). So is a FRAME_DISCARDED whose characters spell a request. That such a row brings its characters one by one is
log 9 (DEDUCED). -/
def Obligations.FramesNotForThisUnitChangeOnlyTheReceiver : Prop :=
  (∀ (i : Instr) (addr code : Byte) (body : List Byte) (s : State),
    i.wellFormed = true → requestParts i = some (addr, code, body) → Hears s →
      ((addr ≠ 0 ∧ (addr.toNat ≠ s.link.address.val ∨ s.link.owed.isSome)) ∨
        (addr = 0 ∧ (broadcastCode code = false ∨ lengthFits code body.length = false))) →
      exec i s = .next (s.received addr code body)) ∧
  ∀ (i : Instr) (chars : List Byte) (s : State), s.powered = true → i.wellFormed = true → rowChars i = some chars →
    (s.link.rx = .skipping → exec i s = .next s) ∧
    (s.link.rx = .receiving →
      (unfinished (s.link.buffer ++ chars) = true →
        exec i s = .next { s with link := { s.link with buffer := s.link.buffer ++ chars } }) ∧
      ∀ (before after : List Byte) (c : Byte), chars = before ++ c :: after →
        unfinished (s.link.buffer ++ before) = true →
          let frame := s.link.buffer ++ before ++ [c]
          let full : State := { s with link := { s.link with rx := .skipping, buffer := frame } }
          (frame.length = 3 → 240 < c.toNat → exec i s = .next full) ∧
          (frameShaped frame = true →
            (requestOfFrame frame = none → exec i s = .next full) ∧
            ∀ j : Instr, requestOfFrame frame = some j →
              exec i s = exec j { s with link := { s.link with rx := .waiting } })) ∧
    (s.link.rx = .waiting → ∀ frame : List Byte, i = .frameDiscarded frame → ∀ j : Instr, requestOfFrame frame = some j →
      exec i s = exec j s)

/-- What the line's own events do to the receiver, in the states in which they arise, and to nothing else (R169, R170): a quiet
line ends an unfinished frame in WAITING, a parity or framing error in a character of it or a length above 240 in SKIPPING, and
a complete frame that is discarded in SKIPPING. In WAITING a character with an error begins a frame like any other, in
RECEIVING it ends the frame in SKIPPING, and in SKIPPING it is dropped. In every state the characters that LINE_QUIET or
PARITY_OR_FRAMING_ERROR brings before the quiet or the bad character act as in FRAME_DISCARDED. The reply owed is sent when its
time comes, as a frame of the unit's own address, and with the quiet flag yes it is not sent and nothing is owed (R173, R175).
The model's choices: which characters a row carries and how they reach the receiver (log 9), that REPLY changes nothing while
the reply waits for its store write (log 18), and the record of the frame sent, which the manual does not name (log 21). -/
def Obligations.LineEventsAndTheReply : Prop :=
  ∀ s : State, s.powered = true →
    (exec (.lineQuiet []) s = .next { s with link := { s.link with rx := .waiting } }) ∧
    (s.link.rx = .waiting →
      (∀ chars, unfinished chars = true → chars ≠ [] →
        exec (.lineQuiet chars) s = .next { s with link := { s.link with buffer := chars } } ∧
        ∀ bad : Byte,
          exec (.parityOrFramingError (chars ++ [bad])) s =
            .next { s with link := { s.link with rx := .skipping, buffer := chars } }) ∧
      (∀ bad : Byte,
        exec (.parityOrFramingError [bad]) s = .next { s with link := { s.link with rx := .receiving, buffer := [bad] } }) ∧
      (∀ addr code len : Byte, 240 < len.toNat →
        exec (.lengthAbove240 addr code len) s =
          .next { s with link := { s.link with rx := .skipping, buffer := [addr, code, len] } }) ∧
      ∀ frame, frameShaped frame = true →
        (crcGood frame = false ∨
          (frame.headD 0 ≠ 0 ∧ ((frame.headD 0).toNat ≠ s.link.address.val ∨ s.link.owed.isSome))) →
        exec (.frameDiscarded frame) s = .next { s with link := { s.link with rx := .skipping, buffer := frame } }) ∧
    (∀ bad : Byte,
      (s.link.rx = .receiving →
        exec (.parityOrFramingError [bad]) s = .next { s with link := { s.link with rx := .skipping } }) ∧
      (s.link.rx = .skipping → exec (.parityOrFramingError [bad]) s = .next s)) ∧
    (∀ (chars : List Byte) (t : State), exec (.frameDiscarded chars) s = .next t →
      exec (.lineQuiet chars) s = .next { t with link := { t.link with rx := .waiting } } ∧
        ∀ bad : Byte, exec (.parityOrFramingError (chars ++ [bad])) s = exec (.parityOrFramingError [bad]) t) ∧
    (s.link.owed = none → exec .reply s = .next s) ∧
    ∀ o : Owed, s.link.owed = some o →
      (o.awaitsStore = true → exec .reply s = .next s) ∧
      (o.awaitsStore = false → s.link.quiet = true → exec .reply s = .next { s with link := { s.link with owed := none } }) ∧
      (o.awaitsStore = false → s.link.quiet = false →
        exec .reply s =
          .next
            { s with
              link :=
                { s.link with
                  owed := none, rx := .skipping,
                  sent := some (frameBytes (BitVec.ofNat 8 s.link.address.val) o.code o.body) } })

/-! ### The link's own requests -/

/-- ECHO carries a body of 0 to 240 bytes, its reply carries the same bytes, and it changes nothing, in every feed state, with
the KEY in either position and with ESTOP active or not; on broadcast it is ignored (R178). -/
def Obligations.EchoRepliesTheSameBytes : Prop :=
  ∀ (addr : Byte) (body : List Byte) (s : State), body.length ≤ 240 →
    (Takes s addr → exec (.echo addr body) s = .next (s.told addr 0x63 body body)) ∧
    (Hears s → addr = 0 → exec (.echo addr body) s = .next (s.received addr 0x63 body))

/-- QUIET, addressed or broadcast, sets the quiet flag and is not answered; a reply owed is not sent, and no store write has a
reply waiting on it. RESUME sets the flag to no, and is answered with an empty body when it is addressed (R177). -/
def Obligations.QuietAndResumeSetTheFlag : Prop :=
  ∀ (addr : Byte) (s : State), TakesAny s addr →
    exec (.quiet addr []) s =
      .next
        { s.received addr 0x60 [] with
          link := { (s.received addr 0x60 []).link with quiet := true, owed := none }
          prog := { s.prog with queue := s.prog.queue.map fun w => { w with replies := false } } } ∧
    exec (.resume addr []) s =
      .next
        (State.answered { s.received addr 0x61 [] with link := { (s.received addr 0x61 []).link with quiet := false } } addr
          0x61 [])

/-- While the quiet flag is yes no reply is owed and none waits on a store write, whatever is commanded (R177). -/
def Obligations.StepKeepsQuietOwesNothing : Prop :=
  ∀ s t : State, QuietOwesNothing s → step s = .next t → QuietOwesNothing t

/-- RESTART, addressed or broadcast, puts every block's runtime state at its RESTART value and keeps P, the direction, the
speed history, the input levels, the records in force, the store, the switches and the quiet flag; a reply owed is not sent,
and an addressed RESTART is answered with an empty body (R34, R75, R127, R143, R148, R166, R179, R180). That the other fields
of a FREE lot slot are 0 is the model's choice (log 22), and so is the list of events due, which is emptied (log 2); that an
expiry held back is dropped with its record is inferred (log 15). -/
def Obligations.RestartResetsEveryBlock : Prop :=
  ∀ (addr : Byte) (s : State), TakesAny s addr →
    ∃ t, exec (.restart addr []) s = .next t ∧
      t.stations = Vector.replicate 4 Station.initial ∧
      t.seq = { feed := .off, tails := Vector.replicate 4 none, scanStart := 0, mark := s.line.p } ∧
      t.track = TrackStore.initial ∧ t.sched = { slots := [], out := Outputs.allOff, held := Vector.replicate 6 false } ∧
      t.lot = { lots := Vector.replicate 8 Lot.free, bins := Vector.replicate 6 none } ∧
      t.log = { entries := [], counter := 0, order := [], dropped := false } ∧
      t.latch = { latched := false, first := none, seen := 0#7 } ∧
      (∀ e : Eye, (t.eye e).dark = (s.eye e).dark ∧ (t.eye e).darkTravel = 0 ∧
        (t.eye e).state =
          (if eyeEnabled s.prog.settings.lanes e = true ∧ (s.eye e).dark = true then
            (if s.line.dir = .forward then .pending else .dropped) else .light) ∧
        ((t.eye e).state = .pending → (t.eye e).cLead = s.line.p)) ∧
      t.prog =
        { s.prog with
          staged := Vector.replicate 32 none, inFlight := Vector.replicate 32 0,
          queue := s.prog.queue.map fun w => { w with replies := false } } ∧
      t.line = s.line ∧ t.inputs = s.inputs ∧ t.powered = s.powered ∧ t.due = [] ∧ t.heldExpiry = [] ∧
      t.link =
        { s.link with
          rx := .skipping, buffer := frameBytes addr 0x62 [],
          owed := if addr = 0 ∨ s.link.quiet = true then none
            else some { code := 0x62, body := [], awaitsStore := false } }

/-! ### Requests to the stations and the feed -/

/-- FEED, addressed or broadcast, by its body byte and the feed state (R36): on is refused with WRONG_STATE while ESTOP is
active or KEY is at SETUP, and otherwise takes OFF to HELD, PAUSE or RUN with an examination, and leaves every other feed
state; off makes the feed state OFF; any other byte is refused with BAD_VALUE. The reply carries the feed state after the
request and the blocking condition. -/
def Obligations.FeedActsByTheFeedState : Prop :=
  ∀ (addr : Byte) (s : State), TakesAny s addr →
    (s.inputs.estop = true ∨ s.inputs.key = .setup →
      exec (.feedOn addr [1]) s = .next (s.turnedAway addr 0x10 [1] .wrongState)) ∧
    (s.inputs.estop = false → s.inputs.key = .run →
      (s.seq.feed ≠ .off →
        exec (.feedOn addr [1]) s =
          .next (s.told addr 0x10 [1] [feedCode s.seq.feed, blockingCode (blocking s)])) ∧
      (s.seq.feed = .off → faultHolds s = true →
        exec (.feedOn addr [1]) s =
          .next (((s.received addr 0x10 [1]).setFeed .held).answered addr 0x10 [3, blockingCode (blocking s)])) ∧
      (s.seq.feed = .off → faultHolds s = false → runConditions s = false →
        exec (.feedOn addr [1]) s =
          .next (((s.received addr 0x10 [1]).setFeed .pause).answered addr 0x10 [2, blockingCode (blocking s)])) ∧
      (s.seq.feed = .off → faultHolds s = false → runConditions s = true →
        exec (.feedOn addr [1]) s =
          .next ((examine ((s.received addr 0x10 [1]).setFeed .run)).answered addr 0x10 [1, 0]))) ∧
    exec (.feedOff addr [0]) s =
      .next (((s.received addr 0x10 [0]).setFeed .off).answered addr 0x10 [0, blockingCode (blocking s)]) ∧
    ∀ v : Byte, v ≠ 0 → v ≠ 1 → exec (.feedOn addr [v]) s = .next (s.turnedAway addr 0x10 [v] .badValue)

/-- ASSIGN with the checks of R26 in their order, and the effect of R27 by the station's state: at once on an IDLE or DISABLED
station, with the reply APPLIED, and as the next assignment of a LOADED or RELEASING one, with the reply DEFERRED; a lot id of
0 clears. That a lot id stands in one slot alone is a premise, which AccountsRight states. -/
def Obligations.AssignActsByTheStationState : Prop :=
  ∀ (addr st pr lo hi : Byte) (s : State), Takes s addr →
    (∀ i j : LotSlot, s.lot.lots[i].state ≠ .free → s.lot.lots[j].state ≠ .free → s.lot.lots[i].id = s.lot.lots[j].id → i = j) →
    ((st.toNat = 0 ∨ 4 < st.toNat) →
      exec (.assign addr [st, pr, lo, hi]) s = .next (s.turnedAway addr 0x11 [st, pr, lo, hi] .badIndex)) ∧
    ∀ k : StationIx, st.toNat = k.val + 1 →
      (lo = 0 → hi = 0 →
        exec (.assign addr [st, pr, lo, hi]) s =
          .next
            (((s.received addr 0x11 [st, pr, lo, hi]).modStation k fun x =>
                if x.state = .idle ∨ x.state = .disabled then { x with current := none, next := .absent }
                else { x with next := .clear }).answered
              addr 0x11 [if s.stations[k].state = .idle ∨ s.stations[k].state = .disabled then 1 else 2])) ∧
      (¬(lo = 0 ∧ hi = 0) →
        (32 ≤ pr.toNat ∨ (∀ i : LotSlot, s.lot.lots[i].state = .free ∨ s.lot.lots[i].id ≠ lo.toNat + 256 * hi.toNat) →
          exec (.assign addr [st, pr, lo, hi]) s = .next (s.turnedAway addr 0x11 [st, pr, lo, hi] .badIndex)) ∧
        ∀ (ix : ProgramIx) (i : LotSlot), pr.toNat = ix.val → s.lot.lots[i].id = lo.toNat + 256 * hi.toNat →
          (s.lot.lots[i].state = .closing →
            exec (.assign addr [st, pr, lo, hi]) s = .next (s.turnedAway addr 0x11 [st, pr, lo, hi] .wrongState)) ∧
          (s.lot.lots[i].state = .opened →
            exec (.assign addr [st, pr, lo, hi]) s =
              .next
                (((s.received addr 0x11 [st, pr, lo, hi]).modStation k fun x =>
                    if x.state = .idle ∨ x.state = .disabled then
                      { x with current := some { program := ix, lotId := lo.toNat + 256 * hi.toNat }, next := .absent }
                    else { x with next := .pair { program := ix, lotId := lo.toNat + 256 * hi.toNat } }).answered
                  addr 0x11 [if s.stations[k].state = .idle ∨ s.stations[k].state = .disabled then 1 else 2])))

/-- STATION ENABLE: a station outside 1..4 is refused with BAD_INDEX and an action outside DISABLE, ENABLE and CLEAR with
BAD_VALUE (R29; that the station is checked first is the model's choice, log 19). DISABLE (R30) and ENABLE (R31) act by the
station's state; a DISABLED station with a snapshot becomes LOADED and the stations are examined (R45). The reply carries the
station's state after the request. -/
def Obligations.StationEnableActsByTheStationState : Prop :=
  ∀ (addr st : Byte) (s : State), Takes s addr →
    (∀ act : Byte, 2 < act.toNat →
      exec (.stationEnableDisable addr [st, act]) s =
        .next (s.turnedAway addr 0x12 [st, act] (if 1 ≤ st.toNat ∧ st.toNat ≤ 4 then .badValue else .badIndex))) ∧
    (st.toNat = 0 ∨ 4 < st.toNat →
      exec (.stationEnableDisable addr [st, 0]) s = .next (s.turnedAway addr 0x12 [st, 0] .badIndex) ∧
      exec (.stationEnableEnable addr [st, 1]) s = .next (s.turnedAway addr 0x12 [st, 1] .badIndex) ∧
      exec (.stationEnableClear addr [st, 2]) s = .next (s.turnedAway addr 0x12 [st, 2] .badIndex)) ∧
    ∀ k : StationIx, st.toNat = k.val + 1 →
      (exec (.stationEnableDisable addr [st, 0]) s =
        .next
          (match s.stations[k].state with
            | .idle =>
              ((s.received addr 0x12 [st, 0]).modStation k fun x => { x with state := .disabled, snapshot := none }).answered
                addr 0x12 [0]
            | .loaded =>
              ((s.received addr 0x12 [st, 0]).modStation k fun x => { x with state := .disabled }).answered addr 0x12 [0]
            | .releasing =>
              ((s.received addr 0x12 [st, 0]).modStation k fun x => { x with disablePending := true }).answered addr 0x12 [3]
            | .disabled => s.told addr 0x12 [st, 0] [0])) ∧
      exec (.stationEnableEnable addr [st, 1]) s =
        .next
          (match s.stations[k].state with
            | .disabled =>
              if s.stations[k].snapshot.isSome then
                let t := examine ((s.received addr 0x12 [st, 1]).modStation k fun x => { x with state := .loaded })
                t.answered addr 0x12 [stationCode t.stations[k].state]
              else ((s.received addr 0x12 [st, 1]).modStation k fun x => { x with state := .idle }).answered addr 0x12 [1]
            | .releasing =>
              ((s.received addr 0x12 [st, 1]).modStation k fun x => { x with disablePending := false }).answered addr 0x12 [3]
            | .idle => s.told addr 0x12 [st, 1] [1]
            | .loaded => s.told addr 0x12 [st, 1] [2])

/-- The CLEAR action: in DISABLED a snapshot is removed and the next assignment then takes effect, without a snapshot nothing
changes, and in every other state it is refused with WRONG_STATE (R32). -/
def Obligations.ClearRemovesTheSnapshotOfADisabledStation : Prop :=
  ∀ (addr st : Byte) (k : StationIx) (s : State), Takes s addr → st.toNat = k.val + 1 →
    (s.stations[k].state ≠ .disabled →
      exec (.stationEnableClear addr [st, 2]) s = .next (s.turnedAway addr 0x12 [st, 2] .wrongState)) ∧
    (s.stations[k].state = .disabled → s.stations[k].snapshot = none →
      exec (.stationEnableClear addr [st, 2]) s = .next (s.told addr 0x12 [st, 2] [0])) ∧
    (s.stations[k].state = .disabled → s.stations[k].snapshot ≠ none →
      exec (.stationEnableClear addr [st, 2]) s =
        .next
          (((s.received addr 0x12 [st, 2]).modStation k fun x =>
              match x.next with
              | .absent => { x with snapshot := none }
              | .pair a => { x with snapshot := none, current := some a, next := .absent }
              | .clear => { x with snapshot := none, current := none, next := .absent }).answered
            addr 0x12 [0]))

/-! ### Requests that only read -/

/-- STATION READ, LOT READ, PROGRAM READ, LINE SETTINGS READ, PIECE READ, LOG PEEK and STATUS answer with their reply body and
change nothing but the link, in every feed state, with the KEY in either position and with ESTOP active or not (R33, R72, R141,
R150, R154, R161, R165). A read of a station, a program, a lot or a piece that names nothing is refused with BAD_INDEX, and a
LOG PEEK of a number outside 1..8 with BAD_VALUE (R33, R72, R141, R150, R161). -/
def Obligations.ReadRequestsReplyAndChangeNothing : Prop :=
  ∀ (addr : Byte) (s : State), Takes s addr →
    (∀ (b : Byte) (k : StationIx), b.toNat = k.val + 1 →
      exec (.stationRead addr [b]) s = .next (s.told addr 0x13 [b] (stationBytes s k))) ∧
    (∀ (lo hi : Byte) (i : LotSlot), s.lot.lots[i].state ≠ .free → s.lot.lots[i].id = lo.toNat + 256 * hi.toNat →
      (∀ j : LotSlot, j < i → s.lot.lots[j].state = .free ∨ s.lot.lots[j].id ≠ lo.toNat + 256 * hi.toNat) →
      exec (.lotRead addr [lo, hi]) s = .next (s.told addr 0x22 [lo, hi] (lotBytes i s.lot.lots[i]))) ∧
    (∀ (b : Byte) (ix : ProgramIx), b.toNat = ix.val →
      exec (.programRead addr [b]) s = .next (s.told addr 0x31 [b] (programReadBytes s ix))) ∧
    exec (.lineSettingsRead addr []) s =
      .next (s.told addr 0x33 [] (settingsBytes s.prog.settings ++ [if s.prog.valid then 1 else 0])) ∧
    (∀ (lo hi : Byte) (r : Piece), s.piece? (lo.toNat + 256 * hi.toNat) = some r →
      exec (.pieceRead addr [lo, hi]) s = .next (s.told addr 0x40 [lo, hi] (pieceBytes s r))) ∧
    (∀ n : Byte, 1 ≤ n.toNat → n.toNat ≤ 8 →
      exec (.logPeek addr [n]) s =
        .next
          (s.told addr 0x50 [n]
            ([BitVec.ofNat 8 s.log.entries.length, if s.log.dropped then 1 else 0] ++
              (s.log.entries.take n.toNat).flatMap entryBytes))) ∧
    exec (.status addr []) s = .next (s.told addr 0x53 [] (statusBytes s)) ∧
    (∀ b : Byte, b.toNat = 0 ∨ 4 < b.toNat →
      exec (.stationRead addr [b]) s = .next (s.turnedAway addr 0x13 [b] .badIndex)) ∧
    (∀ lo hi : Byte, (∀ i : LotSlot, s.lot.lots[i].state = .free ∨ s.lot.lots[i].id ≠ lo.toNat + 256 * hi.toNat) →
      exec (.lotRead addr [lo, hi]) s = .next (s.turnedAway addr 0x22 [lo, hi] .badIndex)) ∧
    (∀ b : Byte, 32 ≤ b.toNat → exec (.programRead addr [b]) s = .next (s.turnedAway addr 0x31 [b] .badIndex)) ∧
    (∀ lo hi : Byte, (∀ r ∈ s.track.pool, r.tag ≠ lo.toNat + 256 * hi.toNat) →
      exec (.pieceRead addr [lo, hi]) s = .next (s.turnedAway addr 0x40 [lo, hi] .badIndex)) ∧
    ∀ n : Byte, n.toNat = 0 ∨ 8 < n.toNat → exec (.logPeek addr [n]) s = .next (s.turnedAway addr 0x50 [n] .badValue)

/-- The values of the reasons of an error reply (R173) and of the enumerations of R176; and the layouts of R176, for every
state: the lengths of the reply bodies and of a log entry, and which field stands at which byte of the FEED, STATUS, STATION
READ, LOT READ, PIECE READ and PROGRAM READ replies and of a PIECE, LOT and NOTICE entry, absent fields being 0 (the program of
a piece 0xFF), numbers low byte first (R168). A PIECE entry carries the fields of R157 and a LOT entry those of R158, and a
station is starving while LOADED with a wait count of at least a starve_limit that is not 0 (R57). That the two bytes of an
entry length or exit length absent from a PIECE entry are 0 is the model's choice (log 34). What the program record bytes that
a write does not read carry is the model's choice (log 31), and so is that the flag bits to which no flag is assigned are 0:
bit 7 of the STATUS flags, bits 2 to 7 of byte 8 of PIECE READ, bits 4 to 7 of the flags of a PIECE entry; and that the bits of
a set which name no member are 0: bit 7 of the reasons seen, bits 4 to 7 of the lane sets (log 33). -/
def Obligations.ReplyBodiesHaveTheirLengths : Prop :=
  ([.unknownRequest, .badIndex, .badValue, .wrongState, .locked, .inUse, .noRoom, .badLength].map refuseCode =
      [1, 2, 3, 4, 5, 6, 7, 8] ∧
    [.off, .run, .pause, .held].map feedCode = [0, 1, 2, 3] ∧
    [.none, .estop, .key, .settings, .lineRun, .unsettled, .slow, .fault].map blockingCode = [0, 1, 2, 3, 4, 5, 6, 7] ∧
    [.disabled, .idle, .loaded, .releasing].map stationCode = [0, 1, 2, 3] ∧
    [.stacked, .returned, .rejected, .lost, .purged].map completionCode = [1, 2, 3, 4, 5] ∧
    [none, some .feed, some .iron, some .fold].map stageCode = [0, 1, 2, 3] ∧
    [none, some .joined, some .short, some .stray, some .lateFold, some .xfConflict, some .exitMismatch, some .slotFull,
        some .foldMissed].map rejectCode = [0, 1, 2, 3, 4, 5, 6, 7, 8] ∧
    [none, some .lost, some .strayStack, some .strayUntracked, some .encoder, some .eyeBlocked, some .noSlot,
        some .undiverted].map faultCode = [0, 1, 2, 3, 4, 5, 6, 7] ∧
    [.free, .opened, .closing].map lotCode = [0, 1, 2] ∧
    [.none, .feedState, .program, .lane, .lot, .bin, .pool, .laneGap, .lotGap, .starving].map waitCode =
      [0, 1, 2, 3, 4, 5, 6, 7, 8, 9] ∧
    (∀ a : Assignment, [.absent, .pair a, .clear].map nextCode = [0, 1, 2]) ∧
    [.released, .ironing, .folding, .dropping, .donePending].map pieceStateCode = [1, 2, 3, 4, 5] ∧
    [.fold1, .fold2, .cross, .reject, .drop].map actionCode = [1, 2, 3, 4, 5]) ∧
  (∀ (b : List Byte) (i n : Nat),
    rd8 b i = (b.getD i 0).toNat ∧ rd16 b i = rd8 b i + 256 * rd8 b (i + 1) ∧
      rd32 b i = rd8 b i + 256 * rd8 b (i + 1) + 65536 * rd8 b (i + 2) + 16777216 * rd8 b (i + 3) ∧
      (le16 n).length = 2 ∧ rd16 (le16 n) 0 = n % 65536) ∧
  (∀ (r : Piece) (c : Completion), pieceEntry r c =
    { tag := r.tag, kind := r.kind, lotId := r.lot.map fun l => l.id, program := r.program, station := r.station,
      completion := c, reason := r.reason, undiverted := r.undiverted, entryLength := r.entryLength,
      exitLength := r.exitLength, bin := r.bin }) ∧
  (∀ l : Lot, lotEntry l =
    { lotId := l.id, released := l.released, stacked := l.stacked, returned := l.returned, rejected := l.rejected,
      lost := l.lost, purged := l.purged, inFlight := l.inFlight }) ∧
  ∀ s : State,
    ((statusBytes s).length = 19 ∧ (∀ k, (stationBytes s k).length = 17) ∧ (∀ i, (lotBytes i s.lot.lots[i]).length = 26) ∧
      (∀ r, (pieceBytes s r).length = 59) ∧ (∀ ix, (programReadBytes s ix).length = 38) ∧
      (settingsBytes s.prog.settings).length = 83 ∧ feedBytes s = [feedCode s.seq.feed, blockingCode (blocking s)] ∧
      ∀ e, (entryBytes e).length = 24) ∧
    (
      let b := statusBytes s
      b[0]? = some (feedCode s.seq.feed) ∧ b[1]? = some (blockingCode (blocking s)) ∧ rd32 b 2 = s.line.p.toNat ∧
      rd16 b 6 =
        (BitVec.ofInt 16
          (max (-32768)
            (min 32767 ((25 : Int) * (s.line.hist[0] + s.line.hist[1] + s.line.hist[2] + s.line.hist[3]))))).toNat ∧
      (∀ f, b[8]? = some f →
        f.getLsbD 0 = decide (s.line.fullWindows = 4) ∧ f.getLsbD 1 = s.log.dropped ∧ f.getLsbD 2 = s.latch.latched ∧
          f.getLsbD 3 = !s.prog.valid ∧ f.getLsbD 4 = decide (s.inputs.key = .run) ∧ f.getLsbD 5 = s.inputs.estop ∧
          f.getLsbD 6 = s.inputs.lineRun ∧ f.getLsbD 7 = false) ∧
      rd8 b 9 = s.track.pool.length % 256 ∧ rd8 b 10 = s.sched.slots.length % 256 ∧
      rd8 b 11 = s.log.entries.length % 256 ∧ rd8 b 12 = s.log.order.length % 256 ∧
      b[13]? = some (faultCode s.latch.first) ∧ b[14]? = some (s.latch.seen.setWidth 8) ∧
      ∀ k : StationIx, b[15 + k.val]? = some (stationCode s.stations[k].state)) ∧
    (∀ k : StationIx,
      let b := stationBytes s k
      let x := s.stations[k]
      let next : Option Assignment :=
        match x.next with
        | .pair a => some a
        | _ => none
      let pair (i : Nat) (a : Option Assignment) : Prop :=
        rd8 b i = (a.elim 0 fun a => a.program.val) ∧ rd16 b (i + 1) = (a.elim 0 fun a => a.lotId) % 65536
      b[0]? = some (stationCode x.state) ∧ rd8 b 1 = x.disablePending.toNat ∧ rd8 b 2 = x.current.isSome.toNat ∧
        pair 3 x.current ∧ b[6]? = some (nextCode x.next) ∧ pair 7 next ∧ rd8 b 10 = x.snapshot.isSome.toNat ∧
        pair 11 x.snapshot ∧ rd8 b 14 = x.waitCount % 256 ∧ b[15]? = some (waitCode x.waitReason) ∧
        rd8 b 16 =
          (decide (x.state = .loaded ∧ 0 < s.prog.settings.starveLimit ∧
            s.prog.settings.starveLimit ≤ x.waitCount)).toNat) ∧
    (∀ i : LotSlot,
      let x := s.lot.lots[i]
      let b := lotBytes i x
      rd8 b 0 = i.val + 1 ∧ b[1]? = some (lotCode x.state) ∧ rd16 b 2 = x.id % 65536 ∧ rd8 b 4 = x.stackSize % 256 ∧
        rd8 b 5 = (x.bin.elim 0 fun d => d.val + 1) ∧ rd32 b 6 = x.lastUse.toNat ∧ rd16 b 10 = x.released % 65536 ∧
        rd16 b 12 = x.stacked % 65536 ∧ rd16 b 14 = x.returned % 65536 ∧ rd16 b 16 = x.rejected % 65536 ∧
        rd16 b 18 = x.lost % 65536 ∧ rd16 b 20 = x.purged % 65536 ∧ rd16 b 22 = x.inFlight % 65536 ∧
        rd8 b 24 = x.stackCount % 256 ∧ rd8 b 25 = x.summaryPending.toNat) ∧
    (∀ r : Piece,
      let b := pieceBytes s r
      let at0 (q : Option Pos) : Nat := (q.getD 0#32).toNat
      rd16 b 0 = r.tag % 65536 ∧ rd32 b 2 = r.take.toNat ∧ b[6]? = some (pieceStateCode r.state) ∧
        (∀ f, b[7]? = some f →
          f.getLsbD 0 = decide (r.kind = .stray) ∧ f.getLsbD 1 = r.undiverted ∧ f.getLsbD 2 = decide (r.route = .back) ∧
            f.getLsbD 3 = r.entryLead.isSome ∧ f.getLsbD 4 = r.entryLength.isSome ∧ f.getLsbD 5 = r.lEst.isSome ∧
            f.getLsbD 6 = r.exitLead.isSome ∧ f.getLsbD 7 = r.exitLength.isSome) ∧
        (∀ f, b[8]? = some f →
          f.getLsbD 0 = r.stackerLead.isSome ∧ f.getLsbD 1 = r.completion.isSome ∧ ∀ n, 2 ≤ n → f.getLsbD n = false) ∧
        rd8 b 9 = (r.station.elim 0 fun k => k.val + 1) ∧ rd8 b 10 = (r.program.elim 255 fun ix => ix.val) ∧
        rd8 b 11 = (r.lot.elim 0 fun l => l.slot.val + 1) ∧ rd16 b 12 = (r.lot.elim 0 fun l => l.id) % 65536 ∧
        [14, 15, 16, 17, 18].map (rd8 b) =
          [r.footprint, r.entrySeen, r.entryEnded, r.exitSeen, r.exitEnded].map BitVec.toNat ∧
        rd32 b 19 = at0 r.grantPos ∧ rd32 b 23 = at0 r.ePred ∧ rd32 b 27 = at0 r.entryLead ∧
        rd16 b 31 = r.entryLength.getD 0 % 65536 ∧ rd16 b 33 = r.lEst.getD 0 % 65536 ∧ rd32 b 35 = at0 r.exitLead ∧
        rd16 b 39 = r.exitLength.getD 0 % 65536 ∧ rd32 b 41 = at0 r.stackerLead ∧
        rd8 b 45 = (r.bin.elim 0 fun d => d.val + 1) ∧ b[46]? = some (rejectCode r.reason) ∧
        b[47]? = some (r.completion.elim 0 fun c => completionCode c.kind) ∧
        b[48]? = some (stageCode (r.completion.bind fun c => c.stage)) ∧
        rd32 b 49 = at0 (r.completion.map fun c => c.pos) ∧ rd8 b 53 = r.actions.length % 256 ∧
        ∀ n : Nat, n < 5 → b[54 + n]? =
          some (match r.actions[n]? with
            | some pl => ((s.sched.slots.find? fun y => y.place == pl).elim 0 fun y => actionCode y.action)
            | none => 0)) ∧
    (∀ ix : ProgramIx,
      let b := programReadBytes s ix
      b.take 18 = programBytes s.prog.programs[ix] ∧ rd8 b 18 = s.prog.inFlight[ix] % 256 ∧
        rd8 b 19 = s.prog.staged[ix].isSome.toNat ∧
        b.drop 20 = (s.prog.staged[ix].elim (List.replicate 18 0) programBytes)) ∧
    (∀ (n : Nat) (x : PieceEntry),
      let b := entryBytes { number := n, body := .piece x }
      rd8 b 0 = 1 ∧ rd16 b 1 = n % 65536 ∧ rd16 b 3 = x.tag % 65536 ∧
        (∀ f, b[5]? = some f →
          f.getLsbD 0 = decide (x.kind = .stray) ∧ f.getLsbD 1 = x.undiverted ∧ f.getLsbD 2 = x.entryLength.isSome ∧
            f.getLsbD 3 = x.exitLength.isSome ∧ ∀ i, 4 ≤ i → f.getLsbD i = false) ∧
        rd16 b 6 = x.lotId.getD 0 % 65536 ∧ rd8 b 8 = (x.program.elim 255 fun ix => ix.val) ∧
        rd8 b 9 = (x.station.elim 0 fun k => k.val + 1) ∧ b[10]? = some (completionCode x.completion.kind) ∧
        b[11]? = some (stageCode x.completion.stage) ∧ b[12]? = some (rejectCode x.reason) ∧
        rd8 b 13 = (x.bin.elim 0 fun d => d.val + 1) ∧ rd16 b 14 = x.entryLength.getD 0 % 65536 ∧
        rd16 b 16 = x.exitLength.getD 0 % 65536 ∧ rd32 b 18 = x.completion.pos.toNat ∧ b.drop 22 = [0, 0]) ∧
    (∀ (n : Nat) (x : LotEntry),
      let b := entryBytes { number := n, body := .lot x }
      rd8 b 0 = 2 ∧ [1, 3, 5, 7, 9, 11, 13, 15, 17].map (rd16 b) =
          [n, x.lotId, x.released, x.stacked, x.returned, x.rejected, x.lost, x.purged, x.inFlight].map (· % 65536) ∧
        b.drop 19 = [0, 0, 0, 0, 0]) ∧
    ∀ (n code : Nat) (q : Pos),
      let b := entryBytes { number := n, body := .notice code q }
      rd8 b 0 = 3 ∧ rd16 b 1 = n % 65536 ∧ rd8 b 3 = code % 256 ∧ rd32 b 4 = q.toNat ∧ b.drop 8 = List.replicate 16 0

/-- What a host reads back is what it wrote: a program record in the layout of R176 and a line settings record in that of R171
are read as the record they were made from, if it passes its checks (R145, R152). The places of the bytes, the checks and the
defaults are named: a program record is read as EMPTY exactly when byte 0 is 0, and as a VALID record exactly when byte 0 is 1,
each field stands at its byte and the checks of R145 hold; the line settings record of 83 bytes exactly when each field stands
at its byte and the ranges of R151, with the order of R152, hold. The factory defaults are those of R151. That a lane enable
byte above 15 is refused, by byte 0 being equal to the lane set, is inferred (log 24). -/
def Obligations.StoredRecordsReadBackAsWritten : Prop :=
  (∀ (p : Program) (ix : Byte), programPasses p = true → readProgram (ix :: programBytes p) 1 = some p) ∧
  (∀ c : LineSettings, c.passes = true → readSettings (settingsBytes c) = some c) ∧
  (∀ r : ProgramRec, programPasses (some r) = true ↔
    (200 ≤ r.nominal ∧ r.nominal ≤ 6000) ∧ (r.minLength ≤ r.nominal ∧ r.nominal ≤ r.maxLength ∧ r.maxLength ≤ 16383) ∧
      (50 ≤ r.gapMin ∧ r.gapMin ≤ 3000) ∧ (900 ≤ r.shrink ∧ r.shrink ≤ 1100) ∧ r.refineWindow ≤ 500 ∧
      r.folds.length ≤ 2 ∧ (∀ f ∈ r.folds, 1 ≤ f ∧ f ≤ 255) ∧ (∀ f g, r.folds = [f, g] → f < g) ∧
      (r.fold = false → r.folds = [] ∧ r.cross = false)) ∧
  (∀ (ix : Byte) (b : List Byte), b.length = 18 →
    (readProgram (ix :: b) 1 = some none ↔ rd8 b 0 = 0) ∧
    ∀ r : ProgramRec, readProgram (ix :: b) 1 = some (some r) ↔
      rd8 b 0 = 1 ∧
        rd8 b 1 =
          (match r.width with
            | .single => 1
            | .double => 2
            | .full => 3) ∧
        [2, 4, 6, 8, 10, 16].map (rd16 b) = [r.nominal, r.minLength, r.maxLength, r.gapMin, r.shrink, r.refineWindow] ∧
        rd8 b 12 = r.folds.length ∧ r.folds = [rd8 b 13, rd8 b 14].take (rd8 b 12) ∧
        [0, 1, 2].map (rd8 b 15).testBit = [r.fold, r.cross, r.stack] ∧ programPasses (some r) = true) ∧
  (∀ c : LineSettings, c.passes = true ↔
    c.lanes ≠ 0#4 ∧ (∀ k : StationIx, c.dStation[k] ≤ 4000) ∧ (1000 ≤ c.lIron ∧ c.lIron ≤ 30000) ∧
      (∀ d ∈ [c.dPf, c.dRj, c.dXf, c.dStk], 100 ≤ d ∧ d ≤ 20000) ∧ (c.dPf ≤ c.dRj ∧ c.dRj < c.dXf ∧ c.dXf < c.dStk) ∧
      (∀ b : Bin, 100 ≤ c.dBin[b] ∧ c.dBin[b] ≤ 3000) ∧
      (∀ x ∈ [c.tolEntryEarly, c.tolEntryLate, c.tolExitEarly, c.tolExitLate, c.tolStkEarly, c.tolStkLate], x ≤ 2000) ∧
      (∀ x ∈ [c.tRel, c.tPf, c.tXf, c.tRj, c.tBin], x ≤ 250) ∧
      (∀ x ∈ [c.wRel, c.wPf, c.wXf, c.wRj, c.wBin, c.wSr], 5 ≤ x ∧ x ≤ 500) ∧ c.leadMax ≤ 1000 ∧
      (16 ≤ c.arming ∧ c.arming ≤ 1000) ∧ (100 ≤ c.xfCycle ∧ c.xfCycle ≤ 3000) ∧ (1 ≤ c.eyeMin ∧ c.eyeMin ≤ 50) ∧
      (1000 ≤ c.eyeBlock ∧ c.eyeBlock ≤ 30000) ∧ (50 ≤ c.speedMin ∧ c.speedMin ≤ 2000) ∧
      (50 ≤ c.speedNominal ∧ c.speedNominal ≤ 5000) ∧ c.lotGap ≤ 5000 ∧ (1 ≤ c.binsEnabled ∧ c.binsEnabled ≤ 6) ∧
      c.idleDistance ≤ 2000000 ∧ c.starveLimit ≤ 15) ∧
  (∀ (b : List Byte) (c : LineSettings), b.length = 83 →
    (readSettings b = some c ↔
      rd8 b 0 = c.lanes.toNat ∧ (∀ k : StationIx, rd16 b (1 + 2 * k.val) = c.dStation[k]) ∧
        [9, 11, 13, 15, 17].map (rd16 b) = [c.lIron, c.dPf, c.dRj, c.dXf, c.dStk] ∧
        (∀ d : Bin, rd16 b (19 + 2 * d.val) = c.dBin[d]) ∧
        [31, 33, 35, 37, 39, 41].map (rd16 b) =
          [c.tolEntryEarly, c.tolEntryLate, c.tolExitEarly, c.tolExitLate, c.tolStkEarly, c.tolStkLate] ∧
        [43, 44, 45, 46, 47].map (rd8 b) = [c.tRel, c.tPf, c.tXf, c.tRj, c.tBin] ∧
        [48, 50, 52, 54, 56, 58].map (rd16 b) = [c.wRel, c.wPf, c.wXf, c.wRj, c.wBin, c.wSr] ∧
        [60, 62, 64].map (rd16 b) = [c.leadMax, c.arming, c.xfCycle] ∧ rd8 b 66 = c.eyeMin ∧
        [67, 69, 71, 73].map (rd16 b) = [c.eyeBlock, c.speedMin, c.speedNominal, c.lotGap] ∧ rd8 b 75 = c.binsEnabled ∧
        rd32 b 76 = c.idleDistance ∧
        rd8 b 80 =
          (match c.faultMode with
            | .hold => 0
            | .carryOn => 1) ∧
        rd8 b 81 =
          (match c.rotation with
            | .sequential => 0
            | .crossed => 1) ∧
        rd8 b 82 = c.starveLimit ∧ c.passes = true)) ∧
  let c := factoryDefaults
  (c.lanes, c.dStation.toList, c.dBin.toList) =
      (0b1111#4, [2350, 2400, 2450, 2500], [600, 900, 1200, 1500, 1800, 2100]) ∧
    [c.lIron, c.dPf, c.dRj, c.dXf, c.dStk] = [9600, 1800, 3000, 4200, 5400] ∧
    [c.tolEntryEarly, c.tolEntryLate, c.tolExitEarly, c.tolExitLate, c.tolStkEarly, c.tolStkLate] =
      [150, 150, 200, 200, 250, 250] ∧
    [c.tRel, c.tPf, c.tXf, c.tRj, c.tBin] = [80, 60, 90, 40, 50] ∧
    [c.wRel, c.wPf, c.wXf, c.wRj, c.wBin, c.wSr] = [120, 80, 150, 250, 200, 300] ∧
    [c.leadMax, c.arming, c.xfCycle, c.eyeMin, c.eyeBlock, c.speedMin, c.speedNominal, c.lotGap, c.binsEnabled,
        c.idleDistance, c.starveLimit] = [400, 64, 300, 6, 8000, 150, 600, 600, 6, 0, 3] ∧
    c.faultMode = .hold ∧ c.rotation = .sequential

/-! ### Requests on lots -/

/-- LOT OPEN with the checks of R131 in their order; accepted, the lowest-numbered FREE slot becomes OPEN with the lot id and
the stack size, its bin absent, its counts 0 and its last use at P, and the reply carries the slot number. On broadcast it is
ignored. -/
def Obligations.LotOpenTakesTheLowestFreeSlot : Prop :=
  (∀ (lo hi size : Byte) (s : State), Hears s →
    exec (.lotOpen 0 [lo, hi, size]) s = .next (s.received 0 0x20 [lo, hi, size])) ∧
  ∀ (addr lo hi size : Byte) (s : State), Takes s addr →
    (lo = 0 ∧ hi = 0 ∨ size.toNat = 0 ∨ 50 < size.toNat →
      exec (.lotOpen addr [lo, hi, size]) s = .next (s.turnedAway addr 0x20 [lo, hi, size] .badValue)) ∧
    (¬(lo = 0 ∧ hi = 0) → 1 ≤ size.toNat → size.toNat ≤ 50 →
      ((∃ i : LotSlot, s.lot.lots[i].state ≠ .free ∧ s.lot.lots[i].id = lo.toNat + 256 * hi.toNat) →
        exec (.lotOpen addr [lo, hi, size]) s = .next (s.turnedAway addr 0x20 [lo, hi, size] .inUse)) ∧
      ((∀ i : LotSlot, s.lot.lots[i].state = .free ∨ s.lot.lots[i].id ≠ lo.toNat + 256 * hi.toNat) →
        ((∀ i : LotSlot, s.lot.lots[i].state ≠ .free) →
          exec (.lotOpen addr [lo, hi, size]) s = .next (s.turnedAway addr 0x20 [lo, hi, size] .noRoom)) ∧
        ∀ i : LotSlot, s.lot.lots[i].state = .free → (∀ j : LotSlot, j < i → s.lot.lots[j].state ≠ .free) →
          exec (.lotOpen addr [lo, hi, size]) s =
            .next
              (((s.received addr 0x20 [lo, hi, size]).modLot i fun _ =>
                  { state := .opened, id := lo.toNat + 256 * hi.toNat, stackSize := size.toNat, bin := none,
                    lastUse := s.line.p, released := 0, stacked := 0, returned := 0, rejected := 0, lost := 0, purged := 0,
                    inFlight := 0, stackCount := 0, summaryPending := false }).answered
                addr 0x20 [BitVec.ofNat 8 (i.val + 1)])))

/-- LOT CLOSE (R139, R140): refused with BAD_INDEX for an id that no lot in OPEN or CLOSING holds; a CLOSING lot is left; an
OPEN lot becomes CLOSING, and with nothing in flight its close ends: unbound with an examination if it was bound, and then its
summary written and its slot freed if the log has room and nothing waits, or pending at the back of the order. The reply
carries the lot's state and in_flight after the request. That a lot id stands in one slot alone is a premise (AccountsRight).
That the other fields of the slot freed are then 0 is the model's choice (log 22). -/
def Obligations.LotCloseEndsWithTheLastPiece : Prop :=
  ∀ (addr lo hi : Byte) (s : State), Takes s addr →
    (∀ i j : LotSlot, s.lot.lots[i].state ≠ .free → s.lot.lots[j].state ≠ .free → s.lot.lots[i].id = s.lot.lots[j].id → i = j) →
    ((∀ i : LotSlot, s.lot.lots[i].state = .free ∨ s.lot.lots[i].id ≠ lo.toNat + 256 * hi.toNat) →
      exec (.lotClose addr [lo, hi]) s = .next (s.turnedAway addr 0x21 [lo, hi] .badIndex)) ∧
    ∀ i : LotSlot, s.lot.lots[i].id = lo.toNat + 256 * hi.toNat →
      (s.lot.lots[i].state = .closing →
        exec (.lotClose addr [lo, hi]) s = .next (s.told addr 0x21 [lo, hi] (2 :: le16 s.lot.lots[i].inFlight))) ∧
      (s.lot.lots[i].state = .opened → 0 < s.lot.lots[i].inFlight →
        exec (.lotClose addr [lo, hi]) s =
          .next
            (((s.received addr 0x21 [lo, hi]).modLot i fun l => { l with state := .closing }).answered addr 0x21
              (2 :: le16 s.lot.lots[i].inFlight))) ∧
      (s.lot.lots[i].state = .opened → s.lot.lots[i].inFlight = 0 →
        let c := (s.received addr 0x21 [lo, hi]).modLot i fun l => { l with state := .closing }
        let u :=
          match s.lot.lots[i].bin with
          | some b => examine (c.unbound i b)
          | none => c
        (s.log.entries.length < 32 → s.log.order = [] →
          exec (.lotClose addr [lo, hi]) s =
            .next
              (State.answered
                { u with
                  lot := { u.lot with lots := u.lot.lots.set i Lot.free }
                  log :=
                    { u.log with
                      entries := u.log.entries ++ [{ number := u.log.counter, body := .lot (lotEntry u.lot.lots[i]) }]
                      counter := if u.log.counter < 65535 then u.log.counter + 1 else 0 } }
                addr 0x21 [0, 0, 0])) ∧
        (¬(s.log.entries.length < 32 ∧ s.log.order = []) →
          exec (.lotClose addr [lo, hi]) s =
            .next
              (State.answered
                { u with
                  lot := { u.lot with lots := u.lot.lots.set i { u.lot.lots[i] with summaryPending := true } }
                  log := { u.log with order := u.log.order ++ [.lot i] } }
                addr 0x21 [2, 0, 0])))

/-! ### Requests on programs and line settings -/

/-- PROGRAM WRITE with the checks of R146 in their order: LOCKED at KEY RUN, BAD_INDEX, BAD_VALUE; accepted, it is staged while
the program has pieces in flight, with the reply STAGED, and otherwise applied at once: in force, its store write asked for,
the stations examined, and the reply APPLIED owed at the end of the store write (R147, R155, R175). -/
def Obligations.ProgramWriteAppliesOrStages : Prop :=
  ∀ (addr ixb : Byte) (rec : List Byte) (s : State), Takes s addr → rec.length = 18 →
    (s.inputs.key = .run →
      exec (.programWrite addr (ixb :: rec)) s = .next (s.turnedAway addr 0x30 (ixb :: rec) .locked)) ∧
    (s.inputs.key = .setup →
      (32 ≤ ixb.toNat → exec (.programWrite addr (ixb :: rec)) s = .next (s.turnedAway addr 0x30 (ixb :: rec) .badIndex)) ∧
      ∀ ix : ProgramIx, ixb.toNat = ix.val →
        (readProgram (ixb :: rec) 1 = none →
          exec (.programWrite addr (ixb :: rec)) s = .next (s.turnedAway addr 0x30 (ixb :: rec) .badValue)) ∧
        ∀ p : Program, readProgram (ixb :: rec) 1 = some p →
          (0 < s.prog.inFlight[ix] →
            exec (.programWrite addr (ixb :: rec)) s =
              .next
                (State.answered
                  { s.received addr 0x30 (ixb :: rec) with
                    prog := { s.prog with staged := s.prog.staged.set ix (some p) } }
                  addr 0x30 [2])) ∧
          (s.prog.inFlight[ix] = 0 →
            let u :=
              examine
                { s.received addr 0x30 (ixb :: rec) with
                  prog :=
                    { s.prog with
                      programs := s.prog.programs.set ix p
                      queue := s.prog.queue ++ [{ record := .program ix p, replies := !s.link.quiet }] } }
            exec (.programWrite addr (ixb :: rec)) s =
              .next
                (if s.link.quiet then u
                else { u with link := { u.link with owed := some { code := 0x30, body := [1], awaitsStore := true } } })))

/-- LINE SETTINGS WRITE with the checks of R153 in their order: LOCKED at KEY RUN, WRONG_STATE with the feed on or a record in
use, BAD_VALUE; accepted, the record is in force and valid at once, its store write is asked for and its reply owed at the end
of that write; the eyes of lanes newly disabled go to LIGHT, those of lanes newly enabled take up their inputs, and the others
keep their states (R17). Without a lower bins_enabled nothing else changes. With one, every lot bound to a bin out of use is
unbound (R138, R142): its bin absent and its stack count 0, with a stack release if the count was above 0, merged into one
held, held under ESTOP or while the flap is open, and started otherwise with the new w_sr (R115, R153); then the stations are
examined, which with the feed OFF gives each LOADED one its reason. That lots and bins agree, and that a bound CLOSING lot has
a piece in flight, are premises, which AccountsRight states. -/
def Obligations.SettingsWritePutsARecordInForce : Prop :=
  ∀ (addr : Byte) (body : List Byte) (s : State), Takes s addr → body.length = 83 →
    (s.inputs.key = .run →
      exec (.lineSettingsWrite addr body) s = .next (s.turnedAway addr 0x32 body .locked)) ∧
    (s.inputs.key = .setup →
      (s.seq.feed ≠ .off ∨ s.track.pool ≠ [] →
        exec (.lineSettingsWrite addr body) s = .next (s.turnedAway addr 0x32 body .wrongState)) ∧
      (s.seq.feed = .off → s.track.pool = [] →
        (readSettings body = none →
          exec (.lineSettingsWrite addr body) s = .next (s.turnedAway addr 0x32 body .badValue)) ∧
        ∀ c : LineSettings, readSettings body = some c →
          ∃ t, exec (.lineSettingsWrite addr body) s = .next t ∧
            t.prog =
              { s.prog with
                settings := c, valid := true
                queue := s.prog.queue ++ [{ record := .settings c, replies := !s.link.quiet }] } ∧
            t.link =
              { (s.received addr 0x32 body).link with
                owed := if s.link.quiet then none else some { code := 0x32, body := [], awaitsStore := true } } ∧
            (∀ e : Eye, t.eye e =
              (if eyeEnabled s.prog.settings.lanes e = eyeEnabled c.lanes e then s.eye e
              else if eyeEnabled c.lanes e = true ∧ (s.eye e).dark = true then
                (if s.line.dir = .forward then { s.eye e with state := .pending, darkTravel := 0, cLead := s.line.p }
                else { s.eye e with state := .dropped, darkTravel := 0 })
              else { s.eye e with state := .light, darkTravel := 0 })) ∧
            t.line = s.line ∧ t.inputs = s.inputs ∧ t.track = s.track ∧ t.seq.feed = .off ∧ t.latch = s.latch ∧
            (s.prog.settings.binsEnabled ≤ c.binsEnabled →
              t = { (s.received addr 0x32 body) with eyes := t.eyes, prog := t.prog, link := t.link }) ∧
            (c.binsEnabled < s.prog.settings.binsEnabled →
              (∀ (i : LotSlot) (b : Bin), s.lot.lots[i].bin = some b ↔ s.lot.bins[b] = some i) →
                (∀ b : Bin, c.binsEnabled ≤ b.val → t.lot.bins[b] = none) ∧
                ((∀ i : LotSlot, s.lot.lots[i].state = .closing → s.lot.lots[i].bin.isSome → 0 < s.lot.lots[i].inFlight) →
                  let asked (b : Bin) : Prop :=
                    c.binsEnabled ≤ b.val ∧ ∃ i : LotSlot, s.lot.bins[b] = some i ∧ 0 < s.lot.lots[i].stackCount
                  let waits (b : Bin) : Prop := s.inputs.estop = true ∨ s.sched.out.bf[b].isSome
                  (∀ b : Bin, t.lot.bins[b] = if c.binsEnabled ≤ b.val then none else s.lot.bins[b]) ∧
                  (∀ i : LotSlot,
                    (∀ b : Bin, s.lot.lots[i].bin = some b → c.binsEnabled ≤ b.val →
                      t.lot.lots[i] = { s.lot.lots[i] with bin := none, stackCount := 0 }) ∧
                    ((∀ b : Bin, s.lot.lots[i].bin = some b → b.val < c.binsEnabled) → t.lot.lots[i] = s.lot.lots[i])) ∧
                  (∀ b : Bin,
                    (asked b → s.sched.held[b] = false → ¬waits b →
                      t.sched.held[b] = false ∧
                        t.sched.out.sr[b] = some (max (s.sched.out.sr[b].getD 0) (s.line.now + c.wSr))) ∧
                    (asked b → s.sched.held[b] = true ∨ waits b →
                      t.sched.held[b] = true ∧ t.sched.out.sr[b] = s.sched.out.sr[b]) ∧
                    (¬asked b → t.sched.held[b] = s.sched.held[b] ∧ t.sched.out.sr[b] = s.sched.out.sr[b])) ∧
                  (∀ k : StationIx, t.stations[k] =
                    if s.stations[k].state = .loaded then { s.stations[k] with waitReason := .feedState }
                    else s.stations[k]) ∧
                  (∀ w : Lane, t.seq.tails[w] =
                    match s.seq.tails[w] with
                    | some x => if 1000000 < posDiff s.line.p x.pos then none else some x
                    | none => none) ∧
                  t =
                    { (s.received addr 0x32 body) with
                      eyes := t.eyes, prog := t.prog, link := t.link, lot := t.lot, stations := t.stations
                      seq := { s.seq with mark := s.line.p, tails := t.seq.tails }
                      sched :=
                        { s.sched with held := t.sched.held, out := { s.sched.out with sr := t.sched.out.sr } } }))))

/-! ### PURGE, the log and the Fault Latch -/

/-- The completion of a record and what becomes of the record (R69, R70, R159). A record that has a completion is left. Any
other is off the line at once: its slots cancelled (R118) and its tag out of every zone and lane list. With room in the log and
nothing waiting, its PIECE entry is the next one written and the writer's work follows: the count of the completion kind in its
lot rises, the in_flight counts of the lot and of the program fall, the record is free (R129, R148), a staged record is applied
(R148), a close ends (R140), its lot unbound before the stations are examined for the apply (R133), and the stations are
examined. Otherwise the record stands DONE_PENDING with its completion at the back of the order of pending writes. As long as
the writer's examinations grant nothing, a record whose entry was written is free. The order of the writer's work is inferred
(log 5). -/
def Obligations.CompletionIsWrittenOrWaits : Prop :=
  ∀ (tag : Nat) (r : Piece) (k : CompletionKind) (st : Option Stage) (s : State),
    PoolRight s.track → s.piece? tag = some r →
    (r.completion ≠ none → complete tag k st s = s) ∧
    (r.completion = none →
      let t := complete tag k st s
      let done : Completion := { kind := k, stage := st, pos := s.line.p }
      t.line = s.line ∧ t.eyes = s.eyes ∧ t.inputs = s.inputs ∧ t.latch = s.latch ∧ t.link = s.link ∧ t.seq.feed = s.seq.feed ∧
      (s.log.entries.length < 32 ∧ s.log.order = [] →
        t = (s.offLine r).pieceDone r done ∧
        (∀ l : LotRef, r.lot = some l →
          let u := ((s.offLine r).pieceWritten r done).lot.lots[l.slot]
          u = counted k s.lot.lots[l.slot] ∧ u.inFlight = s.lot.lots[l.slot].inFlight - 1) ∧
        (s.log.entries ++ [{ number := s.log.counter, body := .piece (pieceEntry r done) }]) <+: t.log.entries ∧
        (s.seq.feed ≠ .run →
          t.piece? tag = none ∧ (∀ u, u ≠ tag → (t.piece? u).isSome = (s.piece? u).isSome) ∧
          (∀ z : Zone, tag ∉ t.track.zone z) ∧ ∀ w : Lane, tag ∉ t.track.entryLists[w] ∧ tag ∉ t.track.exitLists[w])) ∧
      (¬(s.log.entries.length < 32 ∧ s.log.order = []) →
        t.piece? tag = some { r with completion := some done, actions := [], state := .donePending } ∧
        (∀ u, u ≠ tag → (t.piece? u).isSome = (s.piece? u).isSome) ∧
        (∀ z : Zone, tag ∉ t.track.zone z) ∧ (∀ w : Lane, tag ∉ t.track.entryLists[w] ∧ tag ∉ t.track.exitLists[w]) ∧
        t.log = { s.log with order := s.log.order ++ [.piece tag] } ∧ t.lot = s.lot ∧ t.prog = s.prog ∧
        t.stations = s.stations ∧ t.seq = s.seq ∧
        t =
          { s.offLine r with
            log := { s.log with order := s.log.order ++ [.piece tag] }
            track :=
              { (s.offLine r).track with
                pool := s.track.pool.map fun q =>
                  if q.tag = tag then { r with completion := some done, actions := [], state := .donePending } else q } }))

/-- PURGE with a selector of one or all zones completes the records selected as PURGED one after another, in the order DROP,
FOLD, IRON, FEED and each zone from its front, and the reply carries the number selected; outside RUN, where nothing is
granted, each is then freed or DONE_PENDING and no other record leaves use. A selector outside the table is refused with
BAD_VALUE. No fault is latched and no notice written. Selector TAG is refused with BAD_INDEX when no record in use holds the
tag, accepted with a count of 0 for a DONE_PENDING record, and otherwise completes the record as PURGED with a count of 1 (R73,
R74). -/
def Obligations.PurgeCompletesTheSelectedRecords : Prop :=
  (∀ (addr sel a b : Byte) (s : State), Takes s addr → PoolRight s.track → ZonesRight s.track →
    (sel.toNat = 0 ∨ 6 < sel.toNat →
      exec (.purge addr [sel, a, b]) s = .next (s.turnedAway addr 0x41 [sel, a, b] .badValue)) ∧
    ∀ zones : List Zone,
      (sel, zones) ∈
          ([(1, [.feed]), (2, [.iron]), (3, [.fold]), (4, [.drop]), (5, [.drop, .fold, .iron, .feed])] :
            List (Byte × List Zone)) →
        let tags := zones.flatMap s.track.zone
        let t := tags.foldl (fun s tag => complete tag .purged none s) (s.received addr 0x41 [sel, a, b])
        exec (.purge addr [sel, a, b]) s = .next (t.answered addr 0x41 [BitVec.ofNat 8 tags.length]) ∧
        t.latch = s.latch ∧ t.log.dropped = s.log.dropped ∧ t.line = s.line ∧ t.eyes = s.eyes ∧ t.inputs = s.inputs ∧
        (s.seq.feed ≠ .run →
          (∀ z ∈ zones, t.track.zone z = []) ∧ (∀ z ∉ zones, t.track.zone z = s.track.zone z) ∧
          (∀ r ∈ t.track.pool, (∃ z ∈ zones, r.tag ∈ s.track.zone z) →
            r.state = .donePending ∧ r.completion = some { kind := .purged, stage := none, pos := s.line.p }) ∧
          ∀ r ∈ s.track.pool, (∀ z ∈ zones, r.tag ∉ s.track.zone z) → r ∈ t.track.pool)) ∧
  ∀ (addr lo hi : Byte) (s : State), Takes s addr →
    ((∀ r ∈ s.track.pool, r.tag ≠ lo.toNat + 256 * hi.toNat) →
      exec (.purgeTag addr [6, lo, hi]) s = .next (s.turnedAway addr 0x41 [6, lo, hi] .badIndex)) ∧
    ∀ r : Piece, s.piece? (lo.toNat + 256 * hi.toNat) = some r →
      (r.state = .donePending → exec (.purgeTag addr [6, lo, hi]) s = .next (s.told addr 0x41 [6, lo, hi] [0])) ∧
      (r.state ≠ .donePending →
        exec (.purgeTag addr [6, lo, hi]) s =
          .next
            ((complete (lo.toNat + 256 * hi.toNat) .purged none (s.received addr 0x41 [6, lo, hi])).answered addr 0x41 [1]))

/-- LOG TAKE removes the oldest n entries, or all, clears the notice-dropped flag, and then writes entries from the front of
the order of pending writes, one at a time and each with its writer's work, until the order is empty or the log is full, a
summary request that arises joining the back; the reply carries the number removed, the number in the log after the filling,
and the flag as it stood (R162). With room, the first entry written after those that stay is that of the request at the front
of the order, under the next entry number (R156, R159). With nothing waiting nothing else changes. The order of a writer's work
is inferred (log 5), and that the other fields of a lot slot freed are 0 is the model's choice (log 22). -/
def Obligations.LogTakeRemovesTheOldestAndFills : Prop :=
  ∀ (addr n : Byte) (s : State), Takes s addr → LogBounded s → WaitingMeansFull s →
    ∃ t u, exec (.logTake addr [n]) s = .next t ∧
      Filled
        { s.received addr 0x51 [n] with
          log := { s.log with entries := s.log.entries.drop n.toNat, dropped := false } } u ∧
      t =
        u.answered addr 0x51
          [BitVec.ofNat 8 (min n.toNat s.log.entries.length), BitVec.ofNat 8 u.log.entries.length,
            if s.log.dropped then 1 else 0] ∧
      (∀ (w : PendingWrite) (ws : List PendingWrite) (b : EntryBody), s.log.order = w :: ws → 0 < n.toNat →
        waitingBody s w = some b →
          s.log.entries.drop n.toNat ++ [{ number := s.log.counter, body := b }] <+: t.log.entries) ∧
      s.log.entries.drop n.toNat <+: t.log.entries ∧ t.log.dropped = false ∧
      t.log.entries.length ≤ 32 ∧ (t.log.order = [] ∨ t.log.entries.length = 32) ∧
      (s.link.quiet = false →
        t.link.owed =
          some
            { code := 0x51
              body :=
                [BitVec.ofNat 8 (min n.toNat s.log.entries.length), BitVec.ofNat 8 t.log.entries.length,
                  if s.log.dropped then 1 else 0]
              awaitsStore := false }) ∧
      (s.log.order = [] →
        t =
          (State.answered
            { s.received addr 0x51 [n] with
              log := { s.log with entries := s.log.entries.drop n.toNat, dropped := false } }
            addr 0x51
            [BitVec.ofNat 8 (min n.toNat s.log.entries.length), BitVec.ofNat 8 (s.log.entries.length - n.toNat),
              if s.log.dropped then 1 else 0]))

/-- A notice is written with the next entry number when the log holds fewer than 32 entries; otherwise it is not written and
the notice-dropped flag becomes yes (R156, R160). A latch request sets the flag and the first reason, or adds its reason, which
stands in a set of reasons at the bit of its value less 1 (R176), to the set, and in fault mode HOLD moves a feed state of RUN
or PAUSE to HELD; nothing else changes (R39, R163). -/
def Obligations.NoticesAndLatchRequests : Prop :=
  (∀ (code : Nat) (pos : Pos) (s : State),
    (s.log.entries.length < 32 →
      notice code pos s =
        { s with
          log :=
            { s.log with
              entries := s.log.entries ++ [{ number := s.log.counter, body := .notice code pos }]
              counter := if s.log.counter < 65535 then s.log.counter + 1 else 0 } }) ∧
    (32 ≤ s.log.entries.length → notice code pos s = { s with log := { s.log with dropped := true } })) ∧
  ∀ (r : FaultReason) (s : State),
    reasonBit r = 1#7 <<< ((faultCode (some r)).toNat - 1) ∧
    (latchFault r s).latch.latched = true ∧
    (latchFault r s).latch.first = (if s.latch.latched then s.latch.first else some r) ∧
    (latchFault r s).latch.seen = (if s.latch.latched then s.latch.seen ||| reasonBit r else reasonBit r) ∧
    (latchFault r s).seq =
      { s.seq with
        feed :=
          if s.prog.settings.faultMode = .hold ∧ (s.seq.feed = .run ∨ s.seq.feed = .pause) then .held else s.seq.feed } ∧
    latchFault r s = { s with latch := (latchFault r s).latch, seq := (latchFault r s).seq }

/-- FAULT ACK, addressed or broadcast, clears a latched latch, takes the feed from HELD to RUN with an examination if the run
conditions hold and to PAUSE otherwise, and replies the latch as it stood and the feed state after; with the flag already no it
changes nothing (R39, R164), in the layout of R176. That bit 7 of the reasons seen, which names no reason, is 0 is the model's
choice (log 33). -/
def Obligations.FaultAckClearsTheLatch : Prop :=
  ∀ (addr : Byte) (s : State), TakesAny s addr →
    let before : List Byte := [if s.latch.latched then 1 else 0, faultCode s.latch.first, s.latch.seen.setWidth 8]
    let cleared : State := { s.received addr 0x52 [] with latch := { latched := false, first := none, seen := 0#7 } }
    (s.latch.latched = false →
      exec (.faultAck addr []) s = .next (s.told addr 0x52 [] (before ++ [feedCode s.seq.feed]))) ∧
    (s.latch.latched = true →
      (s.seq.feed ≠ .held →
        exec (.faultAck addr []) s = .next (cleared.answered addr 0x52 (before ++ [feedCode s.seq.feed]))) ∧
      (s.seq.feed = .held → runConditions s = false →
        exec (.faultAck addr []) s = .next ((cleared.setFeed .pause).answered addr 0x52 (before ++ [2]))) ∧
      (s.seq.feed = .held → runConditions s = true →
        exec (.faultAck addr []) s = .next ((examine (cleared.setFeed .run)).answered addr 0x52 (before ++ [1]))))

/-! ### Supply and store -/

/-- POWER_ON puts every block at its power-on values with the sampled levels and switches, and loads each store entry that
holds a record which matches its check value and passes its checks (R4, R5, R18, R34, R35, R75, R127, R143, R148, R155, R166,
R180). The model's choices: the queue is kept and the list of events due is empty (log 2), while the supply is on POWER_ON is a
failure of the supply and then a power-on (log 11), the time starts at 0 (log 1), the frame buffer is empty (log 9), no frame
is recorded as sent (log 21), and the fields of a FREE lot slot are 0 (log 22). -/
def Obligations.PowerOnLoadsTheStoreAndResetsTheRest : Prop :=
  ∀ (smp : PowerSamples) (s : State),
    (s.powered = true → ∃ t, exec .powerFail s = .next t ∧ t.powered = false ∧
      exec (.powerOn smp) s = exec (.powerOn smp) t) ∧
    (s.powered = false → ∃ t, exec (.powerOn smp) s = .next t ∧ t.powered = true ∧ t.pending = s.pending ∧
      t.line =
        { p := 0#32, dir := .forward, encA := smp.encA, encB := smp.encB, hist := Vector.replicate 4 0, advance := 0,
          fullWindows := 0, windowEnd := 10, now := 0 } ∧
      t.inputs = { buttons := smp.buttons, key := smp.key, lineRun := smp.lineRun, estop := smp.estop } ∧
      t.link =
        { address := smp.address, rate := smp.rate, rx := .skipping, buffer := [], quiet := false, owed := none,
          sent := none } ∧
      (∀ ix : ProgramIx, t.prog.programs[ix] =
        (match s.prog.storedPrograms[ix] with
          | some p => if programPasses p then p else none
          | none => none)) ∧
      (t.prog.settings, t.prog.valid) =
        (match s.prog.storedSettings with
          | some c => if c.passes then (c, true) else (factoryDefaults, false)
          | none => (factoryDefaults, false)) ∧
      t.prog.staged = Vector.replicate 32 none ∧ t.prog.inFlight = Vector.replicate 32 0 ∧ t.prog.queue = [] ∧
      t.prog.storedPrograms = s.prog.storedPrograms ∧ t.prog.storedSettings = s.prog.storedSettings ∧
      (∀ e : Eye, (t.eye e).dark = smp.dark[eyeIx e] ∧ (t.eye e).darkTravel = 0 ∧
        (t.eye e).state =
          (if eyeEnabled t.prog.settings.lanes e = true ∧ smp.dark[eyeIx e] = true then .pending else .light) ∧
        ((t.eye e).state = .pending → (t.eye e).cLead = 0#32)) ∧
      t.stations = Vector.replicate 4 Station.initial ∧
      t.seq = { feed := .off, tails := Vector.replicate 4 none, scanStart := 0, mark := 0#32 } ∧
      t.track = TrackStore.initial ∧ t.sched = { slots := [], out := Outputs.allOff, held := Vector.replicate 6 false } ∧
      t.lot = { lots := Vector.replicate 8 Lot.free, bins := Vector.replicate 6 none } ∧
      t.log = { entries := [], counter := 0, order := [], dropped := false } ∧
      t.latch = { latched := false, first := none, seen := 0#7 } ∧ t.due = [] ∧ t.heldExpiry = [])

/-- A store write ends with its record in its entry, and the next is taken up; a reply that waited on it may then be sent
(R155, R175). When power fails, the entry whose write is under way holds no record that matches its check value, the entries
whose writes wait keep what they hold, and no write is left (R155); that the outputs are then off is the model's choice (log
11). -/
def Obligations.StoreWritesEndOrAreCutOff : Prop :=
  (∀ (w : StoreWrite) (rest : List StoreWrite) (s : State), s.powered = true → s.prog.queue = w :: rest →
    exec .storeWriteEnd s =
      .next
        { s with
          prog :=
            (match w.record with
              | .program ix p => { s.prog with storedPrograms := s.prog.storedPrograms.set ix (some p), queue := rest }
              | .settings c => { s.prog with storedSettings := some c, queue := rest })
          link :=
            if w.replies then { s.link with owed := s.link.owed.map fun o => { o with awaitsStore := false } } else s.link }) ∧
  ∀ s : State, s.powered = true →
    (s.prog.queue = [] →
      exec .powerFail s =
        .next { s with powered := false, sched := { s.sched with out := Outputs.allOff }, due := [], heldExpiry := [] }) ∧
    ∀ (w : StoreWrite) (rest : List StoreWrite), s.prog.queue = w :: rest →
      exec .powerFail s =
        .next
          { s with
            powered := false, sched := { s.sched with out := Outputs.allOff }, due := [], heldExpiry := []
            prog :=
              match w.record with
              | .program ix _ => { s.prog with storedPrograms := s.prog.storedPrograms.set ix none, queue := [] }
              | .settings _ => { s.prog with storedSettings := none, queue := [] } }

/-! ### The line and its speed -/

/-- The counted edges (R1). The forward cycle of the channels A, B is 00, 10, 11, 01, so that a change of A is forward when the
two are equal and a change of B when they differ. A reverse edge: P falls by 1 modulo 2^32, the direction becomes REVERSE, the
advance falls by 1; every eye in PENDING goes to DROPPED and no other eye changes (R14). A forward edge: P rises by 1, the
direction becomes FORWARD, the advance rises by 1; the dark travel count of every dark eye of an enabled lane rises by 1 (R9),
every ACCEPTED eye of one whose input is light goes to LIGHT, no other eye changes, and the Matcher takes the trailing edges of
these eyes at the new P (R15); under e-stop every slot at or behind P is then marked passed under stop (R124). That the
trailing edges of one forward edge are taken in the order N1 to N4, X1 to X4, K is the model's choice (log 3): the manual lets
either of two be taken first (R76). That the events of the edge before are no longer due is the model's choice too (log 2), and
that its expiries are held back no longer is inferred (log 15). -/
def Obligations.CountedEdgesMoveThePosition : Prop :=
  ∀ (ch : EncChannel) (s : State), s.powered = true →
    (¬((ch = .a ∧ s.line.encA = s.line.encB) ∨ (ch = .b ∧ s.line.encA ≠ s.line.encB)) →
      ∃ t, exec (.countedEdge ch) s = .next t ∧
        (∀ e : Eye, t.eye e = if (s.eye e).state = .pending then { s.eye e with state := .dropped } else s.eye e) ∧
        t =
          { s with
            line :=
              { s.line with
                p := s.line.p - 1#32, dir := .reverse, advance := s.line.advance - 1
                encA := if ch = .a then !s.line.encA else s.line.encA
                encB := if ch = .b then !s.line.encB else s.line.encB }
            eyes := t.eyes, due := [], heldExpiry := [] }) ∧
    ((ch = .a ∧ s.line.encA = s.line.encB) ∨ (ch = .b ∧ s.line.encA ≠ s.line.encB) →
      ∃ t, exec (.countedEdge ch) s = .next t ∧
        t.line =
          { s.line with
            p := s.line.p + 1#32, dir := .forward, advance := s.line.advance + 1
            encA := if ch = .a then !s.line.encA else s.line.encA
            encB := if ch = .b then !s.line.encB else s.line.encB } ∧
        let lit (e : Eye) : Bool :=
          eyeEnabled s.prog.settings.lanes e && decide ((s.eye e).dark = false ∧ (s.eye e).state = .accepted)
        let v := ([.n 0, .n 1, .n 2, .n 3, .x 0, .x 1, .x 2, .x 3, .k].filter lit).foldl
          (fun v e =>
            match e with
            | .n w => trailEntry w (s.line.p + 1#32) v
            | .x w => trailExit w (s.line.p + 1#32) v
            | .k => v)
          { s with line := t.line, eyes := t.eyes, due := [], heldExpiry := [] }
        (∀ e : Eye, t.eye e =
          if eyeEnabled s.prog.settings.lanes e = true ∧ (s.eye e).dark = true then
            { s.eye e with darkTravel := (s.eye e).darkTravel + 1 }
          else if lit e = true then { s.eye e with state := .light }
          else s.eye e) ∧
        t =
          { v with
            sched :=
              if s.inputs.estop then
                { v.sched with
                  slots := v.sched.slots.map fun y =>
                    if 0 ≤ posDiff (s.line.p + 1#32) y.pos then { y with passed := true } else y }
              else v.sched
            due := t.due })

/-- The events that a forward edge makes due (log 2): the acceptance of each PENDING eye at eye_min (R11), the blocking of each
dark eye at eye_block (R16), the grant step (R44), the expiries at P (R92), the firing of each slot at or behind P while ESTOP
is inactive (R120), with the mark that the edge's firing is still to come (log 27), and the idle unbinds (R135). -/
def Obligations.ForwardEdgeMakesItsEventsDue : Prop :=
  ∀ (ch : EncChannel) (s t : State), s.powered = true → exec (.countedEdge ch) s = .next t → t.line.dir = .forward →
    (∀ e : Eye, Due.accept e ∈ t.due ↔
      (t.eye e).state = .pending ∧ (t.prog.settings.eyeMin : Int) ≤ posDiff t.line.p (t.eye e).cLead) ∧
    (∀ e : Eye, Due.block e ∈ t.due ↔
      ((t.eye e).state = .pending ∨ (t.eye e).state = .accepted ∨ (t.eye e).state = .dropped) ∧
        t.prog.settings.eyeBlock ≤ (t.eye e).darkTravel) ∧
    (Due.grant ∈ t.due ↔ posDiff t.line.p t.seq.mark = 8) ∧
    (∀ place : Nat, Due.fire place ∈ t.due ↔
      t.inputs.estop = false ∧ ∃ y ∈ t.sched.slots, y.place = place ∧ 0 ≤ posDiff t.line.p y.pos) ∧
    (Due.firing ∈ t.due ↔ t.inputs.estop = false ∧ ∃ y ∈ t.sched.slots, 0 ≤ posDiff t.line.p y.pos) ∧
    (∀ tag : Nat, Due.expiry tag ∈ t.due ↔
      ∃ st : Stage, tag ∈ t.track.zone (stageZone st) ∧
        ∃ r, t.piece? tag = some r ∧ stillWaits st r = true ∧ expiryPoint t.prog.settings st r = t.line.p) ∧
    ∀ i : LotSlot, Due.idle i ∈ t.due ↔
      t.lot.lots[i].state = .opened ∧ t.lot.lots[i].bin.isSome ∧ t.lot.lots[i].inFlight = 0 ∧
        0 < t.prog.settings.idleDistance ∧ (t.prog.settings.idleDistance : Int) ≤ posDiff t.line.p t.lot.lots[i].lastUse

/-- An invalid transition does the five things of R3, and takes the feed from RUN to PAUSE (R37) and, in fault mode HOLD, to
HELD (R39): P and the direction stay, the speed history is cleared, the window clock restarts, the notice ENCODER_ERROR is
written or dropped, and ENCODER is latched. -/
def Obligations.InvalidTransitionClearsTheSpeed : Prop :=
  ∀ s : State, s.powered = true →
    exec .invalidTransition s =
      .next
        (latchFault .encoder
          (notice 1 s.line.p
            { s with
              line :=
                { s.line with
                  encA := !s.line.encA, encB := !s.line.encB, hist := #v[0, 0, 0, 0], advance := 0, fullWindows := 0,
                  windowEnd := s.line.now + 10 }
              seq := { s.seq with feed := if s.seq.feed = .run then .pause else s.seq.feed } }))

/-- The end of a speed window: the advance becomes the newest of the four history entries, the count of full windows rises to
at most 4, and the advance starts from 0 (R5); a RUN with v below speed_min becomes PAUSE, a PAUSE with all run conditions
holding becomes RUN with an examination, and nothing else changes (R37). That the time is then at least the window's end is the
model's choice (log 1). -/
def Obligations.WindowEndPushesTheAdvance : Prop :=
  ∀ s : State, s.powered = true →
    let u : State :=
      { s with
        line :=
          { s.line with
            hist := #v[s.line.advance, s.line.hist[0], s.line.hist[1], s.line.hist[2]], advance := 0
            fullWindows := min 4 (s.line.fullWindows + 1), now := max s.line.now s.line.windowEnd
            windowEnd := s.line.windowEnd + 10 } }
    let v := (25 : Int) * (s.line.advance + s.line.hist[0] + s.line.hist[1] + s.line.hist[2])
    (s.seq.feed = .run → v < s.prog.settings.speedMin → exec .speedWindowEnd s = .next (u.setFeed .pause)) ∧
    (s.seq.feed = .pause → runConditions u = true → exec .speedWindowEnd s = .next (examine (u.setFeed .run))) ∧
    (¬(s.seq.feed = .run ∧ v < s.prog.settings.speedMin) → ¬(s.seq.feed = .pause ∧ runConditions u = true) →
      exec .speedWindowEnd s = .next u)

/-- The speed, its settled flag and the lead (R6, R7, R8): v is 25 times the sum of the history, it is settled at 4 full
windows, and the lead for a delay of t ms is the least number of counts not below v_eff × t / 1000, at most lead_max. -/
def Obligations.LeadIsTheCeilingOfTravelInTheDelay : Prop :=
  ∀ (s : State) (t : Nat),
    speed s.line = 25 * (s.line.hist[0] + s.line.hist[1] + s.line.hist[2] + s.line.hist[3]) ∧
    (settled s.line = true ↔ s.line.fullWindows = 4) ∧
    ∀ v : Nat, (v : Int) = (if s.line.fullWindows = 4 then max (speed s.line) 0 else s.prog.settings.speedNominal) →
      lead s t ≤ s.prog.settings.leadMax ∧
      (lead s t < s.prog.settings.leadMax → v * t ≤ 1000 * lead s t ∧ 1000 * lead s t < v * t + 1000) ∧
      (lead s t = s.prog.settings.leadMax → 1000 * s.prog.settings.leadMax < v * t + 1000)

/-! ### The eyes -/

/-- The input of an eye goes dark: an eye in LIGHT of an enabled lane begins a dark interval, in PENDING with the captured lead
P when the direction is FORWARD and in DROPPED when it is REVERSE (R10); every other eye, and one of a disabled lane, only
takes the level (R9, R17). That EYE_DARK at a dark eye changes nothing is inferred (log 25). -/
def Obligations.DarkInputBeginsAnInterval : Prop :=
  ∀ (e : Eye) (s : State), s.powered = true →
    ((s.eye e).dark = true → exec (.eyeDark e) s = .next s) ∧
    ((s.eye e).dark = false →
      exec (.eyeDark e) s =
        .next
          (s.modEye e fun x =>
            if x.state = .light ∧ eyeEnabled s.prog.settings.lanes e = true then
              (if s.line.dir = .forward then { x with dark := true, state := .pending, cLead := s.line.p }
              else { x with dark := true, state := .dropped })
            else { x with dark := true }))

/-- The input of an eye goes light: PENDING, DROPPED and BLOCKED go to LIGHT and report nothing (R12, R14, R16), an ACCEPTED
eye keeps its state in reverse motion (R15) and goes to LIGHT in forward motion, where an entry or exit eye reports its
trailing edge at P (R13, R76), and the dark travel count becomes 0 (R9). At the stacker eye K a trailing edge changes no record
(R91). The expiries held back are then looked at again as Settled says (R94, log 15), and with none nothing else changes; that
EYE_LIGHT at a light eye changes nothing is inferred (log 25). A trailing edge of exit eye Xw at q (R88) ends lane w of the
record open on it; with its last open lane the exit length is written, the distance from the exit lead to q clamped to
0..16383, and a STRAY record is left at that. A FED one takes EXIT_MISMATCH when the length differs from L_est by more than
refine_window (R108), and is refined otherwise: each of its FOLD and CROSS slots moves to the position that the exit length
gives if both positions lie outside the margin, the slot is not marked, and a CROSS slot names the record alone with no other
CROSS slot within xf_cycle of the new position (R109). That places are distinct is a premise (SlotsOrdered). -/
def Obligations.LightInputEndsAnInterval : Prop :=
  (∀ (e : Eye) (s : State), s.powered = true →
    ((s.eye e).dark = false → exec (.eyeLight e) s = .next s) ∧
    ((s.eye e).dark = true → (e = .k ∨ (s.eye e).state ≠ .accepted ∨ s.line.dir = .reverse) →
      let u := s.modEye e fun x =>
        { x with
          dark := false, darkTravel := 0
          state := if x.state = .accepted ∧ s.line.dir = .reverse then .accepted else .light }
      ∃ t, exec (.eyeLight e) s = .next t ∧ Settled s.heldExpiry u t ∧ (s.heldExpiry = [] → t = u)) ∧
    ((s.eye e).dark = true → (s.eye e).state = .accepted → s.line.dir = .forward →
      let u := s.modEye e fun x => { x with dark := false, darkTravel := 0, state := .light }
      let v :=
        match e with
        | .n w => trailEntry w s.line.p u
        | .x w => trailExit w s.line.p u
        | .k => u
      ∃ t, exec (.eyeLight e) s = .next t ∧ Settled v.heldExpiry v t ∧ (v.heldExpiry = [] → t = v))) ∧
  ∀ (w : Lane) (q : Pos) (s : State), PoolRight s.track → (s.sched.slots.map (·.place)).Nodup →
    ((∀ r ∈ s.track.pool, r.completion = none → laneOpen r.exitSeen r.exitEnded w = false) → trailExit w q s = s) ∧
    ∀ (r : Piece) (before after : List Piece), s.track.pool = before ++ r :: after →
      (∀ o ∈ before, o.completion.isSome ∨ laneOpen o.exitSeen o.exitEnded w = false) → r.completion = none →
      laneOpen r.exitSeen r.exitEnded w = true →
        let ended := r.exitEnded ||| laneBit w
        let len := min 16383 (posDiff q (r.exitLead.getD 0#32)).toNat
        let u := s.modPiece r.tag fun o => { o with exitEnded := ended, exitLength := some len }
        (r.exitSeen &&& ~~~ended ≠ 0#4 → trailExit w q s = s.modPiece r.tag fun o => { o with exitEnded := ended }) ∧
        (r.exitSeen &&& ~~~ended = 0#4 →
          (r.program = none → trailExit w q s = u) ∧
          ∀ (ix : ProgramIx) (pr : ProgramRec) (est : Nat), r.program = some ix → s.prog.programs[ix] = some pr →
            r.lEst = some est →
              (pr.refineWindow < ((len : Int) - est).natAbs →
                trailExit w q s = reasonArrives r.tag .exitMismatch u) ∧
              (((len : Int) - est).natAbs ≤ pr.refineWindow →
                (∀ y ∈ s.sched.slots, ∀ z ∈ s.sched.slots, y.place ∈ r.actions → z.place ∈ r.actions →
                  y.action = .cross → z.action = .cross → y = z) →
                  let c := s.prog.settings
                  let at_ (d n ms : Nat) : Pos := posSub (posAdd (posAdd (r.exitLead.getD 0#32) d) n) (lead s ms)
                  let new (y : Slot) : Option Pos :=
                    if y.place ∈ r.actions then
                      match y.action with
                      | .fold1 => pr.folds[0]?.map fun f => at_ c.dPf (len * f / 256) c.tPf
                      | .fold2 => pr.folds[1]?.map fun f => at_ c.dPf (len * f / 256) c.tPf
                      | .cross => some (at_ c.dXf (crossOffset len pr.folds) c.tXf)
                      | _ => none
                    else none
                  let may (y : Slot) (q : Pos) : Prop :=
                    (c.arming : Int) ≤ posDiff y.pos s.line.p ∧ (c.arming : Int) ≤ posDiff q s.line.p ∧ y.passed = false ∧
                      (y.action = .cross →
                        y.tags = [r.tag] ∧ ∀ z ∈ s.sched.slots, z.place ≠ y.place → z.action = .cross →
                          c.xfCycle ≤ (posDiff q z.pos).natAbs)
                  ∃ slots : List Slot, trailExit w q s = { u with sched := { s.sched with slots := slots } } ∧
                    (slots.map (·.place)).Perm (s.sched.slots.map (·.place)) ∧
                    ∀ y ∈ s.sched.slots,
                      (∀ q, new y = some q → may y q → { y with pos := q } ∈ slots) ∧
                      ((∀ q, new y = some q → ¬may y q) → y ∈ slots)))

/-- A trailing edge of an ACCEPTED entry eye Nw that ends the last open lane of a STRAY record writes the entry length, the
distance from the entry lead to P clamped to 0..16383, and changes nothing else (R13, R83). For every record, a trailing edge
of entry eye Nw at q ends lane w of the record open on it, and with its last open lane writes the entry length. A FED record
then takes JOINED for a length above its program's max_length and SHORT for one below min_length (R84), and each tail of a
footprint lane that holds its tag takes the position q, with an examination of the stations if a tail changed and none
otherwise (R42); that a tail which takes the position it already had counts as changed, so that the stations are examined then
too, is inferred (log 14). With no record open on the lane nothing changes. -/
def Obligations.EntryTrailingEdgeWritesTheStrayLength : Prop :=
  (∀ (w : Lane) (r : Piece) (before after : List Piece) (s : State), s.powered = true → s.heldExpiry = [] →
    (s.eye (.n w)).dark = true → (s.eye (.n w)).state = .accepted → s.line.dir = .forward → PoolRight s.track →
    s.track.pool = before ++ r :: after → (∀ q ∈ before, q.completion.isSome ∨ laneOpen q.entrySeen q.entryEnded w = false) →
    r.completion = none → r.kind = .stray → r.entrySeen &&& ~~~r.entryEnded = laneBit w →
      exec (.eyeLight (.n w)) s =
        .next
          { s with
            eyes := s.eyes.set (eyeIx (.n w)) { s.eye (.n w) with dark := false, darkTravel := 0, state := .light }
            track :=
              { s.track with
                pool :=
                  before ++
                    { r with
                      entryEnded := r.entryEnded ||| laneBit w
                      entryLength := some (min 16383 (posDiff s.line.p (r.entryLead.getD 0#32)).toNat) } :: after } }) ∧
  ∀ (w : Lane) (q : Pos) (s : State), PoolRight s.track →
    ((∀ r ∈ s.track.pool, r.completion = none → laneOpen r.entrySeen r.entryEnded w = false) → trailEntry w q s = s) ∧
    ∀ (r : Piece) (before after : List Piece), s.track.pool = before ++ r :: after →
      (∀ o ∈ before, o.completion.isSome ∨ laneOpen o.entrySeen o.entryEnded w = false) → r.completion = none →
      laneOpen r.entrySeen r.entryEnded w = true →
        let ended := r.entryEnded ||| laneBit w
        let len := min 16383 (posDiff q (r.entryLead.getD 0#32)).toNat
        let u := s.modPiece r.tag fun o => { o with entryEnded := ended, entryLength := some len }
        (r.entrySeen &&& ~~~ended ≠ 0#4 → trailEntry w q s = s.modPiece r.tag fun o => { o with entryEnded := ended }) ∧
        (r.entrySeen &&& ~~~ended = 0#4 →
          (r.kind = .stray → trailEntry w q s = u) ∧
          ∀ (ix : ProgramIx) (pr : ProgramRec), r.kind = .fed → r.program = some ix → s.prog.programs[ix] = some pr →
            let v :=
              if pr.maxLength < len then reasonArrives r.tag .joined u
              else if len < pr.minLength then reasonArrives r.tag .short u
              else u
            let mine (x : Lane) : Prop :=
              hasLane r.footprint x = true ∧ ∃ y : Tail, v.seq.tails[x] = some y ∧ y.tag = r.tag
            ((∀ x, ¬mine x) → trailEntry w q s = v) ∧
            ∀ x, mine x →
              ∃ tails : Vector (Option Tail) 4,
                (∀ y : Lane, (mine y → tails[y] = v.seq.tails[y].map fun x => { x with pos := q }) ∧
                  (¬mine y → tails[y] = v.seq.tails[y])) ∧
                trailEntry w q s = examine { v with seq := { v.seq with tails := tails } })

/-- The blocking of an eye, when it is due and its dark interval, which has travelled, still stands: the eye goes to BLOCKED,
the notice EYE_BLOCKED of its number is written or dropped, and EYE_BLOCKED is latched (R16), with the eye_block that the edge
has read (R153); when it is not due nothing happens (log 2). -/
def Obligations.BlockedEyeGivesNoticeAndLatch : Prop :=
  ∀ (e : Eye) (s : State), s.powered = true →
    (Due.block e ∉ s.due → exec (.eyeBlocked e) s = .next s) ∧
    (Due.block e ∈ s.due → (s.eye e).state = .pending ∨ (s.eye e).state = .accepted ∨ (s.eye e).state = .dropped →
      0 < (s.eye e).darkTravel →
        exec (.eyeBlocked e) s =
          .next
            (latchFault .eyeBlocked
              (notice
                (match e with
                  | .n w => 16 + w.val
                  | .x w => 20 + w.val
                  | .k => 24)
                s.line.p
                ({ s with due := s.due.filter fun d => d ≠ Due.block e }.modEye e fun x => { x with state := .blocked }))))

/-! ### Leading edges and planning -/

/-- The acceptance of an eye, when it is due and its dark interval still stands: the eye goes to ACCEPTED and its leading edge
is at the captured lead C_lead (R11), with the eye_min that the edge has read (R153), and the Matcher takes it (R76); when it
is not due nothing happens (log 2). The expiries held back for it are then looked at again as Settled says: a record that still
waits is LOST at once, and one that no longer waits is not (R94, log 15). At exit lane w an edge at c closes the lane on a
record that has it open (R79). Then the first record of the FOLD zone that absorbs it takes the lane (R85); else the first
record waiting on the lane whose window contains c is matched, moves to FOLD and is planned (R86); else a STRAY record is made
in FOLD, with the tag that R59 gives it, and sent to the gate (R64, R87, R100); else, with none free, STRAY_UNTRACKED. At K the
records that expect the stacker with c in their window are matched, in the order of the FOLD zone (R90): each moves to DROP
with stacker lead c, takes its lot's bin and gets a DROP slot there (R111), due at this edge if it lies at or behind P and a
firing of the edge is to come of which none has been taken (R120, log 27); with no room for the slot it takes SLOT_FULL,
NO_SLOT is latched and it is LOST at FOLD (R107); without a lot it completes STACKED at once (R112; a lot without a bin, which
AccountsRight rules out, is log 16). With no such record, the notice STRAY_STACK and the latch (R91). -/
def Obligations.EyeAcceptanceReportsItsLeadingEdge : Prop :=
  (∀ (e : Eye) (s : State), s.powered = true →
    (Due.accept e ∉ s.due → exec (.eyeAccept e) s = .next s) ∧
    (Due.accept e ∈ s.due → (s.eye e).state = .pending → (s.eye e).cLead ≠ s.line.p →
        let u := { s with due := s.due.filter fun d => d ≠ Due.accept e }.modEye e fun x => { x with state := .accepted }
        let v :=
          match e with
          | .n w => leadEntry w (s.eye e).cLead u
          | .x w => leadExit w (s.eye e).cLead u
          | .k => leadStacker (s.eye e).cLead u
        (∃ t, exec (.eyeAccept e) s = .next t ∧ Settled v.heldExpiry v t ∧ (v.heldExpiry = [] → t = v)) ∧
        (e = .k → s.heldExpiry = [] → (∀ r ∈ s.track.pool, r.state ≠ .folding) →
          exec (.eyeAccept e) s = .next (latchFault .strayStack (notice 48 (s.eye e).cLead u))))) ∧
  (∀ (w : Lane) (c : Pos) (s : State), PoolRight s.track →
    (leadExit w c s =
      leadExit w c
        { s with
          track :=
            { s.track with
              pool := s.track.pool.map fun r =>
                if r.completion = none ∧ laneOpen r.exitSeen r.exitEnded w = true then
                  { r with exitEnded := r.exitEnded ||| laneBit w }
                else r } }) ∧
    ((∀ r ∈ s.track.pool, r.completion = none → laneOpen r.exitSeen r.exitEnded w = false) →
      (∀ (tag : Nat) (r : Piece) (before after : List Nat),
        s.track.foldZone = before ++ tag :: after → s.piece? tag = some r →
        (∀ u ∈ before, ∀ q, s.piece? u = some q → absorbsExit s.prog.settings w c q = false) →
        absorbsExit s.prog.settings w c r = true →
          leadExit w c s = s.modPiece tag fun r => { r with exitSeen := r.exitSeen ||| laneBit w }) ∧
      ((∀ u ∈ s.track.foldZone, ∀ q, s.piece? u = some q → absorbsExit s.prog.settings w c q = false) →
        (∀ (tag : Nat) (r : Piece) (before after : List Nat),
          s.track.exitLists[w] = before ++ tag :: after → s.piece? tag = some r →
          (∀ u ∈ before, ∀ q, s.piece? u = some q → inWindow s.prog.settings .iron q c = false) →
          inWindow s.prog.settings .iron r c = true →
            ∃ v : State, leadExit w c s = planExit tag v ∧ v = { s with track := v.track } ∧
              v.piece? tag =
                some { r with state := .folding, exitLead := some c, exitSeen := r.exitSeen ||| laneBit w } ∧
              (∀ u, u ≠ tag → v.piece? u = s.piece? u) ∧ Moved tag .fold r.footprint s.track v.track) ∧
        ((∀ u ∈ s.track.exitLists[w], ∀ q, s.piece? u = some q → inWindow s.prog.settings .iron q c = false) →
          (s.track.pool.length < 64 →
            ∃ (v : State) (tag : Nat), leadExit w c s = rejectPlan tag v ∧ v = { s with track := v.track } ∧
              GivesTag s.track tag ∧
              v.track.pool =
                s.track.pool ++
                  [{ strayMade w tag s.track.takeCounter with
                     state := .folding, exitLead := some c, exitSeen := laneBit w }] ∧
              Joined tag .fold (laneBit w) s.track v.track ∧ v.track.tagCounter = tagAfter tag 1 ∧
              v.track.takeCounter = s.track.takeCounter + 1#32) ∧
          (64 ≤ s.track.pool.length →
            leadExit w c s = latchFault .strayUntracked (notice (36 + w.val) c s)))))) ∧
  ∀ (c : Pos) (s : State), PoolRight s.track →
    (
      let row := s.track.foldZone.filter fun tag =>
        match s.piece? tag with
        | some r => expectsStacker r && inWindow s.prog.settings .fold r c
        | none => false
      (row = [] → leadStacker c s = latchFault .strayStack (notice 48 c s)) ∧
      (row ≠ [] → leadStacker c s = row.foldl (matchStacker c) s)) ∧
    ∀ (tag : Nat) (r : Piece), s.piece? tag = some r →
      ∃ v : State, v = { s with track := v.track } ∧
        (∀ u, u ≠ tag → v.piece? u = s.piece? u) ∧ Moved tag .drop r.footprint s.track v.track ∧
        (r.lot = none →
          v.piece? tag = some { r with state := .dropping, stackerLead := some c } ∧
            matchStacker c s tag = complete tag .stacked none v) ∧
        ∀ (l : LotRef) (b : Bin), r.lot = some l → s.lot.lots[l.slot].bin = some b →
          v.piece? tag = some { r with state := .dropping, stackerLead := some c, bin := some b } ∧
          let q := posSub (posAdd c s.prog.settings.dBin[b]) (lead s s.prog.settings.tBin)
          let room : Prop := s.sched.slots.length < 32 ∧ plainCount s.sched.slots < 28
          (room →
            ∃ place, (∀ y ∈ s.sched.slots, y.place ≠ place) ∧
              (matchStacker c s tag).sched.slots.Perm
                ({ place := place, pos := q, action := .drop, drive := .bf b, tags := [tag], passed := false } ::
                  s.sched.slots) ∧
              (Due.fire place ∈ (matchStacker c s tag).due ↔
                s.inputs.estop = false ∧ Due.firing ∈ s.due ∧ 0 ≤ posDiff s.line.p q ∧
                  ∃ y ∈ s.sched.slots, Due.fire y.place ∈ s.due ∧ 0 ≤ posDiff s.line.p y.pos) ∧
              (∀ d, d ≠ Due.fire place → (d ∈ (matchStacker c s tag).due ↔ d ∈ s.due)) ∧
              matchStacker c s tag =
                { v.modPiece tag (fun o => { o with actions := o.actions ++ [place] }) with
                  sched := { s.sched with slots := (matchStacker c s tag).sched.slots }
                  due := (matchStacker c s tag).due }) ∧
          (¬room →
            matchStacker c s tag =
              complete tag .lost (some .fold)
                (latchFault .noSlot (v.modPiece tag fun o => { o with reason := some (o.reason.getD .slotFull) })))

/-- A leading edge at c on entry lane w closes the lane on a record that has it open (R79). Then (R80 to R82) the first record
of the IRON zone that absorbs it takes the lane; else the first record waiting on the lane whose window contains c is matched
and moves to IRON; else a STRAY record is made with the tag counter's value as its tag, if no record in use holds that, and
otherwise the first value after it which none holds (R59, R64); else, with no free record, the notice STRAY_UNTRACKED and the
latch. Only the Track Store changes but in the last case. -/
def Obligations.EntryLeadingEdgeAbsorbsMatchesOrMakesAStray : Prop :=
  ∀ (w : Lane) (c : Pos) (s : State), PoolRight s.track →
    (leadEntry w c s =
      leadEntry w c
        { s with
          track :=
            { s.track with
              pool := s.track.pool.map fun r =>
                if r.completion = none ∧ laneOpen r.entrySeen r.entryEnded w = true then
                  { r with entryEnded := r.entryEnded ||| laneBit w }
                else r } }) ∧
    ((∀ r ∈ s.track.pool, r.completion = none → laneOpen r.entrySeen r.entryEnded w = false) →
      (∀ (tag : Nat) (r : Piece) (before after : List Nat),
        s.track.ironZone = before ++ tag :: after → s.piece? tag = some r →
        (∀ u ∈ before, ∀ q, s.piece? u = some q → absorbsEntry s.prog.settings w c q = false) →
        absorbsEntry s.prog.settings w c r = true →
          leadEntry w c s = s.modPiece tag fun r => { r with entrySeen := r.entrySeen ||| laneBit w }) ∧
      ((∀ u ∈ s.track.ironZone, ∀ q, s.piece? u = some q → absorbsEntry s.prog.settings w c q = false) →
        (∀ (tag : Nat) (r : Piece) (before after : List Nat),
          s.track.entryLists[w] = before ++ tag :: after → s.piece? tag = some r →
          (∀ u ∈ before, ∀ q, s.piece? u = some q → inWindow s.prog.settings .feed q c = false) →
          inWindow s.prog.settings .feed r c = true →
            ∃ t, leadEntry w c s = { s with track := t } ∧
              (t.pool.find? fun q => q.tag == tag) =
                some { r with state := .ironing, entryLead := some c, entrySeen := r.entrySeen ||| laneBit w } ∧
              (∀ u, u ≠ tag → (t.pool.find? fun q => q.tag == u) = s.piece? u) ∧
              Moved tag .iron r.footprint s.track t) ∧
        ((∀ u ∈ s.track.entryLists[w], ∀ q, s.piece? u = some q → inWindow s.prog.settings .feed q c = false) →
          (s.track.pool.length < 64 →
            ∃ t tag, leadEntry w c s = { s with track := t } ∧ GivesTag s.track tag ∧
              t.pool =
                s.track.pool ++
                  [{ strayMade w tag s.track.takeCounter with
                     state := .ironing, entryLead := some c, entrySeen := laneBit w }] ∧
              Joined tag .iron (laneBit w) s.track t ∧ t.tagCounter = tagAfter tag 1 ∧
              t.takeCounter = s.track.takeCounter + 1#32) ∧
          (64 ≤ s.track.pool.length →
            leadEntry w c s = latchFault .strayUntracked (notice (32 + w.val) c s)))))

/-- The plan of a record at its exit lead (R98 to R107). The fold plan, of a FED record with route STACK and no reason, writes
L_est; with a position inside the margin the record takes LATE_FOLD and the reject plan (R103). Else, with CROSS slots within
xf_cycle of its cross position, it takes XF_CONFLICT and the reject plan when one is of another program or lot or all name 4
records, and otherwise makes its FOLD slots and joins the first with room (R102). With none near, a slot is made for each fold
on the PF channels of the footprint and, if the program crosses, one on XF; with no room for them, or for the folds before a
join, the record keeps no slot, joins none, takes SLOT_FULL and the reject plan (R107). Every other record takes the reject
plan (R100): one slot on RJ when its position is outside the margin and the table has room, UNDIVERTED when it lies inside,
NO_SLOT and LOST with the table full (R104, R105); a record that is undiverted or has its REJECT slot is left, and one that
becomes undiverted with its stacker expiry passed expires, unless K holds it back (R93, R94; log 15). A reason that arrives is
the record's first or is not taken (R62); on a FOLDING record it takes back the FOLD and CROSS slots, and the reject plan
follows (R106). Which place a slot takes is log 12; that a new slot, which lies an arming distance ahead, is not due, and
neither is a slot that held its place before, is log 27. That places are distinct is a premise (SlotsOrdered). -/
def Obligations.PlansAtTheExitLead : Prop :=
  (∀ (tag : Nat) (r : Piece) (ix : ProgramIx) (pr : ProgramRec) (x : Pos) (s : State),
    PoolRight s.track → s.piece? tag = some r → r.exitLead = some x → r.program = some ix → s.prog.programs[ix] = some pr →
      let len : Nat := max 1 (min 16383 ((r.entryLength.getD pr.nominal * pr.shrink + 512) / 1024))
      let at_ (d n t : Nat) : Pos := posSub (posAdd (posAdd x d) n) (lead s t)
      let c := s.prog.settings
      let folds : List (Pos × SlotAction × Drive) :=
        if pr.fold then
          pr.folds.zipIdx.map fun f =>
            (at_ c.dPf (len * f.1 / 256) c.tPf, if f.2 = 0 then .fold1 else .fold2, .pf r.footprint)
        else []
      let cross : List (Pos × SlotAction × Drive) :=
        if pr.fold && pr.cross then [(at_ c.dXf (crossOffset len pr.folds) c.tXf, .cross, .xf)] else []
      let near (q : Pos) (y : Slot) : Prop := y.action = .cross ∧ (posDiff y.pos q).natAbs < c.xfCycle
      let ours (y : Slot) : Prop :=
        ∀ g ∈ y.tags, ∃ o, s.piece? g = some o ∧ o.program = r.program ∧ o.lot.map (·.id) = r.lot.map (·.id)
      let outside : Prop := ∀ f ∈ folds ++ cross, (c.arming : Int) ≤ posDiff f.1 s.line.p
      let room (n : Nat) : Prop := s.sched.slots.length + n ≤ 32 ∧ plainCount s.sched.slots + n ≤ 28
      let t := planExit tag s
      let dueOf (made : List Slot) : Prop :=
        0 < c.arming → ∀ d, d ∈ t.due ↔ d ∈ s.due ∧ ∀ y ∈ made, d ≠ Due.fire y.place
      let dueKept (v : State) : Prop :=
        0 < c.arming →
          (∀ d, d ∈ v.due → d ∈ s.due) ∧
            ∀ d ∈ s.due, (∀ pl, d = Due.fire pl → ∃ y ∈ s.sched.slots, y.place = pl) → d ∈ v.due
      (r.route = .back ∨ r.reason ≠ none → t = rejectPlan tag (s.modPiece tag fun o => { o with lEst := some len })) ∧
      (r.route = .stack → r.reason = none →
        (¬outside →
          t = rejectPlan tag (s.modPiece tag fun o => { o with lEst := some len, reason := some .lateFold })) ∧
        (outside → (∀ f ∈ cross, ∀ y ∈ s.sched.slots, ¬near f.1 y) → room (folds ++ cross).length →
          (∃ made : List Slot, t.sched.slots.Perm (s.sched.slots ++ made) ∧
            (made.map fun y => (y.pos, y.action, y.drive)) = folds ++ cross ∧
            (∀ y ∈ made, y.tags = [tag] ∧ y.passed = false) ∧ dueOf made ∧
            t.piece? tag = some { r with lEst := some len, actions := r.actions ++ made.map fun y => y.place }) ∧
          (∀ u, u ≠ tag → t.piece? u = s.piece? u) ∧
          t =
            { s with
              track := { s.track with pool := t.track.pool }, sched := { s.sched with slots := t.sched.slots }
              due := t.due }) ∧
        (outside → (∀ f ∈ cross, ∀ y ∈ s.sched.slots, ¬near f.1 y) → ¬room (folds ++ cross).length → folds ++ cross ≠ [] →
          r.actions = [] →
            ∃ v : State, t = rejectPlan tag v ∧
              v.piece? tag = some { r with lEst := some len, reason := some .slotFull } ∧
              (∀ u, u ≠ tag → v.piece? u = s.piece? u) ∧ dueKept v ∧
              v = { s with track := { s.track with pool := v.track.pool }, due := v.due }) ∧
        ∀ f ∈ cross, outside →
          ((∃ y ∈ s.sched.slots, near f.1 y ∧ (¬ours y ∨ ∀ z ∈ s.sched.slots, near f.1 z → 4 ≤ z.tags.length)) →
            t = rejectPlan tag (s.modPiece tag fun o => { o with lEst := some len, reason := some .xfConflict })) ∧
          ∀ (y : Slot) (before after : List Slot), s.sched.slots = before ++ y :: after →
            (s.sched.slots.map (·.place)).Nodup → near f.1 y → y.tags.length < 4 →
            (∀ z ∈ before, near f.1 z → 4 ≤ z.tags.length) → (∀ z ∈ s.sched.slots, near f.1 z → ours z) →
            (¬room folds.length → folds ≠ [] → r.actions = [] →
              ∃ v : State, t = rejectPlan tag v ∧
                v.piece? tag = some { r with lEst := some len, reason := some .slotFull } ∧
                (∀ u, u ≠ tag → v.piece? u = s.piece? u) ∧ dueKept v ∧
                v = { s with track := { s.track with pool := v.track.pool }, due := v.due }) ∧
            (room folds.length →
              (∃ made : List Slot,
                t.sched.slots.Perm (before ++ { y with tags := y.tags ++ [tag] } :: after ++ made) ∧
                (made.map fun y => (y.pos, y.action, y.drive)) = folds ∧
                (∀ y ∈ made, y.tags = [tag] ∧ y.passed = false) ∧ dueOf made ∧
                t.piece? tag =
                  some
                    { r with lEst := some len, actions := r.actions ++ (made.map fun y => y.place) ++ [y.place] }) ∧
              (∀ u, u ≠ tag → t.piece? u = s.piece? u) ∧
              t =
                { s with
                  track := { s.track with pool := t.track.pool }, sched := { s.sched with slots := t.sched.slots }
                  due := t.due }))) ∧
  (∀ (tag : Nat) (r : Piece) (s : State), PoolRight s.track → s.piece? tag = some r →
    (r.program = none → planExit tag s = rejectPlan tag s) ∧
    (r.undiverted = true → rejectPlan tag s = s) ∧
    (∀ pl ∈ r.actions, ∀ (y : Slot) (before after : List Slot), s.sched.slots = before ++ y :: after →
      (∀ z ∈ before, z.place ≠ pl) → y.place = pl → y.action = .reject → rejectPlan tag s = s) ∧
    (r.completion = none →
      let u := s.modPiece tag fun o => { o with undiverted := true }
      let passed : Prop := r.state = .folding ∧ 0 ≤ posDiff s.line.p (expiryPoint s.prog.settings .fold r)
      (passed → HoldsBack s .fold r → becomeUndiverted tag s = { u with heldExpiry := s.heldExpiry ++ [tag] }) ∧
        (passed → ¬HoldsBack s .fold r → becomeUndiverted tag s = complete tag .lost (some .fold) (latchFault .lost u)) ∧
        (¬passed → becomeUndiverted tag s = u)) ∧
    ∀ why : RejectReason,
      (r.reason ≠ none ∨ r.completion ≠ none → reasonArrives tag why s = s) ∧
      (r.reason = none → r.completion = none → r.state ≠ .folding →
        reasonArrives tag why s = s.modPiece tag fun o => { o with reason := some why }) ∧
      (r.reason = none → r.completion = none → r.state = .folding →
        (s.sched.slots.map (·.place)).Nodup →
          let taken (y : Slot) : Prop :=
            y.place ∈ r.actions ∧ (y.action = .fold1 ∨ y.action = .fold2 ∨ y.action = .cross)
          ∃ v : State, reasonArrives tag why s = rejectPlan tag v ∧
            (∃ actions : List Nat, v.piece? tag = some { r with reason := some why, actions := actions } ∧
              ∀ pl, pl ∈ actions ↔ pl ∈ r.actions ∧ ∀ y ∈ s.sched.slots, taken y → y.place ≠ pl) ∧
            (∀ u, u ≠ tag → v.piece? u = s.piece? u) ∧
            (∀ z, z ∈ v.sched.slots ↔
              ∃ y ∈ s.sched.slots, (¬taken y ∧ z = y) ∨ (taken y ∧ cancelledFor tag y = some z)) ∧
            v =
              { s with
                track := { s.track with pool := v.track.pool }, sched := { s.sched with slots := v.sched.slots } })) ∧
  ∀ (tag : Nat) (r : Piece) (x : Pos) (s : State), PoolRight s.track → s.piece? tag = some r → r.exitLead = some x →
    r.undiverted = false → (∀ pl ∈ r.actions, ∀ y ∈ s.sched.slots, y.place = pl → y.action ≠ .reject) →
      let q := posSub (posAdd x s.prog.settings.dRj) (lead s s.prog.settings.tRj)
      (posDiff q s.line.p < (s.prog.settings.arming : Int) →
        rejectPlan tag s = becomeUndiverted tag (latchFault .undiverted s)) ∧
      ((s.prog.settings.arming : Int) ≤ posDiff q s.line.p → s.sched.slots.length < 32 →
        ∃ place, (rejectPlan tag s).sched.slots.Perm
              ({ place := place, pos := q, action := .reject, drive := .rj, tags := [tag], passed := false } ::
                s.sched.slots) ∧
            (rejectPlan tag s).piece? tag = some { r with actions := r.actions ++ [place] } ∧
            (0 < s.prog.settings.arming → ∀ d, d ∈ (rejectPlan tag s).due ↔ d ∈ s.due ∧ d ≠ Due.fire place) ∧
            rejectPlan tag s =
              { s.modPiece tag (fun o => { o with actions := o.actions ++ [place] }) with
                sched := { s.sched with slots := (rejectPlan tag s).sched.slots }, due := (rejectPlan tag s).due }) ∧
      ((s.prog.settings.arming : Int) ≤ posDiff q s.line.p → 32 ≤ s.sched.slots.length →
        rejectPlan tag s =
          complete tag .lost (some .fold)
            (latchFault .noSlot (s.modPiece tag fun r => { r with reason := some (r.reason.getD .slotFull) })))

/-! ### The panel, the pulses and ESTOP -/

/-- A press of a load button loads an IDLE station that has an assignment and examines the stations, and is ignored otherwise
(R20); that LOAD_PRESS with the button active already changes nothing is inferred (log 25). KEY to SETUP makes the feed state
OFF, and KEY to RUN leaves it OFF (R38); that KEY to RUN leaves every other feed state as it is too, beside R37's "input
change", is inferred (log 28). LINE RUN lost in RUN makes PAUSE, and in PAUSE all run conditions holding makes RUN with an
examination (R37); that LINE_RUN_CHANGE sets the level it names, also one that stands already, and its rule is then applied, is
inferred (log 25). -/
def Obligations.PanelInputsAct : Prop :=
  ∀ s : State, s.powered = true →
    (∀ k : StationIx,
      let u : State := { s with inputs := { s.inputs with buttons := s.inputs.buttons.set k true } }
      (s.inputs.buttons[k] = true → exec (.loadPress k) s = .next s) ∧
      (s.inputs.buttons[k] = false →
        (∀ a, s.stations[k].state = .idle → s.stations[k].current = some a →
          exec (.loadPress k) s =
            .next (examine (u.modStation k fun x => { x with state := .loaded, snapshot := some a, waitReason := .none }))) ∧
        (s.stations[k].state ≠ .idle ∨ s.stations[k].current = none → exec (.loadPress k) s = .next u)) ∧
      exec (.loadButtonRelease k) s =
        .next { s with inputs := { s.inputs with buttons := s.inputs.buttons.set k false } }) ∧
    exec (.keyChange .setup) s =
      .next { s with inputs := { s.inputs with key := .setup }, seq := { s.seq with feed := .off } } ∧
    exec (.keyChange .run) s = .next { s with inputs := { s.inputs with key := .run } } ∧
    ∀ active : Bool,
      let u : State := { s with inputs := { s.inputs with lineRun := active } }
      (s.seq.feed = .run → active = false → exec (.lineRunChange active) s = .next (u.setFeed .pause)) ∧
      (s.seq.feed = .pause → runConditions u = true → exec (.lineRunChange active) s = .next (examine (u.setFeed .run))) ∧
      (¬(s.seq.feed = .run ∧ active = false) → ¬(s.seq.feed = .pause ∧ runConditions u = true) →
        exec (.lineRunChange active) s = .next u)

/-- The end of a REL pulse turns REL off and takes a RELEASING station out of RELEASING (R23); the end of another channel's
pulse turns it off (R113), and at the end of BF_b with a release held for bin b and ESTOP inactive, SR_b starts and the bin's
lot has a stack count of 0 (R115, R137). That the time is then at least the pulse end is the model's choice (log 1). -/
def Obligations.PulseEndsTurnTheirChannelsOff : Prop :=
  ∀ s : State, s.powered = true →
    (∀ k : StationIx,
      (s.sched.out.rel[k] = none → exec (.relPulseEnd k) s = .next s) ∧
      ∀ t, s.sched.out.rel[k] = some t →
        exec (.relPulseEnd k) s =
          .next
            { s with
              line := { s.line with now := max s.line.now t }
              sched := { s.sched with out := { s.sched.out with rel := s.sched.out.rel.set k none } }
              stations :=
                if s.stations[k].state = .releasing then s.stations.set k (leftReleasing s.stations[k]) else s.stations }) ∧
    ∀ c : OutChannel,
      (pulseOf s.sched.out c = none → exec (.pulseEnd c) s = .next s) ∧
      ∀ t, pulseOf s.sched.out c = some t →
        let off := turnOff s.sched.out c
        let u : State := { s with line := { s.line with now := max s.line.now t }, sched := { s.sched with out := off } }
        (pulseOf off c = none ∧ off.rel = s.sched.out.rel ∧ ∀ d, d ≠ c → pulseOf off d = pulseOf s.sched.out d) ∧
        (∀ b : Bin, c = .bf b → s.sched.held[b] = true → s.inputs.estop = false →
          exec (.pulseEnd c) s =
            .next
              { u with
                sched :=
                  { u.sched with
                    out :=
                      { off with
                        sr := off.sr.set b
                          (some (max (off.sr[b].getD 0) (max s.line.now t + s.prog.settings.wSr))) }
                    held := s.sched.held.set b false }
                lot :=
                  match s.lot.bins[b] with
                  | some i => { s.lot with lots := s.lot.lots.set i { s.lot.lots[i] with stackCount := 0 } }
                  | none => s.lot }) ∧
        ((∀ b : Bin, c = .bf b → s.sched.held[b] = false ∨ s.inputs.estop = true) → exec (.pulseEnd c) s = .next u)

/-- ESTOP taken as active: the feed state OFF, every output off, each RELEASING station out of RELEASING, and each slot that
was due to fire marked passed under stop (R25, R38, R124). That the slots marked are those in the list of events due, and that
no firing is due afterwards, is the model's choice and its inference (log 2, log 27); that ESTOP taken as active already
changes nothing is inferred (log 25). -/
def Obligations.EstopActiveStopsEverything : Prop :=
  ∀ s : State, s.powered = true →
    (s.inputs.estop = true → exec .estopActive s = .next s) ∧
    (s.inputs.estop = false →
      ∃ t, exec .estopActive s = .next t ∧
        (∀ k : StationIx, t.stations[k] =
          if s.stations[k].state = .releasing then leftReleasing s.stations[k] else s.stations[k]) ∧
        t =
          { s with
            inputs := { s.inputs with estop := true }, seq := { s.seq with feed := .off }, stations := t.stations
            sched :=
              { s.sched with
                out := Outputs.allOff
                slots := s.sched.slots.map fun y =>
                  if Due.fire y.place ∈ s.due ∧ 0 ≤ posDiff s.line.p y.pos then { y with passed := true } else y }
            due := s.due.filter fun d =>
              match d with
              | .firing => false
              | .fire _ => false
              | _ => true })

/-- ESTOP taken as inactive: every slot marked passed under stop is dropped, and feeding does not start (R38, R125). With no
slot marked, the held stack releases whose flap is closed start (R115), and with none held either nothing but the input
changes. One marked slot gives its notice and leaves the table, and its records take the consequence of its action (R126); of
several the first in table order is dropped so, and the release then goes on as from the state this leaves. That ESTOP_INACTIVE
without e-stop changes nothing is inferred (log 25), and so is that it leaves every feed state as it is, not OFF alone (log
28). -/
def Obligations.EstopInactiveDropsTheMarkedSlots : Prop :=
  ∀ s : State, s.powered = true →
    (s.inputs.estop = false → exec .estopInactive s = .next s) ∧
    (s.inputs.estop = true → s.sched.slots.length ≤ 32 →
      let u : State := { s with inputs := { s.inputs with estop := false } }
      (∃ t, exec .estopInactive s = .next t ∧ t.inputs = u.inputs ∧ t.line = s.line ∧ t.eyes = s.eyes ∧
        (∀ y ∈ t.sched.slots, y.passed = false) ∧ (s.seq.feed = .off → t.seq.feed = .off)) ∧
      ((∀ y ∈ s.sched.slots, y.passed = false) → ∃ t, exec .estopInactive s = .next t ∧ HeldStarted u t) ∧
      (∀ (y : Slot) (before after : List Slot), s.sched.slots = before ++ y :: after → y.passed = true →
        (∀ z ∈ before, z.passed = false) →
          let v :=
            y.tags.foldl
              (fun s tag =>
                match y.action with
                | .reject => becomeUndiverted tag (latchFault .undiverted s)
                | .drop => complete tag .lost (some .fold) (latchFault .lost s)
                | _ => reasonArrives tag .foldMissed s)
              ((notice
                  (match y.action with
                    | .fold1 => 64
                    | .fold2 => 65
                    | .cross => 66
                    | .reject => 67
                    | .drop => 68)
                  y.pos u).withoutSlot
                y)
          exec .estopInactive s = exec .estopInactive { v with inputs := { v.inputs with estop := true } }) ∧
      ((∀ b : Bin, s.sched.held[b] = false) →
        ((∀ y ∈ s.sched.slots, y.passed = false) → exec .estopInactive s = .next u) ∧
        ∀ (y : Slot) (before after : List Slot), s.sched.slots = before ++ y :: after → y.passed = true →
          (∀ z ∈ before ++ after, z.passed = false) →
            exec .estopInactive s =
              .next
                (y.tags.foldl
                  (fun s tag =>
                    match y.action with
                    | .reject => becomeUndiverted tag (latchFault .undiverted s)
                    | .drop => complete tag .lost (some .fold) (latchFault .lost s)
                    | _ => reasonArrives tag .foldMissed s)
                  ((notice
                      (match y.action with
                        | .fold1 => 64
                        | .fold2 => 65
                        | .cross => 66
                        | .reject => 67
                        | .drop => 68)
                      y.pos u).withoutSlot
                    y))))

/-! ### The grant step and the grant -/

/-- GRANT_STEP outside RUN, when it is due, 8 counts past the mark (R44): the mark is P, tails more than 1,000,000 counts
behind P are discarded (R43), and each LOADED station waits with FEED_STATE (R46); nothing else changes. When it is not due
nothing happens (log 2). -/
def Obligations.GrantStepOutsideRunOnlyGivesTheReason : Prop :=
  ∀ s : State, s.powered = true →
    (Due.grant ∉ s.due → exec .grantStep s = .next s) ∧
    (Due.grant ∈ s.due → posDiff s.line.p s.seq.mark = 8 → s.seq.feed ≠ .run →
      ∃ t, exec .grantStep s = .next t ∧
        (∀ k : StationIx, t.stations[k] =
          if s.stations[k].state = .loaded then { s.stations[k] with waitReason := .feedState } else s.stations[k]) ∧
        (∀ w : Lane, t.seq.tails[w] =
          match s.seq.tails[w] with
          | some x => if 1000000 < posDiff s.line.p x.pos then none else some x
          | none => none) ∧
        t =
          { s with
            stations := t.stations, seq := { s.seq with mark := s.line.p, tails := t.seq.tails }
            due := s.due.filter fun d => d ≠ Due.grant })

/-- The seven grant conditions in their order (R50 to R55): the waiting reason of a LOADED station with snapshot a is that of
the first condition that fails, and there is none exactly when all hold. An examination outside RUN gives each LOADED station
the reason FEED_STATE and grants nothing. One in RUN, with any number of LOADED stations (R46): the mark is P and aged tails
are discarded (R43); the starving stations, LOADED with a wait count of at least a starve_limit that is not 0, are checked
first, lowest number first, and the others after them in the rotation order from the scan start (R47, R57), each check as
Checked says, with a starving station that waits blocking the lanes of its footprint; the scan start becomes the station after
the last one granted (R48). -/
def Obligations.FirstFailingConditionIsTheReason : Prop :=
  (∀ (k : StationIx) (a : Assignment) (s : State), OneOpenLot s →
    (s.seq.feed ≠ .run → failing s k a = some .feedState) ∧
    (s.seq.feed = .run →
      (s.prog.programs[a.program] = none → failing s k a = some .program) ∧
      ∀ pr, s.prog.programs[a.program] = some pr →
        let foot := footprintOf pr.width k
        ((∃ w, hasLane foot w = true ∧ hasLane s.prog.settings.lanes w = false) → failing s k a = some .lane) ∧
        ((∀ w, hasLane foot w = true → hasLane s.prog.settings.lanes w = true) →
          ((∀ i : LotSlot, s.lot.lots[i].state ≠ .opened ∨ s.lot.lots[i].id ≠ a.lotId) → failing s k a = some .lot) ∧
          ∀ i : LotSlot, s.lot.lots[i].state = .opened → s.lot.lots[i].id = a.lotId →
            let noBin : Prop :=
              s.lot.lots[i].bin = none ∧ (∀ b : Bin, b.val < s.prog.settings.binsEnabled → s.lot.bins[b] ≠ none) ∧
                ∀ (b : Bin) (j : LotSlot), s.lot.bins[b] = some j → s.lot.lots[j].state ≠ .opened ∨ 0 < s.lot.lots[j].inFlight
            let e := posAdd (posAdd s.line.p (lead s s.prog.settings.tRel)) s.prog.settings.dStation[k]
            let laneGap : Prop :=
              ∀ w, hasLane foot w = true → ∀ x, s.seq.tails[w] = some x → (pr.gapMin : Int) ≤ posDiff e x.pos
            let lotGap : Prop :=
              ∀ w, hasLane s.prog.settings.lanes w = true → ∀ x, s.seq.tails[w] = some x →
                x.lotId = a.lotId ∨ (s.prog.settings.lotGap : Int) ≤ posDiff e x.pos
            (noBin → failing s k a = some .bin) ∧
            (¬noBin →
              (62 < s.track.pool.length → failing s k a = some .pool) ∧
              (s.track.pool.length ≤ 62 →
                (¬laneGap → failing s k a = some .laneGap) ∧
                (laneGap → ¬lotGap → failing s k a = some .lotGap) ∧ (laneGap → lotGap → failing s k a = none)))))) ∧
  ∀ (tails : Vector (Option Tail) 4) (s : State),
    (∀ w : Lane, tails[w] =
      match s.seq.tails[w] with
      | some x => if 1000000 < posDiff s.line.p x.pos then none else some x
      | none => none) →
    (s.seq.feed ≠ .run →
      ∃ stations : Vector Station 4,
        (∀ k : StationIx, stations[k] =
          if s.stations[k].state = .loaded then { s.stations[k] with waitReason := .feedState } else s.stations[k]) ∧
        examine s = { s with stations := stations, seq := { s.seq with mark := s.line.p, tails := tails } }) ∧
    (s.seq.feed = .run →
      let starving (k : StationIx) : Bool :=
        decide (s.stations[k].state = .loaded ∧ 0 < s.prog.settings.starveLimit ∧
          s.prog.settings.starveLimit ≤ s.stations[k].waitCount)
      let first : List StationIx := [0, 1, 2, 3].filter starving
      let then_ := (rotationFrom s.prog.settings.rotation s.seq.scanStart).filter fun k => !starving k
      ∃ x : Exam,
        Checks ((first.map fun k => (k, true)) ++ then_.map fun k => (k, false))
          { state := { s with seq := { s.seq with mark := s.line.p, tails := tails } }, blocked := 0#4, last := none } x ∧
        examine s =
          { x.state with
            seq :=
              { x.state.seq with
                scanStart :=
                  match x.last with
                  | some k => k + 1
                  | none => s.seq.scanStart } })

/-- The grant, as one act (R22, R56, R63): at a grant step in RUN, with station k alone LOADED and every condition holding for
a lot that is bound, a FED record goes to the FEED zone with its new tag, which is the tag counter's value if no record in use
holds that and otherwise the first value after it which none holds (R59), REL_k is on for w_rel from the present time, the
station is RELEASING, the lot's and the program's counts rise, the footprint lanes take the new tail, and the scan start is the
next station. The grant of a bound lot in any state does so as Granted says, with the wait count of every other LOADED station
one higher, at most 15 (R24). The grant of an unbound lot is that of the lot bound first: to the free usable bin of lowest
number (R132), else to the bin of the lot it evicts, the OPEN lot with nothing in flight whose last use lies furthest behind P,
of several the one of the lowest bin, which is unbound with its stack release (R133, R138). That lots and bins agree is a
premise (AccountsRight). -/
def Obligations.GrantReleasesThePiece : Prop :=
  (∀ (k : StationIx) (a : Assignment) (pr : ProgramRec) (i : LotSlot) (s : State), s.powered = true → PoolRight s.track →
    Due.grant ∈ s.due → posDiff s.line.p s.seq.mark = 8 → s.seq.feed = .run →
    (∀ w x, s.seq.tails[(w : Lane)] = some x → posDiff s.line.p x.pos ≤ 1000000) →
    (∀ j : StationIx, s.stations[j].state = .loaded ↔ j = k) → s.stations[k].snapshot = some a →
    s.prog.programs[a.program] = some pr → OneOpenLot s → s.lot.lots[i].state = .opened → s.lot.lots[i].id = a.lotId →
    s.lot.lots[i].bin.isSome → failing s k a = none →
      let e := posAdd (posAdd s.line.p (lead s s.prog.settings.tRel)) s.prog.settings.dStation[k]
      ∃ tag t, exec .grantStep s = .next t ∧ GivesTag s.track tag ∧
        t.track.pool =
          s.track.pool ++
            [{ tag := tag, take := s.track.takeCounter, kind := .fed, state := .released, station := some k,
               program := some a.program, lot := some { slot := i, id := a.lotId }, footprint := footprintOf pr.width k,
               grantPos := some s.line.p, ePred := some e, entrySeen := 0#4, entryEnded := 0#4, entryLead := none,
               entryLength := none, lEst := none, exitSeen := 0#4, exitEnded := 0#4, exitLead := none, exitLength := none,
               stackerLead := none, bin := none, reason := none, undiverted := false,
               route := if pr.stack then .stack else .back, actions := [], completion := none }] ∧
        Joined tag .feed (footprintOf pr.width k) s.track t.track ∧
        t.track =
          { s.track with
            pool := t.track.pool, feedZone := t.track.feedZone, entryLists := t.track.entryLists
            tagCounter := tagAfter tag 1, takeCounter := s.track.takeCounter + 1#32 } ∧
        (∀ w : Lane, t.seq.tails[w] =
          if hasLane (footprintOf pr.width k) w = true then
            some { pos := posAdd e pr.nominal, lotId := a.lotId, tag := tag }
          else s.seq.tails[w]) ∧
        t =
          { s with
            due := s.due.filter fun d => d ≠ Due.grant
            stations := s.stations.set k
              { s.stations[k] with state := .releasing, snapshot := none, waitCount := 0, waitReason := .none }
            sched :=
              { s.sched with
                out :=
                  { s.sched.out with rel := s.sched.out.rel.set k (some (s.line.now + s.prog.settings.wRel)) } }
            seq := { s.seq with mark := s.line.p, tails := t.seq.tails, scanStart := k + 1 }
            track := t.track
            lot :=
              { s.lot with
                lots := s.lot.lots.set i
                  { s.lot.lots[i] with
                    released := min 65535 (s.lot.lots[i].released + 1)
                    inFlight := min 65535 (s.lot.lots[i].inFlight + 1)
                    lastUse := s.line.p } }
            prog :=
              { s.prog with
                inFlight := s.prog.inFlight.set a.program (s.prog.inFlight[a.program] + 1) } }) ∧
  ∀ (k : StationIx) (a : Assignment) (pr : ProgramRec) (i : LotSlot) (s : State), PoolRight s.track →
    (s.lot.lots[i].bin.isSome → ∃ tag e, Granted k a pr i s (grant k a pr i s) tag e) ∧
    (s.lot.lots[i].bin = none →
      let bound (v : State) (b : Bin) : State :=
        { v with
          lot := { lots := v.lot.lots.set i { v.lot.lots[i] with bin := some b }, bins := v.lot.bins.set b (some i) } }
      (∀ b : Bin, b.val < s.prog.settings.binsEnabled → s.lot.bins[b] = none → (∀ d : Bin, d < b → s.lot.bins[d] ≠ none) →
        grant k a pr i s = grant k a pr i (bound s b)) ∧
      ((∀ b : Bin, b.val < s.prog.settings.binsEnabled → s.lot.bins[b] ≠ none) →
        (∀ (j : LotSlot) (b : Bin), s.lot.lots[j].bin = some b ↔ s.lot.bins[b] = some j) →
          ∀ (j : LotSlot) (b : Bin), Evicts s j b → grant k a pr i s = grant k a pr i (bound (s.unbound j b) b)))

/-! ### What falls due -/

/-- WINDOW_EXPIRY of a stage, for the first record of its zone whose expiry is due and which still waits (R92): LOST is latched
and the record completes LOST at the stage; an eye that can still accept a lead in the record's window at this edge holds the
expiry back (R94; log 15). With no expiry due nothing happens (log 2). -/
def Obligations.WindowExpiryLosesTheRecord : Prop :=
  ∀ (st : Stage) (s : State), s.powered = true →
    ((∀ tag, Due.expiry tag ∉ s.due) → exec (.windowExpiry st) s = .next s) ∧
    ∀ (tag : Nat) (r : Piece) (before after : List Nat),
      s.track.zone (stageZone st) = before ++ tag :: after → (∀ u ∈ before, Due.expiry u ∉ s.due) → Due.expiry tag ∈ s.due →
      s.piece? tag = some r → stillWaits st r = true → expiryPoint s.prog.settings st r = s.line.p →
        let u : State := { s with due := s.due.filter fun d => d ≠ Due.expiry tag }
        let held : Prop := ∃ e ∈ waitEyes st r, (s.eye e).state = .pending ∧
          inWindow s.prog.settings st r (s.eye e).cLead = true ∧
          posDiff s.line.p (s.eye e).cLead = (s.prog.settings.eyeMin : Int)
        (held → exec (.windowExpiry st) s = .next { u with heldExpiry := s.heldExpiry ++ [tag] }) ∧
        (¬held → exec (.windowExpiry st) s = .next (complete tag .lost (some st) (latchFault .lost u)))

/-- The firing of the first slot in table order that is due (R120): it leaves the table, and each channel that it drives, PF_w
for each lane w of its set with w_pf, XF with w_xf, RJ with w_rj or BF_b with w_bin, is on until the later of its present end
and the present time plus that width, every other channel being as before (R113, R114, R121 to R123; State.pulsed); a FOLD or
CROSS slot does no more (R121), a REJECT slot completes its record REJECTED or, on route RETURN, RETURNED (R122), and a DROP
slot counts the drop in its lot, asks for a stack release at a full stack (R115), and completes its record STACKED (R123,
R136). With ESTOP active nothing fires (R124). That nothing fires when no firing is due is the model's choice (log 2), and that
a firing row of another action than the first due slot's changes nothing is inferred (log 27). -/
def Obligations.SlotsFireAsTheirAction : Prop :=
  ∀ s : State, s.powered = true →
    (s.inputs.estop = true ∨ (∀ place, Due.fire place ∉ s.due) →
      exec .foldSlotFire s = .next s ∧ exec .rejectSlotFire s = .next s ∧ exec .dropSlotFire s = .next s) ∧
    ∀ (y : Slot) (before after : List Slot), s.inputs.estop = false → s.sched.slots = before ++ y :: after →
      (∀ z ∈ before, Due.fire z.place ∉ s.due) → Due.fire y.place ∈ s.due → 0 ≤ posDiff s.line.p y.pos →
        (y.action = .fold1 ∨ y.action = .fold2 ∨ y.action = .cross →
          exec .foldSlotFire s = .next (s.fired y) ∧ exec .rejectSlotFire s = .next s ∧ exec .dropSlotFire s = .next s) ∧
        (∀ tag r, y.tags = [tag] → s.piece? tag = some r → y.action = .reject →
          exec .rejectSlotFire s = .next (complete tag (if r.route = .back then .returned else .rejected) none (s.fired y)) ∧
            exec .foldSlotFire s = .next s ∧ exec .dropSlotFire s = .next s) ∧
        ∀ tag r (l : LotRef) b, y.tags = [tag] → s.piece? tag = some r → y.action = .drop → y.drive = .bf b →
          r.lot = some l →
            let count := if s.lot.lots[l.slot].stackCount < 255 then s.lot.lots[l.slot].stackCount + 1 else 255
            let u := (s.fired y).modLot l.slot fun x => { x with stackCount := count, lastUse := s.line.p }
            exec .dropSlotFire s =
                .next
                  (complete tag .stacked none
                    (if s.lot.lots[l.slot].stackSize ≤ count then u.releaseAsked b else u)) ∧
              exec .foldSlotFire s = .next s ∧ exec .rejectSlotFire s = .next s

/-- IDLE_UNBIND, when it is due for a bound OPEN lot with nothing in flight and idle_distance run past its last use: the lot is
unbound and the stations are examined (R135); when it is not due nothing happens (log 2). Unbinding asks for a stack release if
the stack count is above 0, and then sets the count to 0 and frees the bin (R138); a release is merged into one already held,
held under ESTOP or while BF_b is on, and started otherwise (R115). -/
def Obligations.IdleUnbindFreesTheBin : Prop :=
  ∀ (i : LotSlot) (s : State), s.powered = true →
    (Due.idle i ∉ s.due → exec (.idleUnbind i) s = .next s) ∧
    ∀ b : Bin, Due.idle i ∈ s.due → s.lot.lots[i].state = .opened → s.lot.lots[i].bin = some b → s.lot.lots[i].inFlight = 0 →
      0 < s.prog.settings.idleDistance → (s.prog.settings.idleDistance : Int) ≤ posDiff s.line.p s.lot.lots[i].lastUse →
        let u : State := { s with due := s.due.filter fun d => d ≠ Due.idle i }
        let asked : State :=
          if s.lot.lots[i].stackCount = 0 ∨ s.sched.held[b] = true then u
          else if s.inputs.estop = true ∨ s.sched.out.bf[b].isSome then
            { u with sched := { s.sched with held := s.sched.held.set b true } }
          else
            { u with
              sched :=
                { s.sched with
                  held := s.sched.held.set b false
                  out :=
                    { s.sched.out with
                      sr := s.sched.out.sr.set b
                        (some (max (s.sched.out.sr[b].getD 0) (s.line.now + s.prog.settings.wSr))) } }
              lot :=
                match s.lot.bins[b] with
                | some j => { s.lot with lots := s.lot.lots.set j { s.lot.lots[j] with stackCount := 0 } }
                | none => s.lot }
        exec (.idleUnbind i) s =
          .next
            (examine
              { asked with
                lot :=
                  { lots := asked.lot.lots.set i { asked.lot.lots[i] with stackCount := 0, bin := none }
                    bins := s.lot.bins.set b none } })

/-! ### Tables -/

/-- The tables and definitions of the manual that the other statements use: signed differences of positions (R2), the enabled
eyes, K with no lane (R17), the run conditions (R35) and a fault that holds the feed (R36), the blocking condition by its table
(R40), the rotation orders (R47), the footprints (R49), the keys of the zones (R66), the windows and expiry points (R77), open
lanes (R78), the records that absorb an entry or exit edge (R80, R85), that expect the stacker (R89) and that wait at an eye
group (R92), the eyes that can hold an expiry back (R94), the pack length and the cross offset for 0, 1 and 2 folds (R99), the
pulse end of a retriggered channel (R114) and the slots that are not REJECT (R116). With them stand the plain readings and
updates of the state that the statements are written with: one lane of a set, one eye, station, lot slot, piece record or
channel, and the buffer after a frame from WAITING (R169). -/
def Obligations.TablesOfTheManual : Prop :=
  (∀ k : StationIx, (rotationFrom .sequential k).map (·.val) = [k.val, (k.val + 1) % 4, (k.val + 2) % 4, (k.val + 3) % 4]) ∧
  [0, 1, 2, 3].map (fun k : StationIx => (rotationFrom .crossed k).map (·.val)) =
    [[0, 1, 2, 3], [1, 0, 3, 2], [2, 3, 0, 1], [3, 2, 1, 0]] ∧
  [0, 1, 2, 3].map (footprintOf .single) = [0b0001#4, 0b0010#4, 0b0100#4, 0b1000#4] ∧
  [0, 1, 2, 3].map (footprintOf .double) = [0b0011#4, 0b0011#4, 0b1100#4, 0b1100#4] ∧
  [0, 1, 2, 3].map (footprintOf .full) = [0b1111#4, 0b1111#4, 0b1111#4, 0b1111#4] ∧
  (∀ now w : Nat, retrigger now w none = some (now + w) ∧ ∀ e, retrigger now w (some e) = some (max e (now + w))) ∧
  (∀ len f g : Nat,
    packLength len [] = len ∧ packLength len [f] = max (len * f / 256) (len - len * f / 256) ∧
      packLength len [f, g] =
        max (len * f / 256) (max (len * g / 256 - len * f / 256) (len - len * g / 256)) ∧
      ∀ folds, packLength len folds ≤ 2 * crossOffset len folds ∧ 2 * crossOffset len folds ≤ packLength len folds + 1) ∧
  -- positions and lane sets
  (∀ (a b : Pos) (n : Nat),
    (-2147483648 ≤ posDiff a b ∧ posDiff a b < 2147483648 ∧ BitVec.ofInt 32 (posDiff a b) = a - b) ∧
      (posAdd a n).toNat = (a.toNat + n) % 4294967296 ∧ posAdd (posSub a n) n = a) ∧
  (∀ (seen ended : LaneSet) (w x : Lane),
    hasLane seen w = seen.getLsbD w.val ∧ hasLane (laneBit w) x = decide (x = w) ∧
      (laneOpen seen ended w = true ↔ hasLane seen w = true ∧ hasLane ended w = false)) ∧
  -- windows, expiry points and what a record waits for
  (∀ (c : LineSettings) (r : Piece) (q : Pos) (st : Stage),
    let at_ (pred : Pos) (early late : Nat) : Prop :=
      (inWindow c st r q = true ↔ 0 ≤ posDiff q (posSub pred early) ∧ 0 ≤ posDiff (posAdd pred late) q) ∧
        expiryPoint c st r = posAdd (posAdd pred late) c.eyeMin
    match st with
    | .feed => at_ (r.ePred.getD 0#32) c.tolEntryEarly c.tolEntryLate
    | .iron => at_ (posAdd (r.entryLead.getD 0#32) c.lIron) c.tolExitEarly c.tolExitLate
    | .fold => at_ (posAdd (r.exitLead.getD 0#32) c.dStk) c.tolStkEarly c.tolStkLate) ∧
  (∀ (c : LineSettings) (r : Piece),
    [.feed, .iron, .fold, .drop].map (fun z => zoneKey c z r) =
      [r.ePred.getD 0#32, posAdd (r.entryLead.getD 0#32) c.lIron, posAdd (r.exitLead.getD 0#32) c.dStk,
        r.stackerLead.getD 0#32]) ∧
  (∀ (c : LineSettings) (w : Lane) (q : Pos) (r : Piece),
    (absorbsEntry c w q r = true ↔
      r.kind = .fed ∧ r.state = .ironing ∧ hasLane r.footprint w = true ∧ hasLane r.entrySeen w = false ∧
        (∃ x, laneOpen r.entrySeen r.entryEnded x = true) ∧ 0 ≤ posDiff q (r.entryLead.getD 0#32) ∧
        inWindow c .feed r q = true) ∧
    (absorbsExit c w q r = true ↔
      r.kind = .fed ∧ r.state = .folding ∧ hasLane r.footprint w = true ∧ hasLane r.exitSeen w = false ∧
        (∃ x, laneOpen r.exitSeen r.exitEnded x = true) ∧ 0 ≤ posDiff q (r.exitLead.getD 0#32) ∧
        inWindow c .iron r q = true)) ∧
  (∀ r : Piece,
    (expectsStacker r = true ↔ r.state = .folding ∧ (r.undiverted = true ∨ (r.route = .stack ∧ r.reason = none))) ∧
    (stillWaits .feed r = true ↔ r.completion = none ∧ r.state = .released) ∧
    (stillWaits .iron r = true ↔ r.completion = none ∧ r.state = .ironing) ∧
    (stillWaits .fold r = true ↔ r.completion = none ∧ expectsStacker r = true) ∧
    (∀ e : Eye, e ∈ waitEyes .feed r ↔ ∃ w, e = .n w ∧ hasLane r.footprint w = true) ∧
    (∀ e : Eye, e ∈ waitEyes .iron r ↔ ∃ w, e = .x w ∧ hasLane r.footprint w = true) ∧
    ∀ e : Eye, e ∈ waitEyes .fold r ↔ e = .k) ∧
  [.feed, .iron, .fold].map stageZone = [.feed, .iron, .fold] ∧
  (∀ (lanes : LaneSet) (w : Lane),
    eyeEnabled lanes (.n w) = hasLane lanes w ∧ eyeEnabled lanes (.x w) = hasLane lanes w ∧ eyeEnabled lanes .k = true) ∧
  (∀ l : List Slot, plainCount l = l.countP fun y => decide (y.action ≠ .reject)) ∧
  -- the run conditions and the blocking condition
  (∀ s : State,
    let v := (25 : Int) * (s.line.hist[0] + s.line.hist[1] + s.line.hist[2] + s.line.hist[3])
    (runConditions s = true ↔
      s.inputs.lineRun = true ∧ s.line.fullWindows = 4 ∧ s.prog.settings.speedMin ≤ v ∧ s.inputs.estop = false ∧
        s.inputs.key = .run ∧ s.prog.valid = true) ∧
    (faultHolds s = true ↔ s.latch.latched = true ∧ s.prog.settings.faultMode = .hold) ∧
    blocking s =
      ((([(s.inputs.estop, .estop), (decide (s.inputs.key = .setup), .key), (!s.prog.valid, .settings),
          (!s.inputs.lineRun, .lineRun), (decide (s.line.fullWindows ≠ 4), .unsettled),
          (decide (v < s.prog.settings.speedMin), .slow),
          (s.latch.latched && decide (s.prog.settings.faultMode = .hold), .fault)] :
            List (Bool × Blocking)).find? fun row => row.1).elim .none fun row => row.2)) ∧
  -- readings and updates of one part of the state
  [.n 0, .n 1, .n 2, .n 3, .x 0, .x 1, .x 2, .x 3, .k].map eyeIx = [0, 1, 2, 3, 4, 5, 6, 7, 8] ∧
  (∀ (o : Outputs) (w : Lane) (b : Bin),
    [.pf w, .xf, .rj, .bf b, .sr b].map (pulseOf o) = [o.pf[w], o.xf, o.rj, o.bf[b], o.sr[b]]) ∧
  (∀ t : TrackStore, [.feed, .iron, .fold, .drop].map t.zone = [t.feedZone, t.ironZone, t.foldZone, t.dropZone]) ∧
  (∀ (s : State) (e : Eye) (f : EyeRec → EyeRec),
    s.eye e = s.eyes[eyeIx e] ∧ s.modEye e f = { s with eyes := s.eyes.set (eyeIx e) (f s.eyes[eyeIx e]) }) ∧
  (∀ (s : State) (k : StationIx) (f : Station → Station),
    s.modStation k f = { s with stations := s.stations.set k (f s.stations[k]) }) ∧
  (∀ (s : State) (i : LotSlot) (f : Lot → Lot),
    s.modLot i f = { s with lot := { s.lot with lots := s.lot.lots.set i (f s.lot.lots[i]) } }) ∧
  (∀ (s : State) (tag : Nat) (f : Piece → Piece),
    s.piece? tag = s.track.pool.find? (fun r => decide (r.tag = tag)) ∧
      s.modPiece tag f =
        { s with track := { s.track with pool := s.track.pool.map fun r => if r.tag = tag then f r else r } }) ∧
  (∀ (s : State) (x : FeedState), s.setFeed x = { s with seq := { s.seq with feed := x } }) ∧
  ∀ (s : State) (addr code : Byte) (body : List Byte),
    s.received addr code body = { s with link := { s.link with rx := .skipping, buffer := frameBytes addr code body } }

/-! ### What every command keeps -/

/-- Every step keeps the log within 32 entries, full while anything waits, with running entry numbers (R156, R159), and the
slot table within 32 slots of which at most 28 are not REJECT, in ascending order of position and each slot in a place of its
own (R116), as long as no slot lies as far from P as the signed difference of R2 can tell. -/
def Obligations.StepKeepsTheLogAndTheSlotTable : Prop :=
  ∀ s t : State, step s = .next t →
    (LogBounded s → WaitingMeansFull s → NumbersRun s → LogBounded t ∧ WaitingMeansFull t ∧ NumbersRun t) ∧
      (SlotsBounded s → SlotsBounded t) ∧ (SlotsOrdered s → SlotsNear s → SlotsOrdered t)

/-- Every step keeps the stop, the feed state and the latch right: no output on and no feeding under ESTOP (R25, R124), RUN
only while nothing blocks, feeding only at KEY RUN (R35 to R40), the first reason and the set as the flag says (R163). -/
def Obligations.StepKeepsTheStopTheFeedAndTheLatch : Prop :=
  ∀ s t : State, step s = .next t →
    (StopHolds s → StopHolds t) ∧ (FeedRight s → FeedRight t) ∧ (LatchRight s.latch → LatchRight t.latch)

/-- Every step keeps the station records right (R19), and a station RELEASING exactly while its REL output is on (R22, R23). -/
def Obligations.StepKeepsTheStations : Prop := ∀ s t : State, StationsRight s → step s = .next t → StationsRight t

/-- Every step keeps the records in use at most 64 with distinct tags (R58, R59), and each zone and lane list as the states of
the records say (R65 to R67), in ascending order of its key and at equal keys of the take number (R66, R67), as long as the
keys lie near P and the take numbers near their counter, before the step and after it. -/
def Obligations.StepKeepsTheZones : Prop :=
  ∀ s t : State, PoolRight s.track → step s = .next t →
    PoolRight t.track ∧
      (ZonesRight s.track → ZonesRight t.track ∧ (ZonesOrdered s → KeysNear s → KeysNear t → ZonesOrdered t))

/-- Every step keeps the accounts: pieces are neither lost nor counted twice between the records, the lots, the programs and
the order of pending writes (R128 to R130, R132, R140, R148, R159). That the other fields of a FREE lot slot are then 0, a
clause of AccountsRight, is the model's choice (log 22). -/
def Obligations.StepKeepsTheAccounts : Prop :=
  ∀ s t : State, PoolRight s.track → ZonesRight s.track → AccountsRight s → step s = .next t → AccountsRight t

/-- The values after reset of a station (R34), of the Track Store (R59, R75), of the outputs (R127) and of a FREE lot slot,
which other statements name; and the state right after reset meets every invariant and is what POWER_ON makes of a module
without supply whose store is empty, with the samples that the model chooses for it (log 6). That the other fields of a FREE
lot slot are 0 is the model's choice (log 22). -/
def Obligations.ResetMeetsTheInvariants : Prop :=
  Station.initial =
    { state := .idle, current := none, next := .absent, snapshot := none, disablePending := false, waitCount := 0,
      waitReason := .none } ∧
  TrackStore.initial =
    { pool := [], tagCounter := 1, takeCounter := 0#32, feedZone := [], ironZone := [], foldZone := [], dropZone := [],
      entryLists := #v[[], [], [], []], exitLists := #v[[], [], [], []] } ∧
  Outputs.allOff =
    { rel := #v[none, none, none, none], pf := #v[none, none, none, none], xf := none, rj := none,
      bf := #v[none, none, none, none, none, none], sr := #v[none, none, none, none, none, none] } ∧
  Lot.free =
    { state := .free, id := 0, stackSize := 0, bin := none, lastUse := 0#32, released := 0, stacked := 0, returned := 0,
      rejected := 0, lost := 0, purged := 0, inFlight := 0, stackCount := 0, summaryPending := false } ∧
  exec
      (.powerOn
        { encA := false, encB := false, dark := Vector.replicate 9 false, buttons := Vector.replicate 4 false, key := .setup,
          lineRun := false, estop := false, address := 1, rate := .r19200 })
      { State.reset with powered := false } = .next State.reset ∧
  LogBounded State.reset ∧ WaitingMeansFull State.reset ∧ NumbersRun State.reset ∧ SlotsBounded State.reset ∧
    StopHolds State.reset ∧ FeedRight State.reset ∧ LatchRight State.reset.latch ∧ StationsRight State.reset ∧
    PoolRight State.reset.track ∧ ZonesRight State.reset.track ∧ ZonesOrdered State.reset ∧ SlotsOrdered State.reset ∧
    AccountsRight State.reset ∧ QuietOwesNothing State.reset
end

