-- ==== Sys2Proof/Laws/State.lean ====
section
/-! SUPPORT. One lemma for each field of State and each update of State, so that no later proof unfolds a record update; and the
elements of a table after a change of one of them. -/

namespace Sys2Proof.Machine

open Sys2Proof

/-! ### One element of a table -/

/-- An element of a table after a change of element i. -/
@[simp] theorem vmod_getElem {α : Type} {n : Nat} (v : Vector α n) (i : Fin n) (f : α → α) (j : Nat) (h : j < n) :
    (vmod v i f)[j] = if i.val = j then f v[j] else v[j] := by
  simp only [vmod, Vector.getElem_set]
  split
  · next e => subst e; rfl
  · rfl

theorem vmod_get {α : Type} {n : Nat} (v : Vector α n) (i j : Fin n) (f : α → α) :
    (vmod v i f)[j] = if i = j then f v[j] else v[j] := by
  simp [Fin.ext_iff]

theorem vmod_get_same {α : Type} {n : Nat} (v : Vector α n) (i : Fin n) (f : α → α) : (vmod v i f)[i] = f v[i] := by
  simp

theorem vmod_get_other {α : Type} {n : Nat} (v : Vector α n) {i j : Fin n} (f : α → α) (h : i ≠ j) :
    (vmod v i f)[j] = v[j] := by
  rw [vmod_get, if_neg h]

/-! ### modEye -/

@[simp] theorem modEye_powered (s : State) (e : Eye) (f : EyeRec → EyeRec) : (s.modEye e f).powered = s.powered := rfl
@[simp] theorem modEye_line (s : State) (e : Eye) (f : EyeRec → EyeRec) : (s.modEye e f).line = s.line := rfl
@[simp] theorem modEye_eyes (s : State) (e : Eye) (f : EyeRec → EyeRec) :
    (s.modEye e f).eyes = vmod s.eyes (eyeIx e) f := rfl
@[simp] theorem modEye_stations (s : State) (e : Eye) (f : EyeRec → EyeRec) : (s.modEye e f).stations = s.stations := rfl
@[simp] theorem modEye_inputs (s : State) (e : Eye) (f : EyeRec → EyeRec) : (s.modEye e f).inputs = s.inputs := rfl
@[simp] theorem modEye_seq (s : State) (e : Eye) (f : EyeRec → EyeRec) : (s.modEye e f).seq = s.seq := rfl
@[simp] theorem modEye_track (s : State) (e : Eye) (f : EyeRec → EyeRec) : (s.modEye e f).track = s.track := rfl
@[simp] theorem modEye_sched (s : State) (e : Eye) (f : EyeRec → EyeRec) : (s.modEye e f).sched = s.sched := rfl
@[simp] theorem modEye_lot (s : State) (e : Eye) (f : EyeRec → EyeRec) : (s.modEye e f).lot = s.lot := rfl
@[simp] theorem modEye_prog (s : State) (e : Eye) (f : EyeRec → EyeRec) : (s.modEye e f).prog = s.prog := rfl
@[simp] theorem modEye_log (s : State) (e : Eye) (f : EyeRec → EyeRec) : (s.modEye e f).log = s.log := rfl
@[simp] theorem modEye_latch (s : State) (e : Eye) (f : EyeRec → EyeRec) : (s.modEye e f).latch = s.latch := rfl
@[simp] theorem modEye_link (s : State) (e : Eye) (f : EyeRec → EyeRec) : (s.modEye e f).link = s.link := rfl
@[simp] theorem modEye_due (s : State) (e : Eye) (f : EyeRec → EyeRec) : (s.modEye e f).due = s.due := rfl
@[simp] theorem modEye_heldExpiry (s : State) (e : Eye) (f : EyeRec → EyeRec) :
    (s.modEye e f).heldExpiry = s.heldExpiry := rfl
@[simp] theorem modEye_pending (s : State) (e : Eye) (f : EyeRec → EyeRec) : (s.modEye e f).pending = s.pending := rfl

/-! ### modStation -/

@[simp] theorem modStation_powered (s : State) (k : StationIx) (f : Station → Station) :
    (s.modStation k f).powered = s.powered := rfl
@[simp] theorem modStation_line (s : State) (k : StationIx) (f : Station → Station) : (s.modStation k f).line = s.line := rfl
@[simp] theorem modStation_eyes (s : State) (k : StationIx) (f : Station → Station) : (s.modStation k f).eyes = s.eyes := rfl
@[simp] theorem modStation_stations (s : State) (k : StationIx) (f : Station → Station) :
    (s.modStation k f).stations = vmod s.stations k f := rfl
@[simp] theorem modStation_inputs (s : State) (k : StationIx) (f : Station → Station) :
    (s.modStation k f).inputs = s.inputs := rfl
@[simp] theorem modStation_seq (s : State) (k : StationIx) (f : Station → Station) : (s.modStation k f).seq = s.seq := rfl
@[simp] theorem modStation_track (s : State) (k : StationIx) (f : Station → Station) :
    (s.modStation k f).track = s.track := rfl
@[simp] theorem modStation_sched (s : State) (k : StationIx) (f : Station → Station) :
    (s.modStation k f).sched = s.sched := rfl
@[simp] theorem modStation_lot (s : State) (k : StationIx) (f : Station → Station) : (s.modStation k f).lot = s.lot := rfl
@[simp] theorem modStation_prog (s : State) (k : StationIx) (f : Station → Station) : (s.modStation k f).prog = s.prog := rfl
@[simp] theorem modStation_log (s : State) (k : StationIx) (f : Station → Station) : (s.modStation k f).log = s.log := rfl
@[simp] theorem modStation_latch (s : State) (k : StationIx) (f : Station → Station) :
    (s.modStation k f).latch = s.latch := rfl
@[simp] theorem modStation_link (s : State) (k : StationIx) (f : Station → Station) : (s.modStation k f).link = s.link := rfl
@[simp] theorem modStation_due (s : State) (k : StationIx) (f : Station → Station) : (s.modStation k f).due = s.due := rfl
@[simp] theorem modStation_heldExpiry (s : State) (k : StationIx) (f : Station → Station) :
    (s.modStation k f).heldExpiry = s.heldExpiry := rfl
@[simp] theorem modStation_pending (s : State) (k : StationIx) (f : Station → Station) :
    (s.modStation k f).pending = s.pending := rfl

/-! ### modLot -/

@[simp] theorem modLot_powered (s : State) (i : LotSlot) (f : Lot → Lot) : (s.modLot i f).powered = s.powered := rfl
@[simp] theorem modLot_line (s : State) (i : LotSlot) (f : Lot → Lot) : (s.modLot i f).line = s.line := rfl
@[simp] theorem modLot_eyes (s : State) (i : LotSlot) (f : Lot → Lot) : (s.modLot i f).eyes = s.eyes := rfl
@[simp] theorem modLot_stations (s : State) (i : LotSlot) (f : Lot → Lot) : (s.modLot i f).stations = s.stations := rfl
@[simp] theorem modLot_inputs (s : State) (i : LotSlot) (f : Lot → Lot) : (s.modLot i f).inputs = s.inputs := rfl
@[simp] theorem modLot_seq (s : State) (i : LotSlot) (f : Lot → Lot) : (s.modLot i f).seq = s.seq := rfl
@[simp] theorem modLot_track (s : State) (i : LotSlot) (f : Lot → Lot) : (s.modLot i f).track = s.track := rfl
@[simp] theorem modLot_sched (s : State) (i : LotSlot) (f : Lot → Lot) : (s.modLot i f).sched = s.sched := rfl
@[simp] theorem modLot_lot (s : State) (i : LotSlot) (f : Lot → Lot) :
    (s.modLot i f).lot = { s.lot with lots := vmod s.lot.lots i f } := rfl
@[simp] theorem modLot_prog (s : State) (i : LotSlot) (f : Lot → Lot) : (s.modLot i f).prog = s.prog := rfl
@[simp] theorem modLot_log (s : State) (i : LotSlot) (f : Lot → Lot) : (s.modLot i f).log = s.log := rfl
@[simp] theorem modLot_latch (s : State) (i : LotSlot) (f : Lot → Lot) : (s.modLot i f).latch = s.latch := rfl
@[simp] theorem modLot_link (s : State) (i : LotSlot) (f : Lot → Lot) : (s.modLot i f).link = s.link := rfl
@[simp] theorem modLot_due (s : State) (i : LotSlot) (f : Lot → Lot) : (s.modLot i f).due = s.due := rfl
@[simp] theorem modLot_heldExpiry (s : State) (i : LotSlot) (f : Lot → Lot) : (s.modLot i f).heldExpiry = s.heldExpiry := rfl
@[simp] theorem modLot_pending (s : State) (i : LotSlot) (f : Lot → Lot) : (s.modLot i f).pending = s.pending := rfl

/-! ### setBin -/

@[simp] theorem setBin_powered (s : State) (b : Bin) (x : Option LotSlot) : (s.setBin b x).powered = s.powered := rfl
@[simp] theorem setBin_line (s : State) (b : Bin) (x : Option LotSlot) : (s.setBin b x).line = s.line := rfl
@[simp] theorem setBin_eyes (s : State) (b : Bin) (x : Option LotSlot) : (s.setBin b x).eyes = s.eyes := rfl
@[simp] theorem setBin_stations (s : State) (b : Bin) (x : Option LotSlot) : (s.setBin b x).stations = s.stations := rfl
@[simp] theorem setBin_inputs (s : State) (b : Bin) (x : Option LotSlot) : (s.setBin b x).inputs = s.inputs := rfl
@[simp] theorem setBin_seq (s : State) (b : Bin) (x : Option LotSlot) : (s.setBin b x).seq = s.seq := rfl
@[simp] theorem setBin_track (s : State) (b : Bin) (x : Option LotSlot) : (s.setBin b x).track = s.track := rfl
@[simp] theorem setBin_sched (s : State) (b : Bin) (x : Option LotSlot) : (s.setBin b x).sched = s.sched := rfl
@[simp] theorem setBin_lot (s : State) (b : Bin) (x : Option LotSlot) :
    (s.setBin b x).lot = { s.lot with bins := vmod s.lot.bins b fun _ => x } := rfl
@[simp] theorem setBin_prog (s : State) (b : Bin) (x : Option LotSlot) : (s.setBin b x).prog = s.prog := rfl
@[simp] theorem setBin_log (s : State) (b : Bin) (x : Option LotSlot) : (s.setBin b x).log = s.log := rfl
@[simp] theorem setBin_latch (s : State) (b : Bin) (x : Option LotSlot) : (s.setBin b x).latch = s.latch := rfl
@[simp] theorem setBin_link (s : State) (b : Bin) (x : Option LotSlot) : (s.setBin b x).link = s.link := rfl
@[simp] theorem setBin_due (s : State) (b : Bin) (x : Option LotSlot) : (s.setBin b x).due = s.due := rfl
@[simp] theorem setBin_heldExpiry (s : State) (b : Bin) (x : Option LotSlot) :
    (s.setBin b x).heldExpiry = s.heldExpiry := rfl
@[simp] theorem setBin_pending (s : State) (b : Bin) (x : Option LotSlot) : (s.setBin b x).pending = s.pending := rfl

/-! ### modOut -/

@[simp] theorem modOut_powered (s : State) (f : Outputs → Outputs) : (s.modOut f).powered = s.powered := rfl
@[simp] theorem modOut_line (s : State) (f : Outputs → Outputs) : (s.modOut f).line = s.line := rfl
@[simp] theorem modOut_eyes (s : State) (f : Outputs → Outputs) : (s.modOut f).eyes = s.eyes := rfl
@[simp] theorem modOut_stations (s : State) (f : Outputs → Outputs) : (s.modOut f).stations = s.stations := rfl
@[simp] theorem modOut_inputs (s : State) (f : Outputs → Outputs) : (s.modOut f).inputs = s.inputs := rfl
@[simp] theorem modOut_seq (s : State) (f : Outputs → Outputs) : (s.modOut f).seq = s.seq := rfl
@[simp] theorem modOut_track (s : State) (f : Outputs → Outputs) : (s.modOut f).track = s.track := rfl
@[simp] theorem modOut_sched (s : State) (f : Outputs → Outputs) :
    (s.modOut f).sched = { s.sched with out := f s.sched.out } := rfl
@[simp] theorem modOut_lot (s : State) (f : Outputs → Outputs) : (s.modOut f).lot = s.lot := rfl
@[simp] theorem modOut_prog (s : State) (f : Outputs → Outputs) : (s.modOut f).prog = s.prog := rfl
@[simp] theorem modOut_log (s : State) (f : Outputs → Outputs) : (s.modOut f).log = s.log := rfl
@[simp] theorem modOut_latch (s : State) (f : Outputs → Outputs) : (s.modOut f).latch = s.latch := rfl
@[simp] theorem modOut_link (s : State) (f : Outputs → Outputs) : (s.modOut f).link = s.link := rfl
@[simp] theorem modOut_due (s : State) (f : Outputs → Outputs) : (s.modOut f).due = s.due := rfl
@[simp] theorem modOut_heldExpiry (s : State) (f : Outputs → Outputs) : (s.modOut f).heldExpiry = s.heldExpiry := rfl
@[simp] theorem modOut_pending (s : State) (f : Outputs → Outputs) : (s.modOut f).pending = s.pending := rfl

/-! ### setHeld -/

@[simp] theorem setHeld_powered (s : State) (b : Bin) (x : Bool) : (s.setHeld b x).powered = s.powered := rfl
@[simp] theorem setHeld_line (s : State) (b : Bin) (x : Bool) : (s.setHeld b x).line = s.line := rfl
@[simp] theorem setHeld_eyes (s : State) (b : Bin) (x : Bool) : (s.setHeld b x).eyes = s.eyes := rfl
@[simp] theorem setHeld_stations (s : State) (b : Bin) (x : Bool) : (s.setHeld b x).stations = s.stations := rfl
@[simp] theorem setHeld_inputs (s : State) (b : Bin) (x : Bool) : (s.setHeld b x).inputs = s.inputs := rfl
@[simp] theorem setHeld_seq (s : State) (b : Bin) (x : Bool) : (s.setHeld b x).seq = s.seq := rfl
@[simp] theorem setHeld_track (s : State) (b : Bin) (x : Bool) : (s.setHeld b x).track = s.track := rfl
@[simp] theorem setHeld_sched (s : State) (b : Bin) (x : Bool) :
    (s.setHeld b x).sched = { s.sched with held := vmod s.sched.held b fun _ => x } := rfl
@[simp] theorem setHeld_lot (s : State) (b : Bin) (x : Bool) : (s.setHeld b x).lot = s.lot := rfl
@[simp] theorem setHeld_prog (s : State) (b : Bin) (x : Bool) : (s.setHeld b x).prog = s.prog := rfl
@[simp] theorem setHeld_log (s : State) (b : Bin) (x : Bool) : (s.setHeld b x).log = s.log := rfl
@[simp] theorem setHeld_latch (s : State) (b : Bin) (x : Bool) : (s.setHeld b x).latch = s.latch := rfl
@[simp] theorem setHeld_link (s : State) (b : Bin) (x : Bool) : (s.setHeld b x).link = s.link := rfl
@[simp] theorem setHeld_due (s : State) (b : Bin) (x : Bool) : (s.setHeld b x).due = s.due := rfl
@[simp] theorem setHeld_heldExpiry (s : State) (b : Bin) (x : Bool) : (s.setHeld b x).heldExpiry = s.heldExpiry := rfl
@[simp] theorem setHeld_pending (s : State) (b : Bin) (x : Bool) : (s.setHeld b x).pending = s.pending := rfl

/-! ### setFeed -/

@[simp] theorem setFeed_powered (s : State) (x : FeedState) : (s.setFeed x).powered = s.powered := rfl
@[simp] theorem setFeed_line (s : State) (x : FeedState) : (s.setFeed x).line = s.line := rfl
@[simp] theorem setFeed_eyes (s : State) (x : FeedState) : (s.setFeed x).eyes = s.eyes := rfl
@[simp] theorem setFeed_stations (s : State) (x : FeedState) : (s.setFeed x).stations = s.stations := rfl
@[simp] theorem setFeed_inputs (s : State) (x : FeedState) : (s.setFeed x).inputs = s.inputs := rfl
@[simp] theorem setFeed_seq (s : State) (x : FeedState) : (s.setFeed x).seq = { s.seq with feed := x } := rfl
@[simp] theorem setFeed_track (s : State) (x : FeedState) : (s.setFeed x).track = s.track := rfl
@[simp] theorem setFeed_sched (s : State) (x : FeedState) : (s.setFeed x).sched = s.sched := rfl
@[simp] theorem setFeed_lot (s : State) (x : FeedState) : (s.setFeed x).lot = s.lot := rfl
@[simp] theorem setFeed_prog (s : State) (x : FeedState) : (s.setFeed x).prog = s.prog := rfl
@[simp] theorem setFeed_log (s : State) (x : FeedState) : (s.setFeed x).log = s.log := rfl
@[simp] theorem setFeed_latch (s : State) (x : FeedState) : (s.setFeed x).latch = s.latch := rfl
@[simp] theorem setFeed_link (s : State) (x : FeedState) : (s.setFeed x).link = s.link := rfl
@[simp] theorem setFeed_due (s : State) (x : FeedState) : (s.setFeed x).due = s.due := rfl
@[simp] theorem setFeed_heldExpiry (s : State) (x : FeedState) : (s.setFeed x).heldExpiry = s.heldExpiry := rfl
@[simp] theorem setFeed_pending (s : State) (x : FeedState) : (s.setFeed x).pending = s.pending := rfl

/-! ### modPiece -/

@[simp] theorem modPiece_powered (s : State) (tag : Nat) (f : Piece → Piece) : (s.modPiece tag f).powered = s.powered := rfl
@[simp] theorem modPiece_line (s : State) (tag : Nat) (f : Piece → Piece) : (s.modPiece tag f).line = s.line := rfl
@[simp] theorem modPiece_eyes (s : State) (tag : Nat) (f : Piece → Piece) : (s.modPiece tag f).eyes = s.eyes := rfl
@[simp] theorem modPiece_stations (s : State) (tag : Nat) (f : Piece → Piece) :
    (s.modPiece tag f).stations = s.stations := rfl
@[simp] theorem modPiece_inputs (s : State) (tag : Nat) (f : Piece → Piece) : (s.modPiece tag f).inputs = s.inputs := rfl
@[simp] theorem modPiece_seq (s : State) (tag : Nat) (f : Piece → Piece) : (s.modPiece tag f).seq = s.seq := rfl
@[simp] theorem modPiece_track (s : State) (tag : Nat) (f : Piece → Piece) :
    (s.modPiece tag f).track = { s.track with pool := s.track.pool.map fun r => if r.tag == tag then f r else r } := rfl
@[simp] theorem modPiece_sched (s : State) (tag : Nat) (f : Piece → Piece) : (s.modPiece tag f).sched = s.sched := rfl
@[simp] theorem modPiece_lot (s : State) (tag : Nat) (f : Piece → Piece) : (s.modPiece tag f).lot = s.lot := rfl
@[simp] theorem modPiece_prog (s : State) (tag : Nat) (f : Piece → Piece) : (s.modPiece tag f).prog = s.prog := rfl
@[simp] theorem modPiece_log (s : State) (tag : Nat) (f : Piece → Piece) : (s.modPiece tag f).log = s.log := rfl
@[simp] theorem modPiece_latch (s : State) (tag : Nat) (f : Piece → Piece) : (s.modPiece tag f).latch = s.latch := rfl
@[simp] theorem modPiece_link (s : State) (tag : Nat) (f : Piece → Piece) : (s.modPiece tag f).link = s.link := rfl
@[simp] theorem modPiece_due (s : State) (tag : Nat) (f : Piece → Piece) : (s.modPiece tag f).due = s.due := rfl
@[simp] theorem modPiece_heldExpiry (s : State) (tag : Nat) (f : Piece → Piece) :
    (s.modPiece tag f).heldExpiry = s.heldExpiry := rfl
@[simp] theorem modPiece_pending (s : State) (tag : Nat) (f : Piece → Piece) : (s.modPiece tag f).pending = s.pending := rfl

/-! ### freePiece -/

@[simp] theorem freePiece_powered (s : State) (tag : Nat) : (s.freePiece tag).powered = s.powered := rfl
@[simp] theorem freePiece_line (s : State) (tag : Nat) : (s.freePiece tag).line = s.line := rfl
@[simp] theorem freePiece_eyes (s : State) (tag : Nat) : (s.freePiece tag).eyes = s.eyes := rfl
@[simp] theorem freePiece_stations (s : State) (tag : Nat) : (s.freePiece tag).stations = s.stations := rfl
@[simp] theorem freePiece_inputs (s : State) (tag : Nat) : (s.freePiece tag).inputs = s.inputs := rfl
@[simp] theorem freePiece_seq (s : State) (tag : Nat) : (s.freePiece tag).seq = s.seq := rfl
@[simp] theorem freePiece_track (s : State) (tag : Nat) :
    (s.freePiece tag).track = { s.track with pool := s.track.pool.filter fun r => !(r.tag == tag) } := rfl
@[simp] theorem freePiece_sched (s : State) (tag : Nat) : (s.freePiece tag).sched = s.sched := rfl
@[simp] theorem freePiece_lot (s : State) (tag : Nat) : (s.freePiece tag).lot = s.lot := rfl
@[simp] theorem freePiece_prog (s : State) (tag : Nat) : (s.freePiece tag).prog = s.prog := rfl
@[simp] theorem freePiece_log (s : State) (tag : Nat) : (s.freePiece tag).log = s.log := rfl
@[simp] theorem freePiece_latch (s : State) (tag : Nat) : (s.freePiece tag).latch = s.latch := rfl
@[simp] theorem freePiece_link (s : State) (tag : Nat) : (s.freePiece tag).link = s.link := rfl
@[simp] theorem freePiece_due (s : State) (tag : Nat) : (s.freePiece tag).due = s.due := rfl
@[simp] theorem freePiece_heldExpiry (s : State) (tag : Nat) : (s.freePiece tag).heldExpiry = s.heldExpiry := rfl
@[simp] theorem freePiece_pending (s : State) (tag : Nat) : (s.freePiece tag).pending = s.pending := rfl

/-! ### setSlots -/

@[simp] theorem setSlots_powered (s : State) (slots : List Slot) : (s.setSlots slots).powered = s.powered := rfl
@[simp] theorem setSlots_line (s : State) (slots : List Slot) : (s.setSlots slots).line = s.line := rfl
@[simp] theorem setSlots_eyes (s : State) (slots : List Slot) : (s.setSlots slots).eyes = s.eyes := rfl
@[simp] theorem setSlots_stations (s : State) (slots : List Slot) : (s.setSlots slots).stations = s.stations := rfl
@[simp] theorem setSlots_inputs (s : State) (slots : List Slot) : (s.setSlots slots).inputs = s.inputs := rfl
@[simp] theorem setSlots_seq (s : State) (slots : List Slot) : (s.setSlots slots).seq = s.seq := rfl
@[simp] theorem setSlots_track (s : State) (slots : List Slot) : (s.setSlots slots).track = s.track := rfl
@[simp] theorem setSlots_sched (s : State) (slots : List Slot) :
    (s.setSlots slots).sched = { s.sched with slots := slots } := rfl
@[simp] theorem setSlots_lot (s : State) (slots : List Slot) : (s.setSlots slots).lot = s.lot := rfl
@[simp] theorem setSlots_prog (s : State) (slots : List Slot) : (s.setSlots slots).prog = s.prog := rfl
@[simp] theorem setSlots_log (s : State) (slots : List Slot) : (s.setSlots slots).log = s.log := rfl
@[simp] theorem setSlots_latch (s : State) (slots : List Slot) : (s.setSlots slots).latch = s.latch := rfl
@[simp] theorem setSlots_link (s : State) (slots : List Slot) : (s.setSlots slots).link = s.link := rfl
@[simp] theorem setSlots_due (s : State) (slots : List Slot) : (s.setSlots slots).due = s.due := rfl
@[simp] theorem setSlots_heldExpiry (s : State) (slots : List Slot) : (s.setSlots slots).heldExpiry = s.heldExpiry := rfl
@[simp] theorem setSlots_pending (s : State) (slots : List Slot) : (s.setSlots slots).pending = s.pending := rfl

/-! ### modLink -/

@[simp] theorem modLink_powered (s : State) (f : Link → Link) : (s.modLink f).powered = s.powered := rfl
@[simp] theorem modLink_line (s : State) (f : Link → Link) : (s.modLink f).line = s.line := rfl
@[simp] theorem modLink_eyes (s : State) (f : Link → Link) : (s.modLink f).eyes = s.eyes := rfl
@[simp] theorem modLink_stations (s : State) (f : Link → Link) : (s.modLink f).stations = s.stations := rfl
@[simp] theorem modLink_inputs (s : State) (f : Link → Link) : (s.modLink f).inputs = s.inputs := rfl
@[simp] theorem modLink_seq (s : State) (f : Link → Link) : (s.modLink f).seq = s.seq := rfl
@[simp] theorem modLink_track (s : State) (f : Link → Link) : (s.modLink f).track = s.track := rfl
@[simp] theorem modLink_sched (s : State) (f : Link → Link) : (s.modLink f).sched = s.sched := rfl
@[simp] theorem modLink_lot (s : State) (f : Link → Link) : (s.modLink f).lot = s.lot := rfl
@[simp] theorem modLink_prog (s : State) (f : Link → Link) : (s.modLink f).prog = s.prog := rfl
@[simp] theorem modLink_log (s : State) (f : Link → Link) : (s.modLink f).log = s.log := rfl
@[simp] theorem modLink_latch (s : State) (f : Link → Link) : (s.modLink f).latch = s.latch := rfl
@[simp] theorem modLink_link (s : State) (f : Link → Link) : (s.modLink f).link = f s.link := rfl
@[simp] theorem modLink_due (s : State) (f : Link → Link) : (s.modLink f).due = s.due := rfl
@[simp] theorem modLink_heldExpiry (s : State) (f : Link → Link) : (s.modLink f).heldExpiry = s.heldExpiry := rfl
@[simp] theorem modLink_pending (s : State) (f : Link → Link) : (s.modLink f).pending = s.pending := rfl

/-! ### setButton -/

@[simp] theorem setButton_powered (s : State) (k : StationIx) (x : Bool) : (s.setButton k x).powered = s.powered := rfl
@[simp] theorem setButton_line (s : State) (k : StationIx) (x : Bool) : (s.setButton k x).line = s.line := rfl
@[simp] theorem setButton_eyes (s : State) (k : StationIx) (x : Bool) : (s.setButton k x).eyes = s.eyes := rfl
@[simp] theorem setButton_stations (s : State) (k : StationIx) (x : Bool) : (s.setButton k x).stations = s.stations := rfl
@[simp] theorem setButton_inputs (s : State) (k : StationIx) (x : Bool) :
    (s.setButton k x).inputs = { s.inputs with buttons := vmod s.inputs.buttons k fun _ => x } := rfl
@[simp] theorem setButton_seq (s : State) (k : StationIx) (x : Bool) : (s.setButton k x).seq = s.seq := rfl
@[simp] theorem setButton_track (s : State) (k : StationIx) (x : Bool) : (s.setButton k x).track = s.track := rfl
@[simp] theorem setButton_sched (s : State) (k : StationIx) (x : Bool) : (s.setButton k x).sched = s.sched := rfl
@[simp] theorem setButton_lot (s : State) (k : StationIx) (x : Bool) : (s.setButton k x).lot = s.lot := rfl
@[simp] theorem setButton_prog (s : State) (k : StationIx) (x : Bool) : (s.setButton k x).prog = s.prog := rfl
@[simp] theorem setButton_log (s : State) (k : StationIx) (x : Bool) : (s.setButton k x).log = s.log := rfl
@[simp] theorem setButton_latch (s : State) (k : StationIx) (x : Bool) : (s.setButton k x).latch = s.latch := rfl
@[simp] theorem setButton_link (s : State) (k : StationIx) (x : Bool) : (s.setButton k x).link = s.link := rfl
@[simp] theorem setButton_due (s : State) (k : StationIx) (x : Bool) : (s.setButton k x).due = s.due := rfl
@[simp] theorem setButton_heldExpiry (s : State) (k : StationIx) (x : Bool) :
    (s.setButton k x).heldExpiry = s.heldExpiry := rfl
@[simp] theorem setButton_pending (s : State) (k : StationIx) (x : Bool) : (s.setButton k x).pending = s.pending := rfl

/-! ### reachTime -/

@[simp] theorem reachTime_powered (s : State) (t : Nat) : (s.reachTime t).powered = s.powered := rfl
@[simp] theorem reachTime_line (s : State) (t : Nat) : (s.reachTime t).line = { s.line with now := max s.line.now t } := rfl
@[simp] theorem reachTime_eyes (s : State) (t : Nat) : (s.reachTime t).eyes = s.eyes := rfl
@[simp] theorem reachTime_stations (s : State) (t : Nat) : (s.reachTime t).stations = s.stations := rfl
@[simp] theorem reachTime_inputs (s : State) (t : Nat) : (s.reachTime t).inputs = s.inputs := rfl
@[simp] theorem reachTime_seq (s : State) (t : Nat) : (s.reachTime t).seq = s.seq := rfl
@[simp] theorem reachTime_track (s : State) (t : Nat) : (s.reachTime t).track = s.track := rfl
@[simp] theorem reachTime_sched (s : State) (t : Nat) : (s.reachTime t).sched = s.sched := rfl
@[simp] theorem reachTime_lot (s : State) (t : Nat) : (s.reachTime t).lot = s.lot := rfl
@[simp] theorem reachTime_prog (s : State) (t : Nat) : (s.reachTime t).prog = s.prog := rfl
@[simp] theorem reachTime_log (s : State) (t : Nat) : (s.reachTime t).log = s.log := rfl
@[simp] theorem reachTime_latch (s : State) (t : Nat) : (s.reachTime t).latch = s.latch := rfl
@[simp] theorem reachTime_link (s : State) (t : Nat) : (s.reachTime t).link = s.link := rfl
@[simp] theorem reachTime_due (s : State) (t : Nat) : (s.reachTime t).due = s.due := rfl
@[simp] theorem reachTime_heldExpiry (s : State) (t : Nat) : (s.reachTime t).heldExpiry = s.heldExpiry := rfl
@[simp] theorem reachTime_pending (s : State) (t : Nat) : (s.reachTime t).pending = s.pending := rfl

end Sys2Proof.Machine
end

