-- ==== Sys2Proof/Laws/Frames.lean ====
section
/-! SUPPORT. What the shared operations leave alone: one lemma for each operation, over the relation `Kept`, which composes. -/

namespace Sys2Proof.Machine

open Sys2Proof

/-- What every operation below the commands leaves as it is: the supply, the line, the eyes, the inputs, the link, the queue, the
expiries held back, the settings in force with the valid flag and the stored records. -/
structure Kept (s t : State) : Prop where
  powered : t.powered = s.powered
  line : t.line = s.line
  eyes : t.eyes = s.eyes
  inputs : t.inputs = s.inputs
  link : t.link = s.link
  pending : t.pending = s.pending
  heldExpiry : t.heldExpiry = s.heldExpiry
  settings : t.prog.settings = s.prog.settings
  valid : t.prog.valid = s.prog.valid
  storedPrograms : t.prog.storedPrograms = s.prog.storedPrograms
  storedSettings : t.prog.storedSettings = s.prog.storedSettings

theorem Kept.refl (s : State) : Kept s s := by constructor <;> rfl

theorem Kept.trans {s t u : State} (h : Kept s t) (k : Kept t u) : Kept s u := by
  constructor
  · exact k.powered.trans h.powered
  · exact k.line.trans h.line
  · exact k.eyes.trans h.eyes
  · exact k.inputs.trans h.inputs
  · exact k.link.trans h.link
  · exact k.pending.trans h.pending
  · exact k.heldExpiry.trans h.heldExpiry
  · exact k.settings.trans h.settings
  · exact k.valid.trans h.valid
  · exact k.storedPrograms.trans h.storedPrograms
  · exact k.storedSettings.trans h.storedSettings

theorem Kept.withTrack {s t : State} (h : Kept s t) (x : TrackStore) : Kept s { t with track := x } :=
  ⟨h.1, h.2, h.3, h.4, h.5, h.6, h.7, h.8, h.9, h.10, h.11⟩

theorem Kept.withSeq {s t : State} (h : Kept s t) (x : Sequencer) : Kept s { t with seq := x } :=
  ⟨h.1, h.2, h.3, h.4, h.5, h.6, h.7, h.8, h.9, h.10, h.11⟩

/-- What every planning and matching operation leaves as it is: as `Kept`, but an expiry may be held back besides (R94). -/
structure KeptGrowing (s t : State) : Prop where
  powered : t.powered = s.powered
  line : t.line = s.line
  eyes : t.eyes = s.eyes
  inputs : t.inputs = s.inputs
  link : t.link = s.link
  pending : t.pending = s.pending
  held : s.heldExpiry <+: t.heldExpiry
  settings : t.prog.settings = s.prog.settings
  valid : t.prog.valid = s.prog.valid
  storedPrograms : t.prog.storedPrograms = s.prog.storedPrograms
  storedSettings : t.prog.storedSettings = s.prog.storedSettings

theorem Kept.growing {s t : State} (h : Kept s t) : KeptGrowing s t :=
  ⟨h.1, h.2, h.3, h.4, h.5, h.6, h.7 ▸ List.prefix_rfl, h.8, h.9, h.10, h.11⟩

theorem KeptGrowing.refl (s : State) : KeptGrowing s s := (Kept.refl s).growing

theorem KeptGrowing.trans {s t u : State} (h : KeptGrowing s t) (k : KeptGrowing t u) : KeptGrowing s u :=
  ⟨k.1.trans h.1, k.2.trans h.2, k.3.trans h.3, k.4.trans h.4, k.5.trans h.5, k.6.trans h.6, h.7.trans k.7, k.8.trans h.8,
    k.9.trans h.9, k.10.trans h.10, k.11.trans h.11⟩

theorem KeptGrowing.foldl {α : Type} (f : State → α → State) (hf : ∀ s a, KeptGrowing s (f s a)) (l : List α) (s : State) :
    KeptGrowing s (l.foldl f s) := by
  induction l generalizing s with
  | nil => exact KeptGrowing.refl s
  | cons a l ih => exact (hf s a).trans (ih (f s a))

/-- A fold of operations that each keep the rest keeps it. -/
theorem Kept.foldl {α : Type} (f : State → α → State) (hf : ∀ s a, Kept s (f s a)) (l : List α) (s : State) :
    Kept s (l.foldl f s) := by
  induction l generalizing s with
  | nil => exact Kept.refl s
  | cons a l ih => exact (hf s a).trans (ih (f s a))

/-! ### Updates of one field -/

theorem modStation_kept (s : State) (k : StationIx) (f : Station → Station) : Kept s (s.modStation k f) := by
  constructor <;> rfl

theorem modLot_kept (s : State) (i : LotSlot) (f : Lot → Lot) : Kept s (s.modLot i f) := by constructor <;> rfl

theorem setBin_kept (s : State) (b : Bin) (x : Option LotSlot) : Kept s (s.setBin b x) := by constructor <;> rfl

theorem modOut_kept (s : State) (f : Outputs → Outputs) : Kept s (s.modOut f) := by constructor <;> rfl

theorem setHeld_kept (s : State) (b : Bin) (x : Bool) : Kept s (s.setHeld b x) := by constructor <;> rfl

theorem setFeed_kept (s : State) (x : FeedState) : Kept s (s.setFeed x) := by constructor <;> rfl

theorem setSlots_kept (s : State) (l : List Slot) : Kept s (s.setSlots l) := by constructor <;> rfl

theorem modPiece_kept (s : State) (tag : Nat) (f : Piece → Piece) : Kept s (s.modPiece tag f) := by constructor <;> rfl

theorem freePiece_kept (s : State) (tag : Nat) : Kept s (s.freePiece tag) := by constructor <;> rfl

theorem setWait_kept (k : StationIx) (r : WaitReason) (s : State) : Kept s (setWait k r s) := modStation_kept s k _

/-! ### The log and the latch -/

theorem appendEntry_kept (b : EntryBody) (s : State) : Kept s (appendEntry b s) := by constructor <;> rfl

theorem notice_kept (code : Nat) (pos : Pos) (s : State) : Kept s (notice code pos s) := by
  unfold notice
  split
  · exact appendEntry_kept _ s
  · constructor <;> rfl

theorem latchFault_kept (r : FaultReason) (s : State) : Kept s (latchFault r s) := by constructor <;> rfl

/-! ### Outputs, releases, lots and bins -/

theorem fireDrive_kept (d : Drive) (s : State) : Kept s (fireDrive d s) := by
  cases d <;> constructor <;> rfl

theorem startRelease_kept (b : Bin) (s : State) : Kept s (startRelease b s) := by
  unfold startRelease
  dsimp only
  split
  · exact ((modOut_kept s _).trans (setHeld_kept _ _ _)).trans (modLot_kept _ _ _)
  · exact (modOut_kept s _).trans (setHeld_kept _ _ _)

theorem requestRelease_kept (b : Bin) (s : State) : Kept s (requestRelease b s) := by
  unfold requestRelease
  split
  · exact Kept.refl s
  · split
    · exact setHeld_kept _ _ _
    · exact startRelease_kept b s

theorem startHeld_kept (b : Bin) (s : State) : Kept s (startHeld b s) := by
  unfold startHeld
  split
  · exact startRelease_kept b s
  · exact Kept.refl s

theorem unbindLot_kept (i : LotSlot) (s : State) : Kept s (unbindLot i s) := by
  unfold unbindLot
  split
  · exact Kept.refl s
  · dsimp only
    split
    · exact ((requestRelease_kept _ s).trans (modLot_kept _ _ _)).trans (setBin_kept _ _ _)
    · exact (modLot_kept _ _ _).trans (setBin_kept _ _ _)

theorem bindTo_kept (i : LotSlot) (b : Bin) (s : State) : Kept s (bindTo i b s) :=
  (modLot_kept _ _ _).trans (setBin_kept _ _ _)

theorem bindLot_kept (i : LotSlot) (s : State) : Kept s (bindLot i s) := by
  unfold bindLot
  split
  · exact bindTo_kept _ _ _
  · split
    · exact (unbindLot_kept _ _).trans (bindTo_kept _ _ _)
    · exact Kept.refl s

/-! ### The Track Store -/

theorem takeRecord_kept (z : Zone) (f : Nat → Pos → Piece) (s : State) : Kept s (takeRecord z f s).2 := by
  constructor <;> rfl

theorem moveRecord_kept (tag : Nat) (z : Zone) (f : Piece → Piece) (s : State) : Kept s (moveRecord tag z f s) := by
  unfold moveRecord
  dsimp only
  split
  · constructor <;> rfl
  · exact modPiece_kept _ _ _

/-! ### The examination -/

theorem ageTails_kept (s : State) : Kept s (ageTails s) := by constructor <;> rfl

theorem stationGranted_kept (k : StationIx) (s : State) : Kept s (stationGranted k s) :=
  (modStation_kept _ _ _).trans (modOut_kept _ _)

theorem grant_kept (k : StationIx) (a : Assignment) (pr : ProgramRec) (i : LotSlot) (s : State) :
    Kept s (grant k a pr i s) := by
  have hb : Kept s (if s.lot.lots[i].bin.isNone then bindLot i s else s) := by
    split
    · exact bindLot_kept i s
    · exact Kept.refl s
  unfold grant
  refine Kept.trans ?_ (Kept.foldl _ ?_ _ _)
  · refine hb.trans ?_
    generalize (if s.lot.lots[i].bin.isNone then bindLot i s else s) = u
    constructor <;> rfl
  · intro s j
    split
    · exact modStation_kept _ _ _
    · exact Kept.refl s

theorem checkStation_kept (starving : Bool) (x : Exam) (k : StationIx) :
    Kept x.state (checkStation starving x k).state := by
  unfold checkStation
  dsimp only
  repeat' split
  all_goals first
    | exact setWait_kept _ _ _
    | exact grant_kept _ _ _ _ _
    | exact Kept.refl _

theorem checkAll_kept (starving : Bool) (l : List StationIx) (x : Exam) :
    Kept x.state (l.foldl (checkStation starving) x).state := by
  induction l generalizing x with
  | nil => exact Kept.refl _
  | cons k l ih => exact (checkStation_kept starving x k).trans (ih _)

/-- An examination changes no more than the stations, the sequencer, the records, the outputs, the lots and the programs' counts
(R46). -/
theorem examine_kept (s : State) : Kept s (examine s) := by
  have h0 : Kept s (ageTails { s with seq := { s.seq with mark := s.line.p } }) := by constructor <;> rfl
  unfold examine
  dsimp only
  split
  · refine h0.trans (Kept.foldl _ ?_ _ _)
    intro s k
    split
    · exact setWait_kept _ _ _
    · exact Kept.refl s
  · refine h0.trans ?_
    generalize ageTails { s with seq := { s.seq with mark := s.line.p } } = u
    have h1 (l m : List StationIx) :=
      (checkAll_kept true l ⟨u, 0#4, none⟩).trans (checkAll_kept false m (l.foldl (checkStation true) ⟨u, 0#4, none⟩))
    have h2 := h1 (allStations.filter (isStarving u))
      ((rotationFrom u.prog.settings.rotation u.seq.scanStart).filter
        fun k => !(allStations.filter (isStarving u)).contains k)
    exact h2.withSeq _

theorem enterRun_kept (s : State) : Kept s (enterRun s) := (setFeed_kept s .run).trans (examine_kept _)

theorem runPause_kept (lost : Bool) (s : State) : Kept s (runPause lost s) := by
  unfold runPause
  split
  · split
    · exact setFeed_kept _ _
    · exact Kept.refl s
  · split
    · exact enterRun_kept s
    · exact Kept.refl s
  · exact Kept.refl s

theorem measureTails_kept (tag : Nat) (foot : LaneSet) (t : Pos) (s : State) : Kept s (measureTails tag foot t s) := by
  unfold measureTails
  dsimp only
  split
  · exact Kept.trans (by constructor <;> rfl) (examine_kept _)
  · exact Kept.refl s

/-! ### The slot table -/

theorem makeSlot_kept {pos : Pos} {a : SlotAction} {d : Drive} {tag : Nat} {s t : State}
    (h : makeSlot pos a d tag s = some t) : Kept s t := by
  unfold makeSlot at h
  split at h
  · dsimp only at h
    obtain rfl := Option.some.inj h
    constructor <;> rfl
  · cases h

theorem joinSlot_kept (place tag : Nat) (s : State) : Kept s (joinSlot place tag s) :=
  (setSlots_kept _ _).trans (modPiece_kept _ _ _)

theorem cancelSlot_kept (tag place : Nat) (s : State) : Kept s (cancelSlot tag place s) :=
  (setSlots_kept _ _).trans (modPiece_kept _ _ _)

theorem cancelSlots_kept (tag : Nat) (places : List Nat) (s : State) : Kept s (cancelSlots tag places s) :=
  Kept.foldl _ (fun s pl => cancelSlot_kept tag pl s) places s

theorem removeSlot_kept (x : Slot) (s : State) : Kept s (removeSlot x s) :=
  (setSlots_kept _ _).trans (Kept.foldl _ (fun s t => modPiece_kept s t _) _ _)

theorem moveSlot_kept (place : Nat) (pos : Pos) (s : State) : Kept s (moveSlot place pos s) := by
  unfold moveSlot
  split
  · exact setSlots_kept _ _
  · exact Kept.refl s

/-! ### Completion -/

theorem writeSummary_kept (i : LotSlot) (s : State) : Kept s (writeSummary i s) :=
  (appendEntry_kept _ s).trans (modLot_kept _ _ _)

theorem requestSummary_kept (i : LotSlot) (s : State) : Kept s (requestSummary i s) := by
  unfold requestSummary
  split
  · exact writeSummary_kept i s
  · constructor <;> rfl

theorem applyProgram_kept (ix : ProgramIx) (pr : Program) (replies : Bool) (s : State) :
    Kept s (applyProgram ix pr replies s) :=
  Kept.trans (by constructor <;> rfl) (examine_kept _)

theorem applyStaged_kept (ix : ProgramIx) (s : State) : Kept s (applyStaged ix s) := by
  unfold applyStaged
  split
  · split
    · exact Kept.trans (by constructor <;> rfl) (applyProgram_kept _ _ _ _)
    · exact Kept.refl s
  · exact Kept.refl s

theorem countPiece_kept (r : Piece) (k : CompletionKind) (s : State) : Kept s (countPiece r k s) := by
  unfold countPiece
  rcases r.lot with _ | l <;> rcases r.program with _ | ix <;> constructor <;> rfl

theorem stagedIfDone_kept (r : Piece) (s : State) : Kept s (stagedIfDone r s) := by
  unfold stagedIfDone
  split
  · exact applyStaged_kept _ s
  · exact Kept.refl s

theorem endClose_kept (i : LotSlot) {work : State → State} (h : ∀ s, Kept s (work s)) (s : State) :
    Kept s (endClose i work s) := by
  unfold endClose
  split
  · exact (((unbindLot_kept i s).trans (h _)).trans (examine_kept _)).trans (requestSummary_kept i _)
  · exact (h s).trans (requestSummary_kept i _)

theorem closeAndApply_kept (r : Piece) (s : State) : Kept s (closeAndApply r s) := by
  unfold closeAndApply
  split
  · split
    · exact endClose_kept _ (stagedIfDone_kept r) s
    · exact stagedIfDone_kept r s
  · exact stagedIfDone_kept r s

theorem writePiece_kept (tag : Nat) (s : State) : Kept s (writePiece tag s) := by
  unfold writePiece
  split
  · split
    · refine Kept.trans ?_ (examine_kept _)
      refine Kept.trans ?_ (closeAndApply_kept _ _)
      exact ((appendEntry_kept _ s).trans (countPiece_kept _ _ _)).trans (freePiece_kept _ _)
    · exact Kept.refl s
  · exact Kept.refl s

theorem requestPiece_kept (tag : Nat) (s : State) : Kept s (requestPiece tag s) := by
  unfold requestPiece
  split
  · exact writePiece_kept tag s
  · constructor <;> rfl

theorem writePending_kept (w : PendingWrite) (s : State) : Kept s (writePending w s) := by
  cases w
  · exact writePiece_kept _ s
  · exact writeSummary_kept _ s

theorem fillLog_kept (fuel : Nat) (s : State) : Kept s (fillLog fuel s) := by
  induction fuel generalizing s with
  | zero => exact Kept.refl s
  | succ n ih =>
    unfold fillLog
    split
    · exact Kept.refl s
    · split
      · refine Kept.trans (Kept.trans ?_ (writePending_kept _ _)) (ih _)
        constructor <;> rfl
      · exact Kept.refl s

theorem complete_kept (tag : Nat) (k : CompletionKind) (st : Option Stage) (s : State) : Kept s (complete tag k st s) := by
  unfold complete
  split
  · split
    · exact Kept.refl s
    · refine Kept.trans (Kept.withTrack ?_ _) (requestPiece_kept _ _)
      exact ((modPiece_kept _ _ _).trans (cancelSlots_kept _ _ _)).trans (modPiece_kept _ _ _)
  · exact Kept.refl s

/-! ### The Fold Planner -/

theorem expire_kept (st : Stage) (tag : Nat) (s : State) : Kept s (expire st tag s) :=
  (latchFault_kept _ s).trans (complete_kept _ _ _ _)

/-- Taking an expiry keeps the rest, and holds back at most one more. -/
theorem expireOrHold_kept (st : Stage) (tag : Nat) (s : State) : KeptGrowing s (expireOrHold st tag s) := by
  unfold expireOrHold
  split
  · split
    · exact ⟨rfl, rfl, rfl, rfl, rfl, rfl, List.prefix_append _ _, rfl, rfl, rfl, rfl⟩
    · exact (expire_kept _ _ _).growing
  · exact KeptGrowing.refl s

theorem becomeUndiverted_kept (tag : Nat) (s : State) : KeptGrowing s (becomeUndiverted tag s) := by
  unfold becomeUndiverted
  dsimp only
  split
  · split
    · exact (modPiece_kept _ _ _).growing.trans (expireOrHold_kept _ _ _)
    · exact (modPiece_kept _ _ _).growing
  · exact (modPiece_kept _ _ _).growing

theorem lostForSlot_kept (tag : Nat) (s : State) : Kept s (lostForSlot tag s) :=
  ((modPiece_kept _ _ _).trans (latchFault_kept _ _)).trans (complete_kept _ _ _ _)

theorem rejectPlan_kept (tag : Nat) (s : State) : KeptGrowing s (rejectPlan tag s) := by
  unfold rejectPlan
  split
  · split
    · exact KeptGrowing.refl s
    · dsimp only
      split
      · exact (latchFault_kept _ s).growing.trans (becomeUndiverted_kept _ _)
      · split
        · exact (makeSlot_kept ‹_›).growing
        · exact (lostForSlot_kept tag s).growing
  · exact KeptGrowing.refl s

theorem planAway_kept (tag : Nat) (s : State) : KeptGrowing s (planAway tag s) := by
  unfold planAway
  split
  · exact (cancelSlots_kept _ _ s).growing.trans (rejectPlan_kept _ _)
  · exact KeptGrowing.refl s

theorem reasonArrives_kept (tag : Nat) (why : RejectReason) (s : State) : KeptGrowing s (reasonArrives tag why s) := by
  unfold reasonArrives
  split
  · split
    · exact KeptGrowing.refl s
    · dsimp only
      split
      · exact (modPiece_kept _ _ _).growing.trans (planAway_kept _ _)
      · exact (modPiece_kept _ _ _).growing
  · exact KeptGrowing.refl s

theorem askAll_kept (tag : Nat) (l : List PlanRequest) (s : State) : KeptGrowing s (askAll tag l s) := by
  induction l generalizing s with
  | nil => exact KeptGrowing.refl s
  | cons q l ih =>
    cases q with
    | join place => exact (joinSlot_kept _ _ s).growing.trans (ih _)
    | make pos a d =>
      unfold askAll
      split
      · exact (makeSlot_kept ‹_›).growing.trans (ih _)
      · exact (modPiece_kept _ _ _).growing.trans (planAway_kept _ _)

theorem foldPlan_kept (tag : Nat) (r : Piece) (pr : ProgramRec) (s : State) : KeptGrowing s (foldPlan tag r pr s) := by
  have hr (why : RejectReason) : KeptGrowing s (rejectPlan tag (takeReason tag why s)) :=
    (modPiece_kept _ _ _).growing.trans (rejectPlan_kept _ _)
  unfold foldPlan
  dsimp only
  repeat' split
  all_goals first
    | exact hr _
    | exact askAll_kept _ _ s

theorem planExit_kept (tag : Nat) (s : State) : KeptGrowing s (planExit tag s) := by
  have hw : KeptGrowing s (writeEstimate tag s) := by
    unfold writeEstimate
    split
    · split
      · exact (modPiece_kept _ _ _).growing
      · exact KeptGrowing.refl s
    · exact KeptGrowing.refl s
  unfold planExit
  dsimp only
  split
  · split
    · split
      · exact hw.trans (foldPlan_kept _ _ _ _)
      · exact hw.trans (rejectPlan_kept _ _)
    · exact hw.trans (rejectPlan_kept _ _)
  · exact hw

theorem refineSlot_kept (tag : Nat) (x : Pos) (len : Nat) (pr : ProgramRec) (s : State) (place : Nat) :
    Kept s (refineSlot tag x len pr s place) := by
  unfold refineSlot
  split
  · split
    · split
      · exact moveSlot_kept _ _ _
      · exact Kept.refl s
    · exact Kept.refl s
  · exact Kept.refl s

theorem exitLengthKnown_kept (tag len : Nat) (s : State) : KeptGrowing s (exitLengthKnown tag len s) := by
  unfold exitLengthKnown
  split
  · split
    · split
      · exact reasonArrives_kept _ _ s
      · exact KeptGrowing.foldl _ (fun s pl => (refineSlot_kept _ _ _ _ s pl).growing) _ _
    · exact KeptGrowing.refl s
  · exact KeptGrowing.refl s

theorem planDrop_kept (tag : Nat) (s : State) : Kept s (planDrop tag s) := by
  unfold planDrop
  split
  · split
    · dsimp only
      split
      · exact (modPiece_kept _ _ _).trans (makeSlot_kept ‹_›)
      · exact (modPiece_kept _ _ _).trans (lostForSlot_kept _ _)
    · exact complete_kept _ _ _ s
  · exact Kept.refl s

/-! ### The Matcher -/

theorem leadEntry_kept (w : Lane) (c : Pos) (s : State) : Kept s (leadEntry w c s) := by
  have h0 : Kept s (closeEntryLane w s) := by constructor <;> rfl
  unfold leadEntry
  dsimp only
  split
  · exact h0.trans (modPiece_kept _ _ _)
  · split
    · exact h0.trans (moveRecord_kept _ _ _ _)
    · split
      · exact h0.trans (takeRecord_kept _ _ _)
      · exact h0.trans ((notice_kept _ _ _).trans (latchFault_kept _ _))

theorem leadExit_kept (w : Lane) (c : Pos) (s : State) : KeptGrowing s (leadExit w c s) := by
  have h0 : KeptGrowing s (closeExitLane w s) := Kept.growing (by constructor <;> rfl)
  unfold leadExit
  dsimp only
  split
  · exact h0.trans (modPiece_kept _ _ _).growing
  · split
    · exact (h0.trans (moveRecord_kept _ _ _ _).growing).trans (planExit_kept _ _)
    · split
      · exact (h0.trans (takeRecord_kept _ _ _).growing).trans (planExit_kept _ _)
      · exact h0.trans ((notice_kept _ _ _).growing.trans (latchFault_kept _ _).growing)

theorem leadStacker_kept (c : Pos) (s : State) : Kept s (leadStacker c s) := by
  unfold leadStacker
  split
  · exact (notice_kept _ _ _).trans (latchFault_kept _ _)
  · exact Kept.foldl _ (fun s t => (moveRecord_kept _ _ _ s).trans (planDrop_kept t _)) _ _

theorem leadingEdge_kept (e : Eye) (c : Pos) (s : State) : KeptGrowing s (leadingEdge e c s) := by
  cases e
  · exact (leadEntry_kept _ c s).growing
  · exact leadExit_kept _ c s
  · exact (leadStacker_kept c s).growing

theorem lengthCheck_kept (tag len : Nat) (pr : ProgramRec) (s : State) : KeptGrowing s (lengthCheck tag len pr s) := by
  unfold lengthCheck
  split
  · exact reasonArrives_kept _ _ s
  · split
    · exact reasonArrives_kept _ _ s
    · exact KeptGrowing.refl s

theorem trailEntry_kept (w : Lane) (t : Pos) (s : State) : KeptGrowing s (trailEntry w t s) := by
  unfold trailEntry
  split
  · exact KeptGrowing.refl s
  · dsimp only
    split
    · exact (modPiece_kept _ _ _).growing
    · split
      · exact (modPiece_kept _ _ _).growing.trans (modPiece_kept _ _ _).growing
      · refine KeptGrowing.trans ?_ (measureTails_kept _ _ _ _).growing
        split
        · exact ((modPiece_kept _ _ _).growing.trans (modPiece_kept _ _ _).growing).trans (lengthCheck_kept _ _ _ _)
        · exact (modPiece_kept _ _ _).growing.trans (modPiece_kept _ _ _).growing

theorem trailExit_kept (w : Lane) (t : Pos) (s : State) : KeptGrowing s (trailExit w t s) := by
  unfold trailExit
  split
  · exact KeptGrowing.refl s
  · dsimp only
    split
    · exact (modPiece_kept _ _ _).growing
    · exact ((modPiece_kept _ _ _).growing.trans (modPiece_kept _ _ _).growing).trans (exitLengthKnown_kept _ _ _)

theorem trailingEdge_kept (e : Eye) (t : Pos) (s : State) : KeptGrowing s (trailingEdge e t s) := by
  cases e
  · exact trailEntry_kept _ t s
  · exact trailExit_kept _ t s
  · exact KeptGrowing.refl s

/-- With no expiry held back there is nothing to settle (R94). -/
theorem settleHeld_nil {s : State} (h : s.heldExpiry = []) : settleHeld s = s := by
  unfold settleHeld
  rw [h]
  rfl

end Sys2Proof.Machine
end

