-- ==== Sys2Proof/Laws/Expiry.lean ====
section
/-! SUPPORT. The expiries held back for an acceptance on the same edge, and what looking at them again does (R92 to R94). -/

namespace Sys2Proof.Machine

open Sys2Proof

/-- The test of the model for an expiry held back is the relation of the statements. -/
theorem heldBack_iff (s : State) (st : Stage) (r : Piece) : heldBack s st r = true ↔ HoldsBack s st r := by
  simp only [heldBack, HoldsBack, List.any_eq_true, Bool.and_eq_true, decide_eq_true_eq, and_assoc]

/-- A record waits at the stage of its state alone. -/
theorem stageOf_of_stillWaits {st : Stage} {r : Piece} (h : stillWaits st r = true) : stageOf r.state = some st := by
  cases st <;> simp only [stillWaits, expectsStacker, Bool.and_eq_true, decide_eq_true_eq] at h
  · rw [h.2]; rfl
  · rw [h.2]; rfl
  · rw [h.2.1]; rfl

/-- What looking again at one held-back expiry does, whatever becomes of the others. -/
theorem settleOne_settled (tag : Nat) {tags : List Nat} {s t : State} (h : Settled tags (settleOne s tag) t) :
    Settled (tag :: tags) s t := by
  unfold settleOne at h
  split at h
  · rename_i hp
    exact .leaves tag tags s t (fun r st hr => by rw [hp] at hr; cases hr) h
  · rename_i r hp
    have other : (∀ st, stillWaits st r = true → expiryPoint s.prog.settings st r ≠ s.line.p) →
        Settled tags { s with heldExpiry := s.heldExpiry.filter (· ≠ tag) } t → Settled (tag :: tags) s t := by
      intro hn ht
      exact .leaves tag tags s t (fun q st hq hw => by rw [hp] at hq; cases hq; exact hn st hw) ht
    split at h
    · rename_i hs
      exact other (fun st hw => by rw [stageOf_of_stillWaits hw] at hs; cases hs) h
    · rename_i st hs
      split at h
      · rename_i hn
        refine other (fun st' hw => ?_) h
        have : st' = st := Option.some.inj ((stageOf_of_stillWaits hw).symm.trans hs)
        subst this
        simpa [expiresNow, hw] using hn
      · rename_i hn
        have hn : stillWaits st r = true ∧ expiryPoint s.prog.settings st r = s.line.p := by simpa [expiresNow] using hn
        split at h
        · rename_i hb
          exact .stays tag tags st r s t hp hn.1 hn.2 ((heldBack_iff s st r).1 hb) h
        · rename_i hb
          exact .expires tag tags st r s t hp hn.1 hn.2 (fun x => hb ((heldBack_iff s st r).2 x)) h

/-- Looking again at the held-back expiries settles them as R94 gives. -/
theorem settleHeld_settled (s : State) : Settled s.heldExpiry s (settleHeld s) := by
  have (tags : List Nat) : ∀ s : State, Settled tags s (tags.foldl settleOne s) := by
    induction tags with
    | nil => exact fun s => .done s
    | cons tag tags ih => exact fun s => settleOne_settled tag (ih (settleOne s tag))
  exact this s.heldExpiry s

/-- A record becomes undiverted: with its stacker expiry point passed its expiry is taken, and put off while an eye holds it back
(R93, R94). -/
theorem becomeUndiverted_eq {tag : Nat} {s : State} {r : Piece}
    (h : (s.modPiece tag fun r => { r with undiverted := true }).piece? tag = some r) :
    becomeUndiverted tag s =
      let u := s.modPiece tag fun r => { r with undiverted := true }
      if stillWaits .fold r = true ∧ atOrPast s.line.p (expiryPoint s.prog.settings .fold r) = true then
        if heldBack u .fold r = true then { u with heldExpiry := s.heldExpiry ++ [tag] } else expire .fold tag u
      else u := by
  simp only [becomeUndiverted, h, expireOrHold, Bool.and_eq_true]
  rfl

end Sys2Proof.Machine
end

