-- ==== Sys2Proof/Laws/Link.lean ====
section
/-! SUPPORT. What the Link Interface does with a frame: which owner is called on which state, and what is owed after it. -/

namespace Sys2Proof.Machine

open Sys2Proof

/-! ### The owners of the table (R171) -/

@[simp] theorem ownerOf_feed (body : List Byte) : ownerOf 0x10 body = feedOwner body := rfl
@[simp] theorem ownerOf_assign (body : List Byte) : ownerOf 0x11 body = assignOwner body := rfl
@[simp] theorem ownerOf_stationEnable (body : List Byte) : ownerOf 0x12 body = enableOwner body := rfl
@[simp] theorem ownerOf_stationRead (body : List Byte) : ownerOf 0x13 body = stationReadOwner body := rfl
@[simp] theorem ownerOf_lotOpen (body : List Byte) : ownerOf 0x20 body = lotOpenOwner body := rfl
@[simp] theorem ownerOf_lotClose (body : List Byte) : ownerOf 0x21 body = lotCloseOwner body := rfl
@[simp] theorem ownerOf_lotRead (body : List Byte) : ownerOf 0x22 body = lotReadOwner body := rfl
@[simp] theorem ownerOf_programWrite (body : List Byte) : ownerOf 0x30 body = programWriteOwner body := rfl
@[simp] theorem ownerOf_programRead (body : List Byte) : ownerOf 0x31 body = programReadOwner body := rfl
@[simp] theorem ownerOf_settingsWrite (body : List Byte) : ownerOf 0x32 body = settingsWriteOwner body := rfl
@[simp] theorem ownerOf_settingsRead (body : List Byte) : ownerOf 0x33 body = settingsReadOwner := rfl
@[simp] theorem ownerOf_pieceRead (body : List Byte) : ownerOf 0x40 body = pieceReadOwner body := rfl
@[simp] theorem ownerOf_purge (body : List Byte) : ownerOf 0x41 body = purgeOwner body := rfl
@[simp] theorem ownerOf_logPeek (body : List Byte) : ownerOf 0x50 body = logPeekOwner body := rfl
@[simp] theorem ownerOf_logTake (body : List Byte) : ownerOf 0x51 body = logTakeOwner body := rfl
@[simp] theorem ownerOf_faultAck (body : List Byte) : ownerOf 0x52 body = faultAckOwner := rfl
@[simp] theorem ownerOf_status (body : List Byte) : ownerOf 0x53 body = statusOwner := rfl
@[simp] theorem ownerOf_quiet (body : List Byte) : ownerOf 0x60 body = quietOwner := rfl
@[simp] theorem ownerOf_resume (body : List Byte) : ownerOf 0x61 body = resumeOwner := rfl
@[simp] theorem ownerOf_restart (body : List Byte) : ownerOf 0x62 body = restartOwner := rfl
@[simp] theorem ownerOf_echo (body : List Byte) : ownerOf 0x63 body = echoOwner body := rfl

/-! ### A request frame that is heard (R170 to R174) -/

/-- A frame of at most 240 body characters that is heard fills the buffer, and is then checked and carried out. -/
theorem takeFrame_hears {s : State} (h : Hears s) (addr code : Byte) (body : List Byte) (hb : body.length ≤ 240) :
    takeFrame addr code body s = handleFrame addr code body (s.received addr code body) := by
  have hb' : ¬Config.maxBody < body.length := by show ¬240 < body.length; omega
  simp only [takeFrame, h.1, h.2, hb', Bool.not_true, Bool.false_eq_true, if_false, ne_eq, not_true]

/-- An addressed request is carried out on the state with its frame in the buffer, and its answer is owed (R173). -/
theorem takeFrame_takes {s : State} {addr : Byte} (h : Takes s addr) (code : Byte) (body : List Byte)
    (hb : body.length ≤ 240) :
    takeFrame addr code body s =
      owe code (carryOut code body (ownerOf code body) (s.received addr code body)).2
        (carryOut code body (ownerOf code body) (s.received addr code body)).1 := by
  have ho : (s.received addr code body).link.owed = none := h.2.2.2
  have ha : addr.toNat = (s.received addr code body).link.address.val := h.2.2.1
  rw [takeFrame_hears h.1 addr code body hb, handleFrame, if_neg h.2.1, if_pos ha, ho]
  rfl

/-- A broadcast of a code that is carried out on broadcast is carried out, and nothing is owed for it (R172). -/
theorem takeFrame_broadcast {s : State} (h : Hears s) (code : Byte) (body : List Byte) (hb : body.length ≤ 240)
    (hc : broadcastCode code = true) :
    takeFrame 0 code body s = (carryOut code body (ownerOf code body) (s.received 0 code body)).1 := by
  rw [takeFrame_hears h 0 code body hb, handleFrame, if_pos rfl, if_pos hc]

/-- A request of a known code and a fitting length reaches its owner (R173). -/
theorem carryOut_fits {code : Byte} {body : List Byte} (owner : State → State × Answer) (s : State)
    (hc : knownCodes.contains code = true) (hl : lengthFits code body.length = true) :
    carryOut code body owner s = owner s := by
  simp only [carryOut, hc, hl, Bool.not_true, Bool.false_eq_true, if_false]

/-- A reply owed, to an addressed request or to a broadcast, is what `State.answered` says. -/
theorem owe_reply (s : State) (addr code : Byte) (body : List Byte) (h : addr ≠ 0) :
    owe code (.reply body) s = s.answered addr code body := by
  simp only [owe, State.answered, h, false_or]
  rfl

theorem owe_refuse (s : State) (addr code : Byte) (why : RefuseReason) (h : addr ≠ 0) :
    owe code (.refuse why) s = s.answered addr (code + 0x80) [refuseCode why] := by
  simp only [owe, State.answered, h, false_or]
  rfl

/-- The meaning of a request that its owner answers with a reply, addressed (R173). -/
theorem takeFrame_reply {s t : State} {addr : Byte} {code : Byte} {body reply : List Byte} (h : Takes s addr)
    (hb : body.length ≤ 240) (hc : knownCodes.contains code = true) (hl : lengthFits code body.length = true)
    (ho : ownerOf code body (s.received addr code body) = (t, .reply reply)) :
    takeFrame addr code body s = t.answered addr code reply := by
  rw [takeFrame_takes h code body hb, carryOut_fits _ _ hc hl, ho]
  exact owe_reply t addr code reply h.2.1

/-- The meaning of a request that its owner refuses, addressed (R173). -/
theorem takeFrame_refuse {s : State} {addr : Byte} {code : Byte} {body : List Byte} {why : RefuseReason} (h : Takes s addr)
    (hb : body.length ≤ 240) (hc : knownCodes.contains code = true) (hl : lengthFits code body.length = true)
    (ho : ownerOf code body (s.received addr code body) = (s.received addr code body, .refuse why)) :
    takeFrame addr code body s = s.turnedAway addr code body why := by
  rw [takeFrame_takes h code body hb, carryOut_fits _ _ hc hl, ho]
  exact owe_refuse _ addr code why h.2.1

/-! ### Characters one by one (R169, R170) -/

/-- A character that reaches a receiver in SKIPPING is dropped, and so is every further one (R169). -/
theorem rxChars_skipping (l : Link) (h : l.rx = .skipping) (cs : List Byte) : rxChars l cs = l := by
  induction cs with
  | nil => rfl
  | cons c cs ih =>
    have : rxChar l c = l := by simp [rxChar, h]
    simp only [rxChars, List.foldl_cons, this] at ih ⊢
    exact ih

/-- Characters that reach a receiver in SKIPPING are dropped (R169). -/
theorem receiveChars_skipping (s : State) (h : s.link.rx = .skipping) (cs : List Byte) : receiveChars s cs = s := by
  induction cs with
  | nil => rfl
  | cons c cs ih =>
    have : receiveChar s c = s := by simp [receiveChar, State.modLink, rxChar, h]
    simp only [receiveChars, List.foldl_cons, this] at ih ⊢
    exact ih

theorem receiveChars_append (s : State) (cs ds : List Byte) :
    receiveChars s (cs ++ ds) = receiveChars (receiveChars s cs) ds := List.foldl_append

/-- What is unfinished with further characters is unfinished without them. -/
theorem unfinished_of_append {b cs : List Byte} (h : unfinished (b ++ cs) = true) : unfinished b = true := by
  match b with
  | [] | [_] | [_, _] => rfl
  | _ :: _ :: len :: rest =>
    simp only [unfinished, List.cons_append, Bool.and_eq_true, decide_eq_true_eq, List.length_append] at h ⊢
    omega

/-- A character that leaves the frame unfinished joins the buffer (R169). -/
theorem receiveChar_unfinished (s : State) (c : Byte) (h : s.link.rx = .receiving)
    (hu : unfinished (s.link.buffer ++ [c]) = true) :
    receiveChar s c = s.modLink fun l => { l with buffer := l.buffer ++ [c] } := by
  have hb : bufferComplete (s.link.buffer ++ [c]) = false := by
    match s.link.buffer ++ [c], hu with
    | [], _ | [_], _ | [_, _], _ => rfl
    | _ :: _ :: len :: rest, hu =>
      simp only [unfinished, Bool.and_eq_true, decide_eq_true_eq] at hu
      simp only [bufferComplete, decide_eq_false_iff_not]
      omega
  have hl : lengthTooBig (s.link.buffer ++ [c]) = false := by
    match s.link.buffer ++ [c], hu with
    | [], _ | [_], _ | [_, _], _ => rfl
    | [_, _, len], hu =>
      simp only [unfinished, Bool.and_eq_true, decide_eq_true_eq] at hu
      simp only [lengthTooBig, decide_eq_false_iff_not]
      omega
    | _ :: _ :: _ :: _ :: _, _ => rfl
  simp [receiveChar, State.modLink, rxChar, h, hb, hl]

/-- Characters that leave the frame unfinished join the buffer (R169). -/
theorem receiveChars_unfinished (s : State) (cs : List Byte) (h : s.link.rx = .receiving)
    (hu : unfinished (s.link.buffer ++ cs) = true) :
    receiveChars s cs = s.modLink fun l => { l with buffer := l.buffer ++ cs } := by
  induction cs generalizing s with
  | nil => simp [receiveChars, State.modLink]
  | cons c cs ih =>
    have hu' : unfinished ((s.link.buffer ++ [c]) ++ cs) = true := by simpa using hu
    have h1 := receiveChar_unfinished s c h (unfinished_of_append hu')
    show receiveChars (receiveChar s c) cs = _
    rw [h1, ih _ (by simpa [State.modLink] using h) (by simpa [State.modLink] using hu')]
    simp [State.modLink]

/-- A character that completes the frame begun has it checked, and the receiver is in SKIPPING (R169, R170). -/
theorem receiveChar_completes (s : State) (c : Byte) (h : s.link.rx = .receiving)
    (hf : frameShaped (s.link.buffer ++ [c]) = true) :
    receiveChar s c =
      takeBuffer (s.modLink fun l => { l with rx := .skipping, buffer := l.buffer ++ [c] }) := by
  have hb : bufferComplete (s.link.buffer ++ [c]) = true := by
    match s.link.buffer ++ [c], hf with
    | _ :: _ :: len :: rest, hf =>
      simp only [frameShaped, Bool.and_eq_true, decide_eq_true_eq] at hf
      simp only [bufferComplete, decide_eq_true_eq]
      omega
  simp [receiveChar, State.modLink, rxChar, h, hb]

/-- The buffer with a bad CRC changes nothing; with a good one its frame is handled (R170). -/
theorem takeBuffer_eq (s : State) (addr code len : Byte) (rest : List Byte) (h : s.link.buffer = addr :: code :: len :: rest) :
    takeBuffer s =
      if crcGood s.link.buffer = true then handleFrame addr code (rest.take (rest.length - 2)) s else s := by
  simp only [takeBuffer, h]

end Sys2Proof.Machine
end

