-- ==== Sys2Proof/Laws/Ops.lean ====
section
/-! SUPPORT. What the shared operations do: records by tag, lists in key order, lane lists, tails, slots, eyes, the log, the latch, the
outputs, the release of a bin. -/

namespace Sys2Proof.Machine

open Sys2Proof

/-! ### Lanes -/

theorem mem_allLanes (w : Lane) : w ∈ allLanes := by revert w; decide

theorem mem_allBins (b : Bin) : b ∈ allBins := by revert b; decide

theorem mem_allLotSlots (i : LotSlot) : i ∈ allLotSlots := by revert i; decide

theorem mem_allStations (k : StationIx) : k ∈ allStations := by revert k; decide

/-- A table changed lane by lane, each lane where p holds. -/
theorem foldl_lanes_get {α : Type} (p : Lane → Bool) (f : Lane → α → α) (v : Vector α 4) (w : Lane) :
    (allLanes.foldl (fun v w => if p w then vmod v w (f w) else v) v)[w] = if p w then f w v[w] else v[w] := by
  have hv (v : Vector α 4) (i j : Lane) (c : Bool) (g : α → α) :
      (if c = true then vmod v i g else v)[j] = if c = true ∧ i = j then g v[j] else v[j] := by
    by_cases hc : c = true
    · simp only [hc, if_true, vmod_get, true_and]
    · simp only [hc, if_false, false_and, Bool.false_eq_true]
  simp only [allLanes, List.foldl_cons, List.foldl_nil, hv]
  match w with
  | 0 => simp
  | 1 => simp
  | 2 => simp
  | 3 => simp

/-- The entry of a lane in the lists that a record joins (R67). -/
theorem insertLanes_get (key : Piece → Pos) (pool : List Piece) (r : Piece) (v : Vector (List Nat) 4) (w : Lane) :
    (insertLanes key pool r v)[w] = if hasLane r.footprint w then insertByKey key pool r v[w] else v[w] :=
  foldl_lanes_get (fun w => hasLane r.footprint w) (fun _ => insertByKey key pool r) v w

/-- A lane list without a tag (R68, R69). -/
theorem removeLanes_get (tag : Nat) (v : Vector (List Nat) 4) (w : Lane) :
    (removeLanes tag v)[w] = v[w].filter (· ≠ tag) := by
  have := foldl_lanes_get (fun _ => true) (fun _ (l : List Nat) => l.filter (· ≠ tag)) v w
  simpa [removeLanes] using this

/-- A tail after ageing (R43). -/
theorem ageTails_get (s : State) (w : Lane) : (ageTails s).seq.tails[w] = agedTail s.line.p s.seq.tails[w] := by
  have := foldl_lanes_get (fun _ => true) (fun _ => agedTail s.line.p) s.seq.tails w
  simpa [ageTails] using this

/-! ### Records by tag -/

/-- A change of the record of one tag that keeps its tag leaves the records of the others. -/
theorem piece?_modPiece (s : State) (tag u : Nat) (f : Piece → Piece) (hf : ∀ r, (f r).tag = r.tag) :
    (s.modPiece tag f).piece? u = if u = tag then (s.piece? u).map f else s.piece? u := by
  simp only [State.piece?, State.modPiece]
  induction s.track.pool with
  | nil => simp
  | cons r l ih =>
    have ht : (if r.tag == tag then f r else r).tag = r.tag := by split <;> simp [hf]
    rw [List.map_cons]
    simp only [List.find?_cons, ht]
    by_cases hr : r.tag = u
    · have hb : (r.tag == u) = true := beq_iff_eq.2 hr
      simp only [hb]
      by_cases hu : u = tag <;> simp [hr, hu]
    · have hb : (r.tag == u) = false := beq_eq_false_iff_ne.2 hr
      simp only [hb]
      exact ih

/-- A freed record is in use no longer, and the others are. -/
theorem piece?_freePiece (s : State) (tag u : Nat) :
    (s.freePiece tag).piece? u = if u = tag then none else s.piece? u := by
  simp only [State.piece?, State.freePiece]
  induction s.track.pool with
  | nil => simp
  | cons r l ih =>
    by_cases hr : r.tag = tag
    · rw [List.filter_cons_of_neg (by simp [hr]), ih]
      by_cases hu : u = tag
      · simp [hu]
      · rw [List.find?_cons_of_neg (by simp [hr, Ne.symm hu])]
    · rw [List.filter_cons_of_pos (by simp [hr])]
      by_cases h : r.tag = u
      · have hu : u ≠ tag := h ▸ hr
        rw [List.find?_cons_of_pos (by simp [h]), if_neg hu, List.find?_cons_of_pos (by simp [h])]
      · rw [List.find?_cons_of_neg (by simp [h]), List.find?_cons_of_neg (by simp [h]), ih]

/-- The record of a tag holds that tag and is in the pool. -/
theorem piece?_some {s : State} {tag : Nat} {r : Piece} (h : s.piece? tag = some r) : r ∈ s.track.pool ∧ r.tag = tag := by
  refine ⟨List.mem_of_find?_eq_some h, ?_⟩
  simpa using List.find?_some h

/-- In a pool of distinct tags, a record is found by its tag. -/
theorem piece?_of_mem {s : State} (h : PoolRight s.track) {r : Piece} (hr : r ∈ s.track.pool) : s.piece? r.tag = some r := by
  have hn := h.nodup
  revert hr hn
  simp only [State.piece?]
  generalize s.track.pool = l
  intro hr hn
  induction l with
  | nil => cases hr
  | cons q l ih =>
    rw [List.map_cons, List.nodup_cons] at hn
    rcases List.mem_cons.1 hr with rfl | hr'
    · exact List.find?_cons_of_pos (by simp)
    · have : q.tag ≠ r.tag := fun e => hn.1 (e ▸ List.mem_map_of_mem hr')
      rw [List.find?_cons_of_neg (by simp [this])]
      exact ih hr' hn.2

/-! ### Lists in key order (R66) -/

theorem mem_insertByKey (key : Piece → Pos) (pool : List Piece) (r : Piece) (l : List Nat) (u : Nat) :
    u ∈ insertByKey key pool r l ↔ u = r.tag ∨ u ∈ l := by
  induction l with
  | nil => simp [insertByKey]
  | cons t l ih =>
    unfold insertByKey
    split
    · split
      · simp
      · rw [List.mem_cons, ih, List.mem_cons]; tauto
    · rw [List.mem_cons, ih, List.mem_cons]; tauto

theorem nodup_insertByKey (key : Piece → Pos) (pool : List Piece) (r : Piece) (l : List Nat) (hl : l.Nodup)
    (hr : r.tag ∉ l) : (insertByKey key pool r l).Nodup := by
  induction l with
  | nil => simp [insertByKey]
  | cons t l ih =>
    rw [List.nodup_cons] at hl
    rw [List.mem_cons, not_or] at hr
    have hrest : (t :: insertByKey key pool r l).Nodup := by
      rw [List.nodup_cons, mem_insertByKey]
      exact ⟨fun h => h.elim (fun e => hr.1 e.symm) hl.1, ih hl.2 hr.2⟩
    unfold insertByKey
    split
    · split
      · rw [List.nodup_cons, List.mem_cons, List.nodup_cons]
        exact ⟨not_or.2 hr, hl⟩
      · exact hrest
    · exact hrest

/-- A tag that has left the lists is in no zone and the other tags stay (R68, R69). -/
theorem mem_zone_leaveLists (tag u : Nat) (t : TrackStore) (z : Zone) :
    u ∈ (leaveLists tag t).zone z ↔ u ∈ t.zone z ∧ u ≠ tag := by
  cases z <;> simp [leaveLists, TrackStore.zone]

/-- A record that joins a zone is in that zone, and no other zone changes (R66). -/
theorem mem_zone_joinZone (cfg : LineSettings) (z y : Zone) (r : Piece) (t : TrackStore) (u : Nat) :
    u ∈ (joinZone cfg z r t).zone y ↔ (y = z ∧ u = r.tag) ∨ u ∈ t.zone y := by
  cases z <;> cases y <;> simp [joinZone, TrackStore.zone, mem_insertByKey]

theorem joinZone_pool (cfg : LineSettings) (z : Zone) (r : Piece) (t : TrackStore) : (joinZone cfg z r t).pool = t.pool := by
  cases z <;> rfl

/-! ### New tags (R59) -/

/-- The tag that a new record takes is held by no record in use, as long as fewer records are in use than tries are made. -/
theorem freeTag_fresh (pool : List Piece) (fuel n : Nat) (hn : 1 ≤ n ∧ n ≤ 65535) (hf : fuel ≤ 65535)
    (hp : pool.length < fuel) : ∀ r ∈ pool, r.tag ≠ freeTag pool fuel n := by
  by_contra hcon
  push Not at hcon
  obtain ⟨r, hr, hrt⟩ := hcon
  -- every tag tried is held
  have key : ∀ (k n : Nat), (∃ r ∈ pool, r.tag = freeTag pool k n) → ∀ j < k, ∃ r ∈ pool, r.tag = nextTag^[j] n := by
    intro k
    induction k with
    | zero => intro n _ j hj; omega
    | succ k ih =>
      intro n h j hj
      unfold freeTag at h
      by_cases hany : (pool.any fun r => r.tag == n) = true
      · rw [if_pos hany] at h
        cases j with
        | zero => simpa using hany
        | succ j => exact ih (nextTag n) h j (by omega)
      · rw [if_neg hany] at h
        obtain ⟨q, hq, hqn⟩ := h
        exact absurd (List.any_eq_true.2 ⟨q, hq, by simp [hqn]⟩) hany
  -- and the tags tried are distinct
  have hval : ∀ j, nextTag^[j] n = (n - 1 + j) % 65535 + 1 := by
    intro j
    induction j with
    | zero => have := hn; simp only [Function.iterate_zero, id_eq]; omega
    | succ j ih =>
      rw [Function.iterate_succ_apply', ih, nextTag]
      split <;> omega
  have hinj : Set.InjOn (fun j => nextTag^[j] n) (Finset.range fuel : Finset Nat) := by
    intro a ha b hb hab
    simp only [Finset.coe_range, Set.mem_Iio] at ha hb
    simp only [hval] at hab
    omega
  have hsub : (Finset.range fuel).image (fun j => nextTag^[j] n) ⊆ (pool.map (·.tag)).toFinset := by
    intro x hx
    obtain ⟨j, hj, rfl⟩ := Finset.mem_image.1 hx
    obtain ⟨q, hq, hqt⟩ := key fuel n ⟨r, hr, hrt⟩ j (Finset.mem_range.1 hj)
    exact List.mem_toFinset.2 (List.mem_map.2 ⟨q, hq, hqt⟩)
  have h1 := Finset.card_le_card hsub
  rw [Finset.card_image_of_injOn hinj, Finset.card_range] at h1
  have h2 := List.toFinset_card_le (pool.map (·.tag))
  rw [List.length_map] at h2
  omega

theorem freeTag_range (pool : List Piece) (fuel n : Nat) (hn : 1 ≤ n ∧ n ≤ 65535) :
    1 ≤ freeTag pool fuel n ∧ freeTag pool fuel n ≤ 65535 := by
  induction fuel generalizing n with
  | zero => exact hn
  | succ k ih =>
    unfold freeTag
    split
    · exact ih (nextTag n) (by unfold nextTag; split <;> omega)
    · exact hn

/-! ### Slots (R116, R117) -/

theorem insertSlot_perm (p : Pos) (x : Slot) (l : List Slot) : (insertSlot p x l).Perm (x :: l) := by
  induction l with
  | nil => exact List.Perm.refl _
  | cons y l ih =>
    unfold insertSlot
    split
    · exact List.Perm.refl _
    · exact (ih.cons y).trans (List.Perm.swap x y l)

theorem insertSlot_length (p : Pos) (x : Slot) (l : List Slot) : (insertSlot p x l).length = l.length + 1 :=
  (insertSlot_perm p x l).length_eq

/-- A slot is refused exactly when the table has no room for its action (R117). -/
theorem makeSlot_none (pos : Pos) (a : SlotAction) (d : Drive) (tag : Nat) (s : State) :
    makeSlot pos a d tag s = none ↔ hasRoom s.sched.slots a = false := by
  unfold makeSlot
  cases h : hasRoom s.sched.slots a <;> simp

/-- A slot made stands in the table with its tag, and its place is the last of the record's pending actions (R117). -/
theorem makeSlot_some {pos : Pos} {a : SlotAction} {d : Drive} {tag : Nat} {s t : State}
    (h : makeSlot pos a d tag s = some t) :
    ∃ place, t =
      { s with
        sched :=
          { s.sched with
            slots :=
              insertSlot s.line.p
                { place := place, pos := pos, action := a, drive := d, tags := [tag], passed := false } s.sched.slots }
        track := (s.modPiece tag fun r => { r with actions := r.actions ++ [place] }).track
        due := dueAfterMaking place pos s } := by
  unfold makeSlot at h
  split at h
  · exact ⟨freePlace s.sched.slots Config.slotPlaces 0, (Option.some.inj h).symm⟩
  · cases h

/-- What is due once a slot has been made: what was due and did not name its place, and its own firing when the edge's firing is
still to come and the slot lies at or behind P (R120, log 27). -/
theorem mem_dueAfterMaking (place : Nat) (pos : Pos) (s : State) (d : Due) :
    d ∈ dueAfterMaking place pos s ↔
      (d ∈ s.due ∧ d ≠ .fire place) ∨ (d = .fire place ∧ firingAhead s = true ∧ 0 ≤ posDiff s.line.p pos) := by
  unfold dueAfterMaking atOrPast
  by_cases h : firingAhead s = true ∧ 0 ≤ posDiff s.line.p pos <;> simp [h]

/-- A firing of the present edge is to come exactly when ESTOP is inactive, the edge's mark stands and a slot still stands that
the edge made due (R120). -/
theorem firingAhead_iff (s : State) :
    firingAhead s = true ↔
      s.inputs.estop = false ∧ Due.firing ∈ s.due ∧
        ∃ y ∈ s.sched.slots, Due.fire y.place ∈ s.due ∧ 0 ≤ posDiff s.line.p y.pos := by
  simp [firingAhead, atOrPast, and_assoc]

/-! ### The eyes at an edge (R9, R14, R15) -/

theorem mem_allEyes (e : Eye) : e ∈ allEyes := by
  cases e with
  | n w => revert w; decide
  | x w => revert w; decide
  | k => decide

theorem eyeIx_inj {d e : Eye} (h : eyeIx d = eyeIx e) : d = e := by
  cases d <;> cases e <;> simp [eyeIx, Fin.ext_iff] at h ⊢ <;> omega

/-- The record of an eye after a change of one eye. -/
theorem modEye_eye (s : State) (d e : Eye) (f : EyeRec → EyeRec) :
    (s.modEye d f).eye e = if d = e then f (s.eye e) else s.eye e := by
  unfold State.modEye State.eye vmod
  by_cases h : d = e
  · subst h
    simp
  · have : eyeIx d ≠ eyeIx e := fun g => h (eyeIx_inj g)
    have : (eyeIx d).val ≠ (eyeIx e).val := fun g => this (Fin.ext g)
    simp [h, Vector.getElem_set_ne _ _ this]

/-- At a forward edge an eye of an enabled lane counts its travel while its input is dark, and goes from ACCEPTED to LIGHT while
it is light; every other eye keeps its record (R9, R15, R17). -/
theorem eyeForward_eye (s : State) (d e : Eye) :
    (eyeForward s d).eye e =
      if d = e then
        (if eyeEnabled s.prog.settings.lanes e = true ∧ (s.eye e).dark = true then
          { s.eye e with darkTravel := (s.eye e).darkTravel + 1 }
        else if reportsTail s e = true then { s.eye e with state := .light }
        else s.eye e)
      else s.eye e := by
  unfold eyeForward
  rw [modEye_eye]
  by_cases h : d = e
  · subst h
    cases h1 : eyeEnabled s.prog.settings.lanes d <;> cases h2 : (s.eye d).dark <;>
      by_cases h3 : (s.eye d).state = .accepted <;> simp [reportsTail, h1, h2, h3]
  · simp [h]

/-- The trailing edges of a forward edge keep what no record's measuring changes. -/
theorem eyesForward_kept (s : State) : KeptGrowing (allEyes.foldl eyeForward s) (eyesForward s) :=
  KeptGrowing.foldl _ (fun t e => trailingEdge_kept e t.line.p t) _ _

/-! ### The log and the latch -/

/-- A notice by the room in the log (R160). -/
theorem notice_of_room {s : State} (h : s.log.entries.length < 32) (code : Nat) (pos : Pos) :
    notice code pos s = appendEntry (.notice code pos) s := by
  have : logHasRoom s = true := by simpa [logHasRoom] using h
  simp only [notice, this, if_true]

theorem notice_of_full {s : State} (h : ¬s.log.entries.length < 32) (code : Nat) (pos : Pos) :
    notice code pos s = { s with log := { s.log with dropped := true } } := by
  have : logHasRoom s = false := by simpa [logHasRoom] using h
  simp only [notice, this, Bool.false_eq_true, if_false]

/-- A latch request changes the latch and the feed state alone (R39, R163). -/
theorem latchFault_eq (r : FaultReason) (s : State) :
    latchFault r s =
      { s with
        latch := s.latch.take r
        seq := { s.seq with feed := heldByFault s.prog.settings.faultMode s.seq.feed } } := rfl

/-- A completion of a completed record is ignored (R69). -/
theorem complete_of_done {s : State} {tag : Nat} {r : Piece} (h : s.piece? tag = some r) (hc : r.completion.isSome)
    (k : CompletionKind) (st : Option Stage) : complete tag k st s = s := by
  simp only [complete, h, hc, if_true]

/-- With the log full or anything waiting, a PIECE entry waits: the record is DONE_PENDING and at the back of the order (R159). -/
theorem requestPiece_waits {s : State} (h : ¬(s.log.entries.length < 32 ∧ s.log.order = [])) (tag : Nat) :
    requestPiece tag s =
      { s.modPiece tag fun r => { r with state := .donePending } with
        log := { s.log with order := s.log.order ++ [.piece tag] } } := by
  have : (logHasRoom s && s.log.order.isEmpty) = false := by
    rw [Bool.eq_false_iff]
    intro hb
    rw [Bool.and_eq_true] at hb
    exact h ⟨by simpa [logHasRoom] using hb.1, by simpa using hb.2⟩
  simp only [requestPiece, this, Bool.false_eq_true, if_false]
  rfl

/-! ### The examination outside RUN (R46, step 3) -/

/-- Outside RUN an examination moves the mark, ages the tails and gives the reason FEED_STATE. -/
theorem examine_outside_run {s : State} (h : s.seq.feed ≠ .run) :
    examine s =
      { s with
        seq := { s.seq with mark := s.line.p, tails := (ageTails s).seq.tails }
        stations := s.stations.map fun x => if x.state = .loaded then { x with waitReason := .feedState } else x } := by
  have hs (s : State) (k : StationIx) :
      (if s.stations[k].state = .loaded then setWait k .feedState s else s) =
        { s with stations := vmod s.stations k fun x =>
            if x.state = .loaded then { x with waitReason := .feedState } else x } := by
    split
    · simp only [setWait, State.modStation, vmod]
      congr 2
      simp only [*, if_true]
    · simp only [vmod, *, if_false]
      rw [show s.stations.set k.val s.stations[k] k.isLt = s.stations by simp]
  have hm (v : Vector Station 4) (f : Station → Station) :
      vmod (vmod (vmod (vmod v 0 f) 1 f) 2 f) 3 f = v.map f := by
    apply Vector.ext
    intro i hi
    simp only [vmod_getElem, Vector.getElem_map]
    match i, hi with
    | 0, _ => simp
    | 1, _ => simp
    | 2, _ => simp
    | 3, _ => simp
  have hf : (ageTails { s with seq := { s.seq with mark := s.line.p } }).seq.feed ≠ .run := h
  simp only [examine, hf, ne_eq, not_false_eq_true, if_true]
  simp only [allStations, List.foldl_cons, List.foldl_nil, hs]
  simp only [hm]
  rfl

/-! ### The release of a bin (R115, R138) -/

/-- After an unbinding the lot has no bin and no stack, and its bin is free. -/
theorem unbindLot_frees (i : LotSlot) (b : Bin) (s : State) (h : s.lot.lots[i].bin = some b) :
    (unbindLot i s).lot.lots[i].bin = none ∧ (unbindLot i s).lot.lots[i].stackCount = 0 ∧
      (unbindLot i s).lot.bins[b] = none := by
  unfold unbindLot
  rw [h]
  simp [State.modLot, State.setBin, vmod]

end Sys2Proof.Machine
end

