-- ==== Sys2Proof/Laws/Outputs.lean ====
section
/-! SUPPORT. What the firing of a slot, a stack release and an unbinding do, as the statements say it (R113 to R115, R120, R137,
R138). -/

namespace Sys2Proof.Machine

open Sys2Proof

/-- The records of a list of tags changed one after another by the same idempotent change. -/
theorem foldl_modPiece (f : Piece → Piece) (hf : ∀ r, (f r).tag = r.tag) (h2 : ∀ r, f (f r) = f r) (tags : List Nat)
    (s : State) :
    tags.foldl (fun s tag => s.modPiece tag f) s =
      { s with track := { s.track with pool := s.track.pool.map fun r => if r.tag ∈ tags then f r else r } } := by
  induction tags generalizing s with
  | nil => simp
  | cons g gs ih =>
    rw [List.foldl_cons, ih]
    simp only [State.modPiece, List.map_map]
    congr 3
    funext r
    by_cases hg : r.tag = g <;> by_cases hm : r.tag ∈ gs <;> simp_all

/-- A slot taken out of the table is gone from it and from the pending actions of its records (R120, R125). -/
theorem removeSlot_eq (y : Slot) (s : State) : removeSlot y s = s.withoutSlot y := by
  unfold removeSlot
  rw [foldl_modPiece]
  · simp only [State.withoutSlot, State.setSlots, decide_not]
    rfl
  · intro r; rfl
  · intro r; simp

/-- The retrigger extension, from either state of the channel (R114). -/
theorem retrigger_eq (now w : Nat) (o : Option Nat) : retrigger now w o = some (max (o.getD 0) (now + w)) := by
  cases o <;> simp [retrigger]

/-- The outputs after a slot has fired on its channels (R113, R114, R121 to R123). -/
theorem fireDrive_eq (d : Drive) (s : State) : fireDrive d s = { s with sched := { s.sched with out := s.pulsed d } } := by
  cases d with
  | pf lanes =>
    have : retriggerLanes s.line.now s.prog.settings.wPf lanes s.sched.out.pf = (s.pulsed (.pf lanes)).pf := by
      apply Vector.ext
      intro i hi
      have h := foldl_lanes_get (hasLane lanes) (fun _ => retrigger s.line.now s.prog.settings.wPf) s.sched.out.pf ⟨i, hi⟩
      simp only [retrigger_eq] at h
      exact h.trans (by simp only [State.pulsed, Vector.getElem_ofFn]; rfl)
    simp only [fireDrive, State.modOut, this]
    rfl
  | xf => simp [fireDrive, State.modOut, State.pulsed, retrigger_eq]
  | rj => simp [fireDrive, State.modOut, State.pulsed, retrigger_eq]
  | bf b => simp [fireDrive, State.modOut, State.pulsed, retrigger_eq, vmod]

/-- A slot fires (R114, R120). -/
theorem fireSlot_eq (y : Slot) (s : State) : fireSlot y s = s.fired y := by
  unfold fireSlot
  rw [removeSlot_eq, fireDrive_eq]
  simp only [State.fired, State.withoutSlot, dropDue, State.pulsed, List.filter_filter]
  cases y.drive <;> simp [and_comm]

/-- A stack release is merged into one held, held, or started (R115). -/
theorem requestRelease_eq (b : Bin) (s : State) : requestRelease b s = s.releaseAsked b := by
  unfold requestRelease State.releaseAsked
  split
  · rfl
  · simp only [Bool.or_eq_true]
    split
    · rfl
    · unfold startRelease State.releaseStarted
      simp only [retrigger_eq, vmod]
      cases h : s.lot.bins[b] <;> simp [State.modOut, State.setHeld, State.modLot, vmod, h]

/-- The unbinding of a bound lot (R138). -/
theorem unbindLot_eq (i : LotSlot) (b : Bin) (s : State) (h : s.lot.lots[i].bin = some b) : unbindLot i s = s.unbound i b := by
  have hb : (s.releaseAsked b).lot.bins = s.lot.bins := by
    unfold State.releaseAsked State.releaseStarted
    split <;> try rfl
    split <;> try rfl
    cases s.lot.bins[b] <;> rfl
  unfold unbindLot State.unbound
  rw [h]
  simp only [requestRelease_eq, Nat.pos_iff_ne_zero, ite_not]
  split <;> simp [State.modLot, State.setBin, vmod, hb]

end Sys2Proof.Machine
end

