-- ==== Sys2Proof/Laws/Track.lean ====
section
/-! SUPPORT. Taking a record into use and moving one: the tag it is given, and the zone and lane lists it stands in (R59, R66 to
R68). -/

namespace Sys2Proof.Machine

open Sys2Proof

/-- The tag counter advanced once (R59). -/
theorem nextTag_eq (n : Nat) (hn : 1 ≤ n ∧ n ≤ 65535) : nextTag n = tagAfter n 1 := by
  unfold nextTag tagAfter
  split <;> omega

/-- Among 64 tries from the tag counter the first tag that no record in use holds is taken; with at most 64 records in use there
is one (R59). -/
theorem freeTag_gives (t : TrackStore) (hc : 1 ≤ t.tagCounter ∧ t.tagCounter ≤ 65535) (hs : t.pool.length ≤ 64) :
    GivesTag t (freeTag t.pool Config.poolSize t.tagCounter) := by
  have step : ∀ c n, 1 ≤ c ∧ c ≤ 65535 → tagAfter (nextTag c) n = tagAfter c (n + 1) := by
    intro c n h
    unfold tagAfter nextTag
    split <;> omega
  have first : ∀ (fuel c : Nat), 1 ≤ c ∧ c ≤ 65535 → ∃ n, n ≤ fuel ∧ freeTag t.pool fuel c = tagAfter c n ∧
      (∀ m, m < n → ∃ q ∈ t.pool, q.tag = tagAfter c m) ∧ (n < fuel → ∀ q ∈ t.pool, q.tag ≠ tagAfter c n) := by
    intro fuel
    induction fuel with
    | zero => exact fun c h => ⟨0, Nat.le_refl _, by unfold freeTag tagAfter; omega, by omega, by omega⟩
    | succ k ih =>
      intro c h
      have h0 : tagAfter c 0 = c := by unfold tagAfter; omega
      unfold freeTag
      split
      · rename_i hany
        obtain ⟨n, hn, he, hb, hf⟩ := ih (nextTag c) (by unfold nextTag; split <;> omega)
        rw [step c n h] at he hf
        refine ⟨n + 1, by omega, he, fun m hm => ?_, fun hlt => hf (by omega)⟩
        rcases m with _ | m
        · rw [h0]; simpa using hany
        · obtain ⟨q, hq, ht⟩ := hb m (by omega)
          exact ⟨q, hq, by rw [ht, step c m h]⟩
      · rename_i hany
        refine ⟨0, by omega, h0.symm, by omega, fun _ q hq e => hany ?_⟩
        rw [h0] at e
        exact List.any_eq_true.2 ⟨q, hq, by simp [e]⟩
  obtain ⟨n, hn, he, hb, hf⟩ := first 64 t.tagCounter hc
  refine ⟨?_, n, he, hb⟩
  show ∀ q ∈ t.pool, q.tag ≠ freeTag t.pool 64 t.tagCounter
  rw [he]
  by_cases hlt : n < 64
  · exact hf hlt
  · -- 64 tags are held by the 64 records, so the one after them is not
    obtain rfl : n = 64 := by omega
    intro q hq e
    have hsub : (Finset.range 65).image (tagAfter t.tagCounter) ⊆ (t.pool.map (·.tag)).toFinset := by
      intro x hx
      obtain ⟨m, hm, rfl⟩ := Finset.mem_image.1 hx
      have : ∃ q ∈ t.pool, q.tag = tagAfter t.tagCounter m := by
        by_cases h : m < 64
        · exact hb m h
        · have : m = 64 := by have := Finset.mem_range.1 hm; omega
          exact ⟨q, hq, by rw [e, this]⟩
      obtain ⟨q, hq, ht⟩ := this
      exact List.mem_toFinset.2 (List.mem_map.2 ⟨q, hq, ht⟩)
    have hinj : Set.InjOn (tagAfter t.tagCounter) (Finset.range 65 : Finset Nat) := by
      intro a ha b hb hab
      simp only [Finset.coe_range, Set.mem_Iio] at ha hb
      unfold tagAfter at hab
      omega
    have h1 := Finset.card_le_card hsub
    rw [Finset.card_image_of_injOn hinj, Finset.card_range] at h1
    have h2 := List.toFinset_card_le (t.pool.map (·.tag))
    rw [List.length_map] at h2
    omega

/-- A record that joins a zone stands there and in the lists of its lanes, with all that they held (R66, R67). -/
theorem joinZone_joined (cfg : LineSettings) (z : Zone) (r : Piece) (t : TrackStore) :
    Joined r.tag z r.footprint t (joinZone cfg z r t) := by
  have lane : ∀ (key : Piece → Pos) (v : Vector (List Nat) 4) (w : Lane) g,
      g ∈ (insertLanes key t.pool r v)[w] ↔ (g = r.tag ∧ hasLane r.footprint w = true) ∨ g ∈ v[w] := by
    intro key v w g
    rw [insertLanes_get]
    split <;> simp_all [mem_insertByKey]
  refine ⟨fun y g => ?_, fun w g => ?_, fun w g => ?_⟩
  · rw [mem_zone_joinZone, and_comm]
  · cases z <;> first | exact (lane _ _ w g).trans (by simp) | exact (by simp [joinZone])
  · cases z <;> first | exact (lane _ _ w g).trans (by simp) | exact (by simp [joinZone])

/-- A record taken into use has the tag of R59 and stands in its zone and the lists of its lanes. -/
theorem takeRecord_joined (z : Zone) (f : Nat → Pos → Piece) (s : State) (hf : ∀ g q, (f g q).tag = g)
    (hc : 1 ≤ s.track.tagCounter ∧ s.track.tagCounter ≤ 65535) (hs : s.track.pool.length ≤ 64) :
    let tag := (takeRecord z f s).1
    GivesTag s.track tag ∧ Joined tag z (f tag s.track.takeCounter).footprint s.track (takeRecord z f s).2.track := by
  refine ⟨freeTag_gives s.track hc hs, ?_⟩
  have h := joinZone_joined s.prog.settings z (f (takeRecord z f s).1 s.track.takeCounter)
    { s.track with
      pool := s.track.pool ++ [f (takeRecord z f s).1 s.track.takeCounter], tagCounter := nextTag (takeRecord z f s).1
      takeCounter := s.track.takeCounter + 1#32 }
  rw [hf] at h
  exact ⟨fun y g => h.zones y g, fun w g => h.entry w g, fun w g => h.exit w g⟩

/-- A record that moves to a zone stands there and in the lists of its lanes alone, and every other tag where it stood (R68). -/
theorem moveRecord_moved (z : Zone) (f : Piece → Piece) (s : State) (r : Piece) (hr : s.piece? r.tag = some r)
    (hf : ∀ q, (f q).tag = q.tag) :
    Moved r.tag z (f r).footprint s.track (moveRecord r.tag z f s).track := by
  have hp : (s.modPiece r.tag f).piece? r.tag = some (f r) := by
    rw [piece?_modPiece s r.tag r.tag f hf, if_pos rfl, hr]; rfl
  have hm : (moveRecord r.tag z f s).track =
      joinZone s.prog.settings z (f r) (leaveLists r.tag (s.modPiece r.tag f).track) := by
    simp only [moveRecord, hp]
    rfl
  have h := joinZone_joined s.prog.settings z (f r) (leaveLists r.tag (s.modPiece r.tag f).track)
  rw [hf] at h
  rw [hm]
  refine ⟨fun y g => ?_, fun w g => ?_, fun w g => ?_, ?_⟩
  · rw [h.zones, mem_zone_leaveLists]
    cases y <;> exact or_congr Iff.rfl and_comm
  · rw [h.entry]
    refine or_congr Iff.rfl ?_
    show g ∈ (removeLanes r.tag s.track.entryLists)[w] ↔ _
    rw [removeLanes_get, List.mem_filter]
    simp [and_comm]
  · rw [h.exit]
    refine or_congr Iff.rfl ?_
    show g ∈ (removeLanes r.tag s.track.exitLists)[w] ↔ _
    rw [removeLanes_get, List.mem_filter]
    simp [and_comm]
  · cases z <;> exact ⟨rfl, rfl⟩

end Sys2Proof.Machine
end

