-- ==== Sys2Proof/Tests/Slice0.lean ====
section
/-! SUPPORT. Tests: the ill-formed terms that WellFormed refuses, worked cases of the manual, and for each statement that has
hypotheses a state and operands that meet them. Expected results come from the manual's worked cases and tables, or from hand
calculation by its rules. -/

namespace Sys2Proof.Machine.Tests

open Sys2Proof Sys2Proof.Machine

-- One test after the other: checked side by side, the kernel's evaluations take a thread and its stack each.
set_option Elab.async false

/-! ### WellFormed: one ill-formed term for each check -/

theorem test_refuses_finished_quiet : (Instr.lineQuiet [1, 0x53, 0, 0, 0]).wellFormed = false := by decide
theorem test_refuses_misshapen_frame : (Instr.frameDiscarded [1, 0x53, 1, 0, 0]).wellFormed = false := by decide
theorem test_refuses_error_before_a_character : (Instr.parityOrFramingError []).wellFormed = false := by decide
theorem test_refuses_length_240 : (Instr.lengthAbove240 1 0x53 240).wellFormed = false := by decide
theorem test_refuses_known_code : (Instr.unknownRequest 1 0x53 []).wellFormed = false := by decide
theorem test_refuses_long_body : (Instr.echo 1 (List.replicate 241 0)).wellFormed = false := by decide +kernel
theorem test_refuses_feed_on_0 : (Instr.feedOn 1 [0]).wellFormed = false := by decide
theorem test_refuses_feed_off_1 : (Instr.feedOff 1 [1]).wellFormed = false := by decide
theorem test_refuses_disable_1 : (Instr.stationEnableDisable 1 [1, 1]).wellFormed = false := by decide
theorem test_refuses_enable_0 : (Instr.stationEnableEnable 1 [1, 0]).wellFormed = false := by decide
theorem test_refuses_clear_1 : (Instr.stationEnableClear 1 [1, 1]).wellFormed = false := by decide
theorem test_refuses_purge_6 : (Instr.purge 1 [6, 0, 0]).wellFormed = false := by decide
theorem test_refuses_purge_tag_5 : (Instr.purgeTag 1 [5, 0, 0]).wellFormed = false := by decide

/-! ### States to start from -/

/-- The state a command leaves. -/
def after (c : Instr) (s : State) : State :=
  match exec c s with
  | .next t => t
  | .fault _ => s
  | .refused _ => s

/-- Right after reset, with the line quiet: KEY at SETUP, feed OFF, address 1. -/
def heard : State := { State.reset with link := { State.reset.link with rx := .waiting } }

/-- The sheet program of the worked sequences. -/
def sheet : ProgramRec where
  width := .full
  nominal := 2700
  minLength := 2300
  maxLength := 3100
  gapMin := 400
  shrink := 1010
  folds := [128]
  fold := true
  cross := true
  stack := true
  refineWindow := 40

/-- The pillowcase program of the worked sequences. -/
def pillow : ProgramRec :=
  { sheet with width := .single, nominal := 900, minLength := 800, maxLength := 1000, gapMin := 300, shrink := 1000 }

/-- The feed in RUN at v = 750 and P = 50,000 on the factory settings: program 1 is the sheet, program 4 the pillowcase, lot 7 is
OPEN on bin 3, and an examination is due. -/
def running : State :=
  { heard with
    line := { heard.line with p := 50000#32, fullWindows := 4, hist := #v[8, 7, 8, 7] }
    inputs := { heard.inputs with key := .run, lineRun := true }
    seq := { heard.seq with feed := .run, mark := 49992#32 }
    prog :=
      { heard.prog with valid := true, programs := (heard.prog.programs.set 1 (some sheet)).set 4 (some pillow) }
    lot :=
      { lots := heard.lot.lots.set 0 { Lot.free with state := .opened, id := 7, stackSize := 3, bin := some 2 }
        bins := heard.lot.bins.set 2 (some 0) }
    due := [.grant] }

/-- Program 4 for lot 7. -/
def work : Assignment := { program := 4, lotId := 7 }

/-- Station 2 LOADED for lot 7. -/
def loaded : State :=
  running.modStation 1 fun x => { x with state := .loaded, current := some work, snapshot := some work }

/-- The tails of the worked gap check. -/
def withTails (s : State) : State :=
  { s with
    seq :=
      { s.seq with
        tails :=
          #v[some { pos := 51900#32, lotId := 7, tag := 301 }, some { pos := 52100#32, lotId := 7, tag := 302 },
            some { pos := 51700#32, lotId := 9, tag := 299 }, some { pos := 51950#32, lotId := 7, tag := 300 }] } }

/-! ### Worked cases of the manual -/

/-- The CRC of R168. -/
theorem test_crc : crc16 [0x31, 0x32, 0x33, 0x34, 0x35, 0x36, 0x37, 0x38, 0x39] = 0x29B1#16 := by decide +kernel

/-- The worked leads of 1.3. -/
theorem test_leads :
    lead running 60 = 45 ∧ lead running 90 = 68 ∧ lead running 80 = 60 ∧ lead running 0 = 0 ∧
      lead { running with line := { running.line with fullWindows := 3 } } 80 = 48 ∧
      lead { running with line := { running.line with hist := #v[-3, -3, -3, -3] } } 90 = 0 ∧
      lead { running with line := { running.line with hist := #v[60, 60, 60, 60] } } 100 = 400 := by decide +kernel

/-- P wraps at its ends (R1). -/
theorem test_p_wraps :
    (after (.countedEdge .b) heard).line.p = 0xFFFFFFFF#32 ∧ (after (.countedEdge .b) heard).line.dir = .reverse ∧
      (after (.countedEdge .a) (after (.countedEdge .a) heard)).line.p = 0#32 := by decide +kernel

/-- The worked gap check of 3.6: granted at 50,000, LANE_GAP 64 counts earlier. -/
theorem test_gap_check :
    failing (withTails loaded) 1 work = none ∧
      failing { withTails loaded with line := { loaded.line with p := 49936#32 } } 1 work = some .laneGap := by decide +kernel

/-- The three stations in one scan of 3.8: stations 2 and 4 are granted, station 3 waits with LOT_GAP. -/
theorem test_three_stations :
    let other : Assignment := { program := 4, lotId := 9 }
    let s := withTails loaded
    let s := { s with
      seq := { s.seq with scanStart := 1 }
      track := { s.track with tagCounter := 305 }
      lot :=
        { lots := s.lot.lots.set 1 { Lot.free with state := .opened, id := 9, stackSize := 3, bin := some 0 }
          bins := s.lot.bins.set 0 (some 1) } }
    let s := s.modStation 2 fun x => { x with state := .loaded, snapshot := some other, waitCount := 1 }
    let s := s.modStation 3 fun x => { x with state := .loaded, snapshot := some work }
    let t := after .grantStep s
    t.stations.map (·.state) = #v[.idle, .releasing, .loaded, .releasing] ∧ t.stations[2].waitCount = 3 ∧
      t.stations[2].waitReason = .lotGap ∧ t.seq.scanStart = 0 ∧
      t.seq.tails[1] = some { pos := 53360#32, lotId := 7, tag := 305 } ∧
      t.seq.tails[3] = some { pos := 53460#32, lotId := 7, tag := 306 } := by decide +kernel

/-- The sheet of the mixed shift, FOLDING with its exit lead at 112,010, planned at P = 112,016. -/
def sheetPiece : Piece :=
  { entryStray 1 102404#32 501 0#32 with
    kind := .fed, state := .folding, program := some 1, lot := some { slot := 0, id := 7 }, footprint := 0b1111#4,
    reason := none, route := .stack, entryLength := some 2716, exitLead := some 112010#32, exitSeen := 0b1111#4 }

/-- The line with the sheet under its exit eyes. -/
def folding : State :=
  { running with
    line := { running.line with p := 112016#32 }
    track := { running.track with pool := [sheetPiece], foldZone := [501], tagCounter := 502 }
    lot := { running.lot with lots := running.lot.lots.set 0 { running.lot.lots[0] with released := 1, inFlight := 1 } }
    prog := { running.prog with inFlight := running.prog.inFlight.set 1 1 }
    due := [] }

/-- L_est, FOLD1 and CROSS of the sheet in the mixed shift. -/
theorem test_sheet_plan :
    let t := planExit 501 folding
    (t.sched.slots.map fun y => (y.pos, y.action)) = [(115104#32, .fold1), (116812#32, .cross)] ∧
      (t.piece? 501).bind (·.lEst) = some 2679 := by decide +kernel

/-- The refinement of the sheet: FOLD1 moves to 115,105, CROSS stays. -/
theorem test_sheet_refined :
    let s := planExit 501 folding
    let t := exitLengthKnown 501 2680 { s with line := { s.line with p := 114690#32 } }
    (t.sched.slots.map fun y => (y.pos, y.action)) = [(115105#32, .fold1), (116812#32, .cross)] := by decide +kernel

/-- Two rows into one bin of chapter 7: the pulse ends, the stack counts, the release held and then started. -/
theorem test_two_rows :
    let y : Slot := { place := 0, pos := 94552#32, action := .drop, drive := .bf 2, tags := [501], passed := false }
    let s := { folding with
      line := { folding.line with p := 94672#32, now := 160 }
      sched :=
        { folding.sched with
          slots := [{ y with pos := 94672#32 }]
          out := { folding.sched.out with bf := folding.sched.out.bf.set 2 (some 200) } }
      lot := { folding.lot with lots := folding.lot.lots.set 0 { folding.lot.lots[0] with stackCount := 2 } }
      due := [.fire 0] }
    let t := after .dropSlotFire s
    let u := after (.pulseEnd (.bf 2)) t
    t.sched.out.bf[2] = some 360 ∧ t.lot.lots[0].stackCount = 3 ∧ t.sched.held[2] = true ∧ t.track.pool = [] ∧
      u.sched.out.bf[2] = none ∧ u.sched.out.sr[2] = some 660 ∧ u.lot.lots[0].stackCount = 0 ∧ u.sched.held[2] = false := by
  decide +kernel

/-- The table of R15: an ACCEPTED eye keeps its lead in reverse motion and reports at the next forward edge. -/
theorem test_accepted_in_reverse :
    let s := { heard with
      line := { heard.line with dir := .reverse }
      eyes := heard.eyes.set 0 { dark := true, state := .accepted, cLead := 0#32, darkTravel := 9 } }
    let t := after (.eyeLight (.n 0)) s
    (t.eye (.n 0)).state = .accepted ∧ ((after (.countedEdge .a) t).eye (.n 0)).state = .light := by decide +kernel

/-- A full log: a completion waits and a take brings it in (R159, R162). -/
theorem test_full_log :
    let full := List.replicate 32 { number := 0, body := EntryBody.notice 1 0#32 }
    let s := { folding with
      seq := { folding.seq with feed := .off }, log := { folding.log with entries := full, counter := 32 } }
    let t := after (.purgeTag 1 [6, 0xF5, 1]) s
    let u := after (.logTake 1 [1]) { t with link := heard.link }
    t.log.order = [.piece 501] ∧ (t.piece? 501).map (·.state) = some .donePending ∧ t.link.owed.map (·.body) = some [1] ∧
      u.log.order = [] ∧ u.log.entries.length = 32 ∧ u.track.pool = [] ∧ u.lot.lots[0].purged = 1 ∧
      u.link.owed.map (·.body) = some [1, 32, 0] := by decide +kernel

/-- The factory defaults read back from their 83 characters (R151, R171). -/
theorem test_factory_defaults : readSettings (settingsBytes factoryDefaults) = some factoryDefaults := by decide +kernel

/-- A program record of distinct fields, in characters written out by the table of R176. -/
theorem test_program_layout :
    readProgram [9, 1, 2, 0xE8, 3, 0x84, 3, 0x4C, 4, 0x2C, 1, 0xE9, 3, 2, 90, 180, 0xFD, 40, 0] 1 =
      some
        (some
          { width := .double, nominal := 1000, minLength := 900, maxLength := 1100, gapMin := 300, shrink := 1001,
            folds := [90, 180], fold := true, cross := false, stack := true, refineWindow := 40 }) := by decide +kernel

/-- A line settings record of distinct fields, in the order of the table of R151 and the widths of R171. -/
theorem test_settings_layout :
    readSettings
        ([0b0101] ++ [1, 2, 3, 4].flatMap le16 ++ le16 1005 ++ [106, 107, 108, 109].flatMap le16 ++
          [110, 111, 112, 113, 114, 115].flatMap le16 ++ [16, 17, 18, 19, 20, 21].flatMap le16 ++ [22, 23, 24, 25, 26] ++
          [27, 28, 29, 30, 31, 32].flatMap le16 ++ [33, 34, 135].flatMap le16 ++ [36] ++
          [1037, 58, 59, 40].flatMap le16 ++ [4] ++ le32 1000042 ++ [1, 1, 15]) =
      some
        { lanes := 0b0101#4, dStation := #v[1, 2, 3, 4], lIron := 1005, dPf := 106, dRj := 107, dXf := 108, dStk := 109,
          dBin := #v[110, 111, 112, 113, 114, 115], tolEntryEarly := 16, tolEntryLate := 17, tolExitEarly := 18,
          tolExitLate := 19, tolStkEarly := 20, tolStkLate := 21, tRel := 22, tPf := 23, tXf := 24, tRj := 25, tBin := 26,
          wRel := 27, wPf := 28, wXf := 29, wRj := 30, wBin := 31, wSr := 32, leadMax := 33, arming := 34, xfCycle := 135,
          eyeMin := 36, eyeBlock := 1037, speedMin := 58, speedNominal := 59, lotGap := 40, binsEnabled := 4,
          idleDistance := 1000042, faultMode := .carryOn, rotation := .crossed, starveLimit := 15 } := by decide +kernel

/-- The record whose entry ends the close of its lot is the last of a program with a staged copy: the lot loses its bin before the
examination of the staged apply, so lot 9 takes that bin and lot 8 is not evicted (R133, R140, R148). -/
theorem test_closed_lot_is_unbound_before_the_staged_apply :
    let s := { folding with
      prog :=
        { folding.prog with
          staged := folding.prog.staged.set 1 (some (some sheet)), settings := { factoryDefaults with binsEnabled := 2 } }
      lot :=
        { lots :=
            ((folding.lot.lots.set 0 { folding.lot.lots[0] with state := .closing, bin := some 0 }).set 1
              { Lot.free with state := .opened, id := 8, stackSize := 3, bin := some 1 }).set 2
              { Lot.free with state := .opened, id := 9, stackSize := 3 }
          bins := #v[some 0, some 1, none, none, none, none] } }
    let s := s.modStation 1 fun x => { x with state := .loaded, snapshot := some { program := 4, lotId := 9 } }
    let t := complete 501 .returned none s
    t.lot.lots.map (·.bin) = #v[none, some 1, some 0, none, none, none, none, none] ∧ t.lot.lots[0].state = .free ∧
      t.stations[1].state = .releasing ∧ t.prog.staged[1] = none ∧ t.log.entries.length = 2 := by decide +kernel

/-! ### Variants of the starting states -/

/-- The supply off. -/
def unpowered : State := { heard with powered := false }

/-- A reply owed. -/
def owing (waits quiet : Bool) : State :=
  { heard with link := { heard.link with quiet := quiet, owed := some { code := 0x53, body := [], awaitsStore := waits } } }

/-- KEY at RUN, feed OFF, the line not running. -/
def keyed : State := { heard with inputs := { heard.inputs with key := .run } }

/-- The latch latched with ENCODER. -/
def latched (s : State) : State := { s with latch := { latched := true, first := some .encoder, seen := 0b0001000#7 } }

/-- The sheet under its exit eyes, feed OFF and KEY at SETUP. -/
def foldingOff : State :=
  { folding with seq := { folding.seq with feed := .off }, inputs := { folding.inputs with key := .setup } }

/-- A full log. -/
def fullLog (s : State) : State :=
  { s with
    log := { s.log with entries := List.replicate 32 { number := 0, body := .notice 1 0#32 }, counter := 32 } }

/-- A slot of the sheet. -/
def aSlot (a : SlotAction) (d : Drive) (p : Pos) : Slot :=
  { place := 0, pos := p, action := a, drive := d, tags := [501], passed := false }

/-- The sheet with one slot due at P. -/
def firing (a : SlotAction) (d : Drive) : State :=
  { folding with sched := { folding.sched with slots := [aSlot a d 112016#32] }, due := [.fire 0] }

theorem takes_heard : Takes heard 1 := ⟨⟨rfl, rfl⟩, by decide, rfl, rfl⟩
theorem takes_running : Takes running 1 := ⟨⟨rfl, rfl⟩, by decide, rfl, rfl⟩
theorem takes_folding : Takes folding 1 := ⟨⟨rfl, rfl⟩, by decide, rfl, rfl⟩
theorem takes_foldingOff : Takes foldingOff 1 := ⟨⟨rfl, rfl⟩, by decide, rfl, rfl⟩

/-- Both a broadcast and an addressed frame are taken. -/
theorem takesAny_heard : TakesAny heard 0 ∧ TakesAny heard 1 :=
  ⟨⟨⟨rfl, rfl⟩, .inl rfl⟩, ⟨⟨rfl, rfl⟩, .inr ⟨by decide, rfl, rfl⟩⟩⟩

theorem poolRight_folding : PoolRight folding.track :=
  ⟨by decide +kernel, by decide +kernel, by decide +kernel, by decide +kernel⟩

theorem zonesRight_folding : ZonesRight folding.track := by
  constructor
  · intro z tag
    cases z <;> simp [folding, running, heard, State.reset, TrackStore.initial, TrackStore.zone, zoneState, sheetPiece,
      entryStray, strayRecord, eq_comm]
  · intro z
    cases z <;> decide +kernel
  · simp [folding, running, heard, State.reset, TrackStore.initial, sheetPiece, entryStray]
  · simp [folding, running, heard, State.reset, TrackStore.initial, sheetPiece, entryStray]
  · decide +kernel
  · decide +kernel

theorem accountsRight_folding : AccountsRight folding := by
  constructor
  · decide +kernel
  · decide +kernel
  · decide +kernel
  · simp [folding, running, heard, State.reset, TrackStore.initial, sheetPiece, entryStray]
  · decide +kernel
  · decide +kernel
  · decide +kernel
  · decide +kernel
  · decide +kernel
  · decide +kernel
  · simp [folding, running, heard, State.reset, CompletionLog.initial]
  · simp [folding, running, heard, State.reset, CompletionLog.initial, sheetPiece, entryStray]
  · decide +kernel
  · decide +kernel

/-! ### The step, the line and the link -/

theorem witness_step :
    { heard with pending := [.reply] }.pending = [Instr.reply] ∧ heard.pending = [] ∧ unpowered.powered = false ∧
      ∀ smp, Instr.grantStep ≠ .powerOn smp := ⟨rfl, rfl, rfl, fun _ => nofun⟩

theorem witness_frames :
    (Instr.echo 1 (List.replicate 240 7)).wellFormed = true ∧ (Instr.echo 1 (List.replicate 240 7)).frame?.isSome = true ∧
      (Instr.unknownRequest 0 0xFF []).wellFormed = true ∧ (Instr.unknownRequest 0 0xFF []).frame?.isSome = true := by
  decide +kernel

theorem witness_receiver :
    heard.link.rx = .waiting ∧ (List.replicate 240 (0 : Byte)).length ≤ 240 ∧ ([] : List Byte).length ≤ 240 ∧
      4 < (frameBytes 1 0x53 []).length ∧ 240 < (241 : Byte).toNat ∧ 240 < (255 : Byte).toNat := by decide +kernel

theorem witness_refused_requests :
    Takes heard 1 ∧ (Instr.unknownRequest 1 0x64 []).wellFormed = true ∧
      requestParts (.unknownRequest 1 0x64 []) = some (1, 0x64, []) ∧ (0x64 : Byte) ∉ knownCodes ∧
      (Instr.quiet 1 [0]).wellFormed = true ∧ requestParts (.quiet 1 [0]) = some (1, 0x60, [0]) ∧
      (0x60 : Byte) ∈ knownCodes ∧ lengthFits 0x60 1 = false :=
  ⟨takes_heard, by decide, rfl, by decide, by decide, rfl, by decide, by decide⟩

theorem witness_frames_of_others :
    Hears heard ∧ (2 : Byte).toNat ≠ heard.link.address.val ∧ Hears (owing false false) ∧
      (owing false false).link.owed.isSome = true ∧ broadcastCode 0x53 = false ∧ lengthFits 0x60 1 = false ∧
      requestParts (.status 2 []) = some (2, 0x53, []) ∧ (Instr.status 2 []).wellFormed = true :=
  ⟨⟨rfl, rfl⟩, by decide, ⟨rfl, rfl⟩, rfl, by decide, by decide, rfl, by decide⟩

theorem witness_line_events :
    heard.powered = true ∧ heard.link.rx = .waiting ∧ unfinished [1] = true ∧
      unfinished ([1, 0x63, 240] ++ List.replicate 241 0) = true ∧ 240 < (241 : Byte).toNat ∧
      frameShaped [1, 0x53, 0, 0, 0] = true ∧ crcGood [1, 0x53, 0, 0, 0] = false ∧
      frameShaped (frameBytes 2 0x53 []) = true ∧ ((frameBytes 2 0x53 []).headD 0).toNat ≠ heard.link.address.val ∧
      (owing true false).link.owed.isSome = true ∧ (owing false true).link.quiet = true ∧
      (owing false false).link.quiet = false ∧ heard.link.owed = none := by decide +kernel

theorem witness_echo : Takes heard 1 ∧ Hears heard ∧ (List.replicate 240 (0 : Byte)).length ≤ 240 :=
  ⟨takes_heard, takes_heard.1, by decide +kernel⟩

theorem witness_quiet_kept :
    let q : State := { heard with link := { heard.link with quiet := true } }
    QuietOwesNothing q ∧ step q = .next (idleTick q) := ⟨fun _ => ⟨rfl, by decide⟩, rfl⟩

/-! ### Requests -/

theorem witness_feed :
    TakesAny heard 0 ∧ heard.inputs.key = .setup ∧ heard.inputs.estop = false ∧
      { heard with inputs := { heard.inputs with estop := true } }.inputs.estop = true ∧
      (running.inputs.estop = false ∧ running.inputs.key = .run ∧ running.seq.feed ≠ .off) ∧
      ((latched keyed).seq.feed = .off ∧ faultHolds (latched keyed) = true) ∧
      (keyed.seq.feed = .off ∧ faultHolds keyed = false ∧ runConditions keyed = false) ∧
      ((running.setFeed .off).seq.feed = .off ∧ faultHolds (running.setFeed .off) = false ∧
        runConditions (running.setFeed .off) = true) ∧
      (2 : Byte) ≠ 0 ∧ (2 : Byte) ≠ 1 := by
  refine ⟨takesAny_heard.1, ?_⟩
  decide +kernel

/-- The lot ids of the starting state stand once each. -/
theorem running_ids :
    ∀ i j : LotSlot, running.lot.lots[i].state ≠ .free → running.lot.lots[j].state ≠ .free →
      running.lot.lots[i].id = running.lot.lots[j].id → i = j := by decide +kernel

theorem witness_assign :
    Takes running 1 ∧ (0 : Byte).toNat = 0 ∧ 4 < (5 : Byte).toNat ∧ (1 : Byte).toNat = (0 : StationIx).val + 1 ∧
      (4 : Byte).toNat = (3 : StationIx).val + 1 ∧ 32 ≤ (32 : Byte).toNat ∧ (31 : Byte).toNat = (31 : ProgramIx).val ∧
      (∀ i : LotSlot, running.lot.lots[i].state = .free ∨ running.lot.lots[i].id ≠ (8 : Byte).toNat + 256 * (0 : Byte).toNat) ∧
      running.lot.lots[0].id = (7 : Byte).toNat + 256 * (0 : Byte).toNat ∧ running.lot.lots[0].state = .opened ∧
      (running.modLot 0 fun l => { l with state := .closing }).lot.lots[0].state = .closing := by
  refine ⟨takes_running, ?_⟩
  decide +kernel

theorem witness_station_enable :
    Takes heard 1 ∧ 2 < (3 : Byte).toNat ∧ 2 < (255 : Byte).toNat ∧ (0 : Byte).toNat = 0 ∧ 4 < (5 : Byte).toNat ∧
      (1 : Byte).toNat = (0 : StationIx).val + 1 ∧ (4 : Byte).toNat = (3 : StationIx).val + 1 :=
  ⟨takes_heard, by decide, by decide, by decide, by decide, by decide, by decide⟩

theorem witness_clear :
    let d (a : Option Assignment) := heard.modStation 0 fun x => { x with state := .disabled, snapshot := a }
    Takes (d none) 1 ∧ heard.stations[0].state ≠ .disabled ∧ (d none).stations[0].snapshot = none ∧
      (d none).stations[0].state = .disabled ∧ (d (some work)).stations[0].snapshot ≠ none := by
  refine ⟨⟨⟨rfl, rfl⟩, by decide, rfl, rfl⟩, ?_⟩
  decide +kernel

theorem witness_reads :
    Takes folding 1 ∧ folding.lot.lots[0].state ≠ .free ∧
      folding.lot.lots[0].id = (7 : Byte).toNat + 256 * (0 : Byte).toNat ∧ (∀ j : LotSlot, ¬j < 0) ∧
      folding.piece? ((0xF5 : Byte).toNat + 256 * (1 : Byte).toNat) = some sheetPiece ∧
      (∀ i : LotSlot, folding.lot.lots[i].state = .free ∨ folding.lot.lots[i].id ≠ (8 : Byte).toNat + 256 * (0 : Byte).toNat) ∧
      (∀ r ∈ folding.track.pool, r.tag ≠ (0xF6 : Byte).toNat + 256 * (1 : Byte).toNat) := by
  refine ⟨takes_folding, ?_⟩
  decide +kernel

theorem witness_records : programPasses (some sheet) = true ∧ programPasses none = true ∧ factoryDefaults.passes = true := by
  decide +kernel

theorem witness_lot_open :
    Takes running 1 ∧ (0 : Byte).toNat = 0 ∧ 50 < (51 : Byte).toNat ∧ 1 ≤ (1 : Byte).toNat ∧ (50 : Byte).toNat ≤ 50 ∧
      (running.lot.lots[0].state ≠ .free ∧ running.lot.lots[0].id = (7 : Byte).toNat + 256 * (0 : Byte).toNat) ∧
      (∀ i : LotSlot, running.lot.lots[i].state = .free ∨ running.lot.lots[i].id ≠ (8 : Byte).toNat + 256 * (0 : Byte).toNat) ∧
      running.lot.lots[1].state = .free ∧ (∀ j : LotSlot, j < 1 → running.lot.lots[j].state ≠ .free) := by
  refine ⟨takes_running, ?_⟩
  decide +kernel

/-- No lot slot FREE. -/
theorem witness_no_room :
    let s : State :=
      { heard with lot := { heard.lot with lots := Vector.ofFn fun i => { Lot.free with state := .opened, id := i.val + 1 } } }
    Takes s 1 ∧ ∀ i : LotSlot, s.lot.lots[i].state ≠ .free ∧ s.lot.lots[i].id ≠ (9 : Byte).toNat + 256 * (0 : Byte).toNat := by
  refine ⟨⟨⟨rfl, rfl⟩, by decide, rfl, rfl⟩, ?_⟩
  decide +kernel

theorem witness_lot_close :
    Takes folding 1 ∧ 0 < folding.lot.lots[0].inFlight ∧ folding.lot.lots[0].state = .opened ∧
      running.lot.lots[0].inFlight = 0 ∧ running.log.entries.length < 32 ∧ running.log.order = [] ∧
      ¬((fullLog running).log.entries.length < 32 ∧ (fullLog running).log.order = []) ∧
      running.lot.lots[0].id = (7 : Byte).toNat + 256 * (0 : Byte).toNat := by
  refine ⟨takes_folding, ?_⟩
  decide +kernel

theorem witness_program_write :
    Takes foldingOff 1 ∧ foldingOff.inputs.key = .setup ∧ running.inputs.key = .run ∧ (programBytes (some sheet)).length = 18 ∧
      32 ≤ (32 : Byte).toNat ∧ (31 : Byte).toNat = (31 : ProgramIx).val ∧
      readProgram (1 :: List.replicate 18 2) 1 = none ∧ readProgram (1 :: programBytes (some sheet)) 1 = some (some sheet) ∧
      0 < foldingOff.prog.inFlight[1] ∧ foldingOff.prog.inFlight[4] = 0 := by
  refine ⟨takes_foldingOff, ?_⟩
  decide +kernel

theorem witness_settings_write :
    Takes heard 1 ∧ (settingsBytes factoryDefaults).length = 83 ∧ running.inputs.key = .run ∧ heard.inputs.key = .setup ∧
      foldingOff.track.pool ≠ [] ∧ heard.seq.feed = .off ∧ heard.track.pool = [] ∧
      readSettings (List.replicate 83 0) = none ∧
      readSettings (settingsBytes { factoryDefaults with binsEnabled := 5 }) = some { factoryDefaults with binsEnabled := 5 } ∧
      ∀ (i : LotSlot) (b : Bin), heard.lot.lots[i].bin = some b ↔ heard.lot.bins[b] = some i := by
  refine ⟨takes_heard, ?_⟩
  decide +kernel

theorem witness_completion :
    PoolRight folding.track ∧ folding.piece? 501 = some sheetPiece ∧ sheetPiece.completion = none ∧
      folding.log.entries.length < 32 ∧ folding.log.order = [] ∧ foldingOff.seq.feed ≠ .run ∧
      (fullLog folding).log.entries.length = 32 := by
  refine ⟨poolRight_folding, ?_⟩
  decide +kernel

/-- A record that waits in DONE_PENDING, for the clause that leaves a completed record. -/
theorem witness_completed :
    let done : Piece := { sheetPiece with state := .donePending, completion := some { kind := .lost, stage := none, pos := 0#32 } }
    let s : State := { folding with track := { folding.track with pool := [done], foldZone := [] } }
    PoolRight s.track ∧ s.piece? 501 = some done ∧ done.completion ≠ none := by
  refine ⟨⟨?_, ?_, ?_, ?_⟩, ?_⟩ <;> decide +kernel

theorem witness_purge :
    Takes foldingOff 1 ∧ PoolRight foldingOff.track ∧ ZonesRight foldingOff.track ∧ foldingOff.seq.feed ≠ .run ∧
      (0 : Byte).toNat = 0 ∧ 6 < (7 : Byte).toNat ∧ 501 ∈ foldingOff.track.zone .fold ∧
      (∀ r ∈ foldingOff.track.pool, r.tag ≠ (0xF6 : Byte).toNat + 256 * (1 : Byte).toNat) ∧
      foldingOff.piece? ((0xF5 : Byte).toNat + 256 * (1 : Byte).toNat) = some sheetPiece ∧ sheetPiece.state ≠ .donePending ∧
      (foldingOff.modPiece 501 fun r => { r with state := .donePending }).piece?
          ((0xF5 : Byte).toNat + 256 * (1 : Byte).toNat) = some { sheetPiece with state := .donePending } := by
  refine ⟨takes_foldingOff, poolRight_folding, zonesRight_folding, ?_⟩
  decide +kernel

theorem witness_log_take :
    Takes (fullLog heard) 1 ∧ LogBounded (fullLog heard) ∧ WaitingMeansFull (fullLog heard) ∧ (fullLog heard).log.order = [] :=
  ⟨⟨⟨rfl, rfl⟩, by decide, rfl, rfl⟩, by unfold LogBounded; decide +kernel, fun h => absurd rfl h, rfl⟩

theorem witness_notice :
    { (fullLog heard).log with entries := (fullLog heard).log.entries.take 31 }.entries.length < 32 ∧
      32 ≤ (fullLog heard).log.entries.length := by decide +kernel

theorem witness_fault_ack :
    TakesAny heard 1 ∧ heard.latch.latched = false ∧ (latched heard).latch.latched = true ∧
      (latched heard).seq.feed ≠ .held ∧ ((latched keyed).setFeed .held).seq.feed = .held ∧
      runConditions ((latched keyed).setFeed .held) = false ∧ runConditions ((latched running).setFeed .held) = true := by
  refine ⟨takesAny_heard.2, ?_⟩
  decide +kernel

/-! ### Supply, line and eyes -/

theorem witness_supply :
    heard.powered = true ∧ unpowered.powered = false ∧ heard.prog.queue = [] ∧
      { heard.prog with queue := [{ record := .settings factoryDefaults, replies := true }] }.queue =
        [{ record := .settings factoryDefaults, replies := true }] := by decide +kernel

theorem witness_edges :
    heard.powered = true ∧ (EncChannel.a = .a ∧ heard.line.encA = heard.line.encB) ∧
      ¬((EncChannel.b = .a ∧ heard.line.encA = heard.line.encB) ∨ (EncChannel.b = .b ∧ heard.line.encA ≠ heard.line.encB)) ∧
      ∀ e : Eye, eyeEnabled heard.prog.settings.lanes e = true → (heard.eye e).state = .accepted → (heard.eye e).dark = true := by
  refine ⟨rfl, by decide, by decide, ?_⟩
  intro e _ h
  simp [heard, State.reset, State.eye] at h

theorem witness_due :
    exec (.countedEdge .a) heard = .next (after (.countedEdge .a) heard) ∧
      (after (.countedEdge .a) heard).line.dir = .forward := ⟨rfl, by decide +kernel⟩

theorem witness_window_end :
    let slow : State := { running with line := { running.line with hist := #v[0, 0, 0, 0] } }
    let quick : State := { running.setFeed .pause with line := { running.line with advance := 8 } }
    slow.seq.feed = .run ∧
      25 * (slow.line.advance + slow.line.hist[0] + slow.line.hist[1] + slow.line.hist[2]) <
        (slow.prog.settings.speedMin : Int) ∧
      quick.seq.feed = .pause ∧
      runConditions { quick with line := endWindow quick.line } = true ∧ heard.seq.feed = .off := by decide +kernel

theorem witness_lead :
    (750 : Int) = (if running.line.fullWindows = 4 then max (speed running.line) 0 else running.prog.settings.speedNominal) ∧
      (600 : Int) = (if heard.line.fullWindows = 4 then max (speed heard.line) 0 else heard.prog.settings.speedNominal) ∧
      lead running 60 < running.prog.settings.leadMax ∧
      lead { running with line := { running.line with hist := #v[60, 60, 60, 60] } } 100 = running.prog.settings.leadMax := by
  decide +kernel

/-- An eye in a state, dark, with a dark travel count. -/
def eyed (e : Eye) (x : EyeState) (n : Nat) : State :=
  heard.modEye e fun _ => { dark := true, state := x, cLead := 0#32, darkTravel := n }

theorem witness_eye_levels :
    (heard.eye .k).dark = false ∧ ((eyed .k .accepted 3).eye .k).dark = true ∧ (eyed .k .accepted 3).heldExpiry = [] ∧
      ((eyed (.n 0) .pending 3).eye (.n 0)).state ≠ .accepted ∧
      { (eyed (.n 0) .accepted 3) with line := { heard.line with dir := .reverse } }.line.dir = .reverse := by decide +kernel

theorem witness_stray_length :
    let s : State :=
      { eyed (.n 0) .accepted 9 with track := { heard.track with pool := [entryStray 0 0#32 1 0#32], ironZone := [1] } }
    s.powered = true ∧ s.heldExpiry = [] ∧ (s.eye (.n 0)).dark = true ∧ (s.eye (.n 0)).state = .accepted ∧
      s.line.dir = .forward ∧ PoolRight s.track ∧ s.track.pool = [] ++ entryStray 0 0#32 1 0#32 :: [] ∧
      (entryStray 0 0#32 1 0#32).completion = none ∧ (entryStray 0 0#32 1 0#32).kind = .stray ∧
      (entryStray 0 0#32 1 0#32).entrySeen &&& ~~~(entryStray 0 0#32 1 0#32).entryEnded = laneBit 0 := by
  refine ⟨rfl, rfl, by decide +kernel, by decide +kernel, rfl, ⟨?_, ?_, ?_, ?_⟩, rfl, rfl, rfl, by decide +kernel⟩ <;>
    decide +kernel

theorem witness_eye_due :
    let s (d : Due) (x : EyeState) : State := { eyed .k x 8000 with due := [d], line := { heard.line with p := 6#32 } }
    Due.block .k ∈ (s (.block .k) .pending).due ∧ ((s (.block .k) .dropped).eye .k).state = .dropped ∧
      0 < ((s (.block .k) .pending).eye .k).darkTravel ∧
      Due.accept .k ∈ (s (.accept .k) .pending).due ∧ (s (.accept .k) .pending).heldExpiry = [] ∧
      ((s (.accept .k) .pending).eye .k).state = .pending ∧
      ((s (.accept .k) .pending).eye .k).cLead ≠ (s (.accept .k) .pending).line.p ∧
      (∀ r ∈ (s (.accept .k) .pending).track.pool, r.state ≠ .folding) ∧ Due.accept .k ∉ heard.due := by decide +kernel

/-! ### Matching and planning -/

/-- The sheet RELEASED, with E_pred at 52,410. -/
def released : State :=
  { running with
    track :=
      { running.track with
        pool :=
          [{ sheetPiece with
             state := .released, ePred := some 52410#32, entrySeen := 0#4, entryLead := none, entryLength := none,
             exitLead := none, exitSeen := 0#4 }]
        feedZone := [501], entryLists := Vector.replicate 4 [501], tagCounter := 502 } }

/-- The sheet IRONING, seen by N2 at 52,404. -/
def ironing : State :=
  { released with
    track :=
      { released.track with
        pool :=
          released.track.pool.map fun r => { r with state := .ironing, entryLead := some 52404#32, entrySeen := 0b0010#4 }
        feedZone := [], entryLists := Vector.replicate 4 [], ironZone := [501], exitLists := Vector.replicate 4 [501] } }

theorem witness_absorption :
    PoolRight ironing.track ∧
      (∀ r ∈ ironing.track.pool, r.completion = none → laneOpen r.entrySeen r.entryEnded 0 = false) ∧
      ironing.track.ironZone = [] ++ 501 :: [] ∧
      (ironing.piece? 501).any (absorbsEntry ironing.prog.settings 0 52410#32) = true := by
  refine ⟨⟨?_, ?_, ?_, ?_⟩, ?_⟩ <;> decide +kernel

theorem witness_match :
    PoolRight released.track ∧ released.track.ironZone = [] ∧ released.track.entryLists[(0 : Lane)] = [] ++ 501 :: [] ∧
      (released.piece? 501).any (inWindow released.prog.settings .feed · 52560#32) = true ∧
      (released.piece? 501).any (inWindow released.prog.settings .feed · 52561#32) = false ∧
      released.track.pool.length < 64 := by
  refine ⟨⟨?_, ?_, ?_, ?_⟩, ?_⟩ <;> decide +kernel

/-- Every record in use: an edge on lane 1 finds none free. -/
def crowded : State :=
  { heard with
    track := { heard.track with pool := (List.range 64).map fun n => { sheetPiece with tag := n + 1 }, tagCounter := 65 } }

theorem witness_untracked :
    PoolRight crowded.track ∧ 64 ≤ crowded.track.pool.length ∧ crowded.track.ironZone = [] ∧
      crowded.track.entryLists[(0 : Lane)] = [] ∧
      (∀ r ∈ crowded.track.pool, r.completion = none → laneOpen r.entrySeen r.entryEnded 0 = false) := by
  refine ⟨⟨?_, ?_, ?_, ?_⟩, ?_⟩ <;> decide +kernel

theorem witness_fold_plan :
    PoolRight folding.track ∧ folding.piece? 501 = some sheetPiece ∧ sheetPiece.exitLead = some 112010#32 ∧
      sheetPiece.program = some 1 ∧ folding.prog.programs[1] = some sheet ∧ sheetPiece.route = .stack ∧
      sheetPiece.reason = none ∧ sheet.fold = true ∧ folding.sched.slots = [] ∧
      (64 : Int) ≤ posDiff 115104#32 folding.line.p ∧ (64 : Int) ≤ posDiff 116812#32 folding.line.p := by
  refine ⟨poolRight_folding, ?_⟩
  decide +kernel

theorem witness_reject_plan :
    let near : State := { folding with line := { folding.line with p := 114950#32 } }
    let q : Pos := 114980#32
    sheetPiece.undiverted = false ∧ sheetPiece.actions = [] ∧
      q = posSub (posAdd 112010#32 folding.prog.settings.dRj) (lead folding folding.prog.settings.tRj) ∧
      posDiff q near.line.p < (near.prog.settings.arming : Int) ∧
      (folding.prog.settings.arming : Int) ≤ posDiff q folding.line.p ∧ folding.sched.slots.length < 32 ∧
      (List.replicate 32 (aSlot .fold1 .xf 0#32)).length = 32 := by decide +kernel

/-- The counter at 65535 with that tag and tag 1 held: the stray takes tag 2, and the counter is then 3 (R59). -/
theorem test_held_tags_are_passed_over :
    let held : State :=
      { folding with
        track :=
          { folding.track with
            pool := [{ sheetPiece with tag := 65535 }, { sheetPiece with tag := 1 }], foldZone := [65535, 1]
            tagCounter := 65535 } }
    let t := (leadEntry 0 112016#32 held).track
    t.pool.map (·.tag) = [65535, 1, 2] ∧ t.tagCounter = 3 ∧ t.ironZone = [2] ∧ t.exitLists[0] = [2] := by decide +kernel

/-! ### Panel, pulses, ESTOP -/

theorem witness_panel :
    let s := heard.modStation 0 fun x => { x with current := some work }
    heard.inputs.buttons[0] = false ∧ (heard.inputs.buttons.set 0 true)[0] = true ∧ s.stations[0].state = .idle ∧
      s.stations[0].current = some work ∧ heard.stations[0].current = none ∧ running.seq.feed = .run ∧
      (running.setFeed .pause).seq.feed = .pause ∧ runConditions (running.setFeed .pause) = true := by decide +kernel

theorem witness_pulses :
    let s : State :=
      { running with
        sched :=
          { running.sched with
            out := { running.sched.out with rel := running.sched.out.rel.set 0 (some 120), bf := running.sched.out.bf.set 2 (some 200) }
            held := running.sched.held.set 2 true } }
    s.powered = true ∧ s.sched.out.rel[0] = some 120 ∧ heard.sched.out.rel[0] = none ∧
      pulseOf s.sched.out (.bf 2) = some 200 ∧ pulseOf heard.sched.out .xf = none ∧ s.sched.held[2] = true ∧
      s.inputs.estop = false ∧ heard.sched.held[2] = false := by decide +kernel

theorem witness_estop :
    let s : State :=
      { firing .reject .rj with
        inputs := { folding.inputs with estop := true }
        sched := { folding.sched with slots := [{ aSlot .reject .rj 112016#32 with passed := true }] } }
    folding.inputs.estop = false ∧ s.inputs.estop = true ∧ s.sched.slots.length ≤ 32 ∧
      (∀ b : Bin, s.sched.held[b] = false) ∧ s.sched.slots = [] ++ { aSlot .reject .rj 112016#32 with passed := true } :: [] ∧
      (∀ y ∈ (heard.sched.slots), y.passed = false) := by decide +kernel

/-! ### Grants -/

theorem witness_grant_step :
    let s := loaded.setFeed .pause
    s.powered = true ∧ Due.grant ∈ s.due ∧ posDiff s.line.p s.seq.mark = 8 ∧ s.seq.feed ≠ .run ∧ Due.grant ∉ heard.due := by
  decide +kernel

theorem oneOpenLot_loaded : OneOpenLot loaded := by
  unfold OneOpenLot
  decide +kernel

theorem witness_failing :
    OneOpenLot loaded ∧ heard.seq.feed ≠ .run ∧ loaded.seq.feed = .run ∧ loaded.prog.programs[(0 : ProgramIx)] = none ∧
      loaded.prog.programs[work.program] = some pillow ∧
      (hasLane (footprintOf pillow.width 1) 1 = true ∧ hasLane 0b1101#4 1 = false) ∧
      (∀ i : LotSlot, loaded.lot.lots[i].state ≠ .opened ∨ loaded.lot.lots[i].id ≠ 8) ∧
      loaded.lot.lots[0].state = .opened ∧ loaded.lot.lots[0].id = work.lotId ∧ loaded.track.pool.length ≤ 62 ∧
      62 < (crowded.track.pool.take 63).length := by
  refine ⟨oneOpenLot_loaded, ?_⟩
  decide +kernel

/-- Each clause of the grant conditions has its state: the reason of the first condition that fails (R50 to R55). -/
theorem test_waiting_reasons :
    let bins (n : Nat) : State :=
      { loaded with
        lot := { lots := loaded.lot.lots.set 0 { loaded.lot.lots[0] with bin := none }, bins := Vector.replicate 6 none }
        prog := { loaded.prog with settings := { factoryDefaults with binsEnabled := n } } }
    failing (loaded.setFeed .pause) 1 work = some .feedState ∧ failing loaded 1 { work with program := 0 } = some .program ∧
      failing { loaded with prog := { loaded.prog with settings := { factoryDefaults with lanes := 0b1101#4 } } } 1 work =
        some .lane ∧
      failing loaded 1 { work with lotId := 8 } = some .lot ∧ failing (bins 0) 1 work = some .bin ∧
      failing (bins 1) 1 work = none ∧
      failing { loaded with track := { loaded.track with pool := crowded.track.pool.take 63 } } 1 work = some .pool ∧
      failing { loaded with track := { loaded.track with pool := crowded.track.pool.take 62 } } 1 work = none ∧
      failing (withTails loaded) 1 { work with lotId := 9 } = some .lot ∧
      failing { withTails loaded with prog := { loaded.prog with settings := { factoryDefaults with lotGap := 761 } } } 1 work =
        some .lotGap := by decide +kernel

theorem witness_grant :
    loaded.powered = true ∧ PoolRight loaded.track ∧ Due.grant ∈ loaded.due ∧ posDiff loaded.line.p loaded.seq.mark = 8 ∧
      loaded.seq.feed = .run ∧ (∀ w x, loaded.seq.tails[(w : Lane)] = some x → posDiff loaded.line.p x.pos ≤ 1000000) ∧
      (∀ j : StationIx, loaded.stations[j].state = .loaded ↔ j = 1) ∧ loaded.stations[1].snapshot = some work ∧
      loaded.prog.programs[work.program] = some pillow ∧ OneOpenLot loaded ∧ loaded.lot.lots[0].state = .opened ∧
      loaded.lot.lots[0].id = work.lotId ∧ loaded.lot.lots[0].bin.isSome ∧ failing loaded 1 work = none := by
  refine ⟨rfl, ⟨?_, ?_, ?_, ?_⟩, by decide +kernel, by decide +kernel, rfl, ?_, by decide +kernel, by decide +kernel,
    by decide +kernel, oneOpenLot_loaded, by decide +kernel, by decide +kernel, by decide +kernel, by decide +kernel⟩
  · decide +kernel
  · decide +kernel
  · decide +kernel
  · decide +kernel
  · intro w x h
    have : ∀ w : Lane, loaded.seq.tails[w] = none := by decide +kernel
    rw [this w] at h
    cases h

/-! ### What falls due -/

theorem witness_expiry :
    let s : State := { released with line := { released.line with p := 52566#32 }, due := [.expiry 501] }
    s.powered = true ∧ s.track.zone (stageZone .feed) = [] ++ 501 :: [] ∧ Due.expiry 501 ∈ s.due ∧
      (s.piece? 501).any (stillWaits .feed) = true ∧
      (s.piece? 501).map (expiryPoint s.prog.settings .feed) = some s.line.p ∧
      (s.piece? 501).any (fun r => !heldBack s .feed r) = true ∧ heard.due = [] := by decide +kernel

theorem witness_fires :
    let s := firing .drop (.bf 2)
    s.powered = true ∧ s.inputs.estop = false ∧ s.sched.slots = [] ++ aSlot .drop (.bf 2) 112016#32 :: [] ∧
      Due.fire (aSlot .drop (.bf 2) 112016#32).place ∈ s.due ∧ 0 ≤ posDiff s.line.p 112016#32 ∧
      (aSlot .drop (.bf 2) 112016#32).tags = [501] ∧ s.piece? 501 = some sheetPiece ∧
      sheetPiece.lot = some { slot := 0, id := 7 } ∧ (firing .fold1 (.pf 0b1111#4)).sched.slots.length = 1 ∧
      (firing .reject .rj).piece? 501 = some sheetPiece := by decide +kernel

theorem witness_idle :
    let s : State :=
      { running with
        prog := { running.prog with settings := { factoryDefaults with idleDistance := 50000 } }
        due := [.idle 0] }
    s.powered = true ∧ Due.idle 0 ∈ s.due ∧ s.lot.lots[0].state = .opened ∧ s.lot.lots[0].bin = some 2 ∧
      s.lot.lots[0].inFlight = 0 ∧ 0 < s.prog.settings.idleDistance ∧
      (s.prog.settings.idleDistance : Int) ≤ posDiff s.line.p s.lot.lots[0].lastUse ∧ Due.idle 0 ∉ heard.due := by decide +kernel

/-! ### Matching, measuring and planning, form by form -/

/-- A slot table of n slots, none of them due, with 4 of them REJECT when there is no room for another plain one. -/
def packed (n : Nat) : List Slot :=
  (List.range n).map fun i =>
    { place := i, pos := 113000#32, action := if i < 28 then .fold1 else .reject, drive := .xf, tags := [], passed := false }

/-- The folding line with a changed sheet record and slot table. -/
def foldingWith (f : Piece → Piece) (slots : List Slot) : State :=
  { folding with track := { folding.track with pool := [f sheetPiece] }, sched := { folding.sched with slots := slots } }

theorem witness_receiver_states :
    { heard.link with rx := RxState.receiving }.rx = .receiving ∧ { heard.link with rx := RxState.skipping }.rx = .skipping := by
  decide

/-- A lot in a bin that a settings write takes out of use, with linen on its stack, and what its release waits for. -/
theorem witness_fewer_bins :
    let s (estop held : Bool) (bf : Option Nat) : State :=
      { heard with
        inputs := { heard.inputs with estop := estop }
        sched :=
          { heard.sched with out := { heard.sched.out with bf := heard.sched.out.bf.set 5 bf }, held := heard.sched.held.set 5 held }
        lot :=
          { lots := heard.lot.lots.set 0 { Lot.free with state := .opened, id := 7, stackSize := 3, bin := some 5, stackCount := 2 }
            bins := heard.lot.bins.set 5 (some 0) } }
    Takes (s false false none) 1 ∧ (s false false none).seq.feed = .off ∧ (s false false none).track.pool = [] ∧
      5 < (s false false none).prog.settings.binsEnabled ∧
      (∀ (i : LotSlot) (b : Bin), (s false false none).lot.lots[i].bin = some b ↔ (s false false none).lot.bins[b] = some i) ∧
      (∀ i : LotSlot, (s false false none).lot.lots[i].state ≠ .closing) ∧
      (s false false none).lot.bins[5] = some 0 ∧ 0 < (s false false none).lot.lots[0].stackCount ∧
      (s false false none).sched.held[5] = false ∧ (s false true none).sched.held[5] = true ∧
      (s true false none).inputs.estop = true ∧ ((s false false (some 9)).sched.out.bf[5]).isSome = true := by
  refine ⟨⟨⟨rfl, rfl⟩, by decide, rfl, rfl⟩, ?_⟩
  decide +kernel

/-- A take with a completion waiting at the front of the order. -/
theorem witness_log_fill :
    let done : Completion := { kind := .purged, stage := none, pos := 112016#32 }
    let s := fullLog (foldingWith (fun r => { r with state := .donePending, completion := some done }) [])
    let s : State := { s with log := { s.log with order := [.piece 501] } }
    Takes s 1 ∧ LogBounded s ∧ WaitingMeansFull s ∧ s.log.order = .piece 501 :: [] ∧ 0 < (1 : Byte).toNat ∧
      (waitingBody s (.piece 501)).isSome = true ∧ (waitingBody s (.lot 0)).isSome = true := by
  refine ⟨⟨⟨rfl, rfl⟩, by decide, rfl, rfl⟩, ?_, fun _ => by decide +kernel, rfl, by decide, by decide +kernel, by decide +kernel⟩
  unfold LogBounded
  decide +kernel

/-- At a forward edge: an ACCEPTED eye with a light input, and a slot behind P under e-stop. -/
theorem witness_report_at_edge :
    let s := heard.modEye (.n 0) fun _ => { dark := false, state := .accepted, cLead := 0#32, darkTravel := 0 }
    s.powered = true ∧ (EncChannel.a = .a ∧ s.line.encA = s.line.encB) ∧
      eyeEnabled s.prog.settings.lanes (.n 0) = true ∧ (s.eye (.n 0)).dark = false ∧ (s.eye (.n 0)).state = .accepted ∧
      0 ≤ posDiff (112016#32 + 1#32) (aSlot .fold1 .xf 112017#32).pos := by decide +kernel

theorem witness_light_accepted :
    let s := eyed (.x 0) .accepted 9
    s.powered = true ∧ (s.eye (.x 0)).dark = true ∧ s.heldExpiry = [] ∧ (s.eye (.x 0)).state = .accepted ∧
      s.line.dir = .forward ∧ ((eyed (.n 0) .accepted 9).eye (.n 0)).state = .accepted := by decide +kernel

/-- The sheet at the end of its exit interval: with L_est equal to its length, beside it and far off, open on one lane and on
two, with a slot that moves and slots that stay. -/
theorem witness_exit_trailing :
    let open1 := foldingWith (fun r => { r with exitSeen := 0b0001#4, lEst := some 2680, actions := [0, 1] })
      [aSlot .fold1 (.pf 0b1111#4) 115104#32, { aSlot .cross .xf 116812#32 with place := 1 }]
    let q := posAdd 112010#32 2680
    PoolRight open1.track ∧ (open1.sched.slots.map (·.place)).Nodup ∧
      (∀ r ∈ open1.track.pool, r.completion = none → laneOpen r.exitSeen r.exitEnded 1 = false) ∧
      (∃ r, open1.track.pool = [] ++ r :: [] ∧ r.completion = none ∧ laneOpen r.exitSeen r.exitEnded 0 = true ∧
        r.exitSeen &&& ~~~(r.exitEnded ||| laneBit 0) = 0#4 ∧ r.program = some 1 ∧ r.lEst = some 2680) ∧
      sheetPiece.exitSeen &&& ~~~(sheetPiece.exitEnded ||| laneBit 0) ≠ 0#4 ∧
      (exitStray 0 0#32 1 0#32).program = none ∧ open1.prog.programs[(1 : ProgramIx)] = some sheet ∧
      min 16383 (posDiff q 112010#32).toNat = 2680 ∧
      ((2720 : Int) - 2680).natAbs ≤ sheet.refineWindow ∧ sheet.refineWindow < ((2721 : Int) - 2680).natAbs ∧
      ((open1.prog.settings.arming : Int) ≤ posDiff 115104#32 open1.line.p ∧
        (open1.prog.settings.arming : Int) ≤ posDiff 115105#32 open1.line.p) ∧
      (∀ y ∈ open1.sched.slots, ∀ z ∈ open1.sched.slots, y.action = .cross → z.action = .cross → y = z) ∧
      ¬(open1.prog.settings.arming : Int) ≤ posDiff 115104#32 115041#32 := by
  refine ⟨⟨?_, ?_, ?_, ?_⟩, by decide +kernel, by decide +kernel, ⟨_, rfl, ?_⟩, ?_⟩ <;> decide +kernel

/-- The sheet at the end of its entry interval, with a tail of its own, of another record and none. -/
theorem witness_entry_trailing :
    let s : State := { withTails ironing with
      track := { ironing.track with pool := ironing.track.pool.map fun r => { r with entrySeen := 0b0001#4 } } }
    let mine : State := { s with seq := { s.seq with tails := #v[some { pos := 0#32, lotId := 7, tag := 501 }, none, none, none] } }
    PoolRight s.track ∧
      (∃ r, s.track.pool = [] ++ r :: [] ∧ r.completion = none ∧ laneOpen r.entrySeen r.entryEnded 0 = true ∧
        r.entrySeen &&& ~~~(r.entryEnded ||| laneBit 0) = 0#4 ∧ r.kind = .fed ∧ r.program = some 1 ∧ r.tag = 501 ∧
        hasLane r.footprint 0 = true) ∧
      (∀ r ∈ s.track.pool, r.completion = none → laneOpen r.entrySeen r.entryEnded 1 = false) ∧
      (0b0011#4 &&& ~~~(0#4 ||| laneBit 0)) ≠ 0#4 ∧ s.prog.programs[(1 : ProgramIx)] = some sheet ∧
      (∀ x : Lane, (s.seq.tails[x] : Option Tail).all fun y => decide (y.tag ≠ 501)) ∧
      (mine.seq.tails[(0 : Lane)] : Option Tail).any (fun y => decide (y.tag = 501)) = true ∧
      sheet.maxLength < 3101 ∧ 2299 < sheet.minLength := by
  refine ⟨⟨?_, ?_, ?_, ?_⟩, ⟨_, rfl, ?_⟩, ?_⟩ <;> decide +kernel

/-- An exit edge on lane 1: absorbed by the sheet, matched with the sheet IRONING, a stray, and untracked. -/
theorem witness_exit_leading :
    let seen := foldingWith (fun r => { r with exitSeen := 0b0010#4, entryLead := some 102404#32 }) []
    PoolRight seen.track ∧
      (∀ r ∈ seen.track.pool, r.completion = none → laneOpen r.exitSeen r.exitEnded 0 = false) ∧
      seen.track.foldZone = [] ++ 501 :: [] ∧
      (seen.piece? 501).any (absorbsExit seen.prog.settings 0 112010#32) = true ∧
      laneOpen sheetPiece.exitSeen sheetPiece.exitEnded 0 = true ∧
      PoolRight ironing.track ∧
      (∀ r ∈ ironing.track.pool, r.completion = none → laneOpen r.exitSeen r.exitEnded 0 = false) ∧
      ironing.track.foldZone = [] ∧ ironing.track.exitLists[(0 : Lane)] = [] ++ 501 :: [] ∧
      (ironing.piece? 501).any (inWindow ironing.prog.settings .iron · 62204#32) = true ∧
      (ironing.piece? 501).any (inWindow ironing.prog.settings .iron · 62205#32) = false ∧
      ironing.track.pool.length < 64 ∧ PoolRight crowded.track ∧ 64 ≤ crowded.track.pool.length ∧
      crowded.track.foldZone = [] ∧ crowded.track.exitLists[(0 : Lane)] = [] := by
  refine ⟨⟨?_, ?_, ?_, ?_⟩, ?_, ?_, ?_, ?_, ⟨?_, ?_, ?_, ?_⟩, ?_, ?_, ?_, ?_, ?_, ?_, ⟨?_, ?_, ?_, ?_⟩, ?_⟩ <;> decide +kernel

/-- A stacker edge for the sheet, with a lot and without, and the slot tables with room and without. -/
theorem witness_stacker_leading :
    expectsStacker sheetPiece = true ∧ inWindow folding.prog.settings .fold sheetPiece 117660#32 = true ∧
      inWindow folding.prog.settings .fold sheetPiece 117661#32 = false ∧ folding.piece? 501 = some sheetPiece ∧
      sheetPiece.lot = some { slot := 0, id := 7 } ∧ folding.lot.lots[0].bin = some 2 ∧
      (exitStray 0 0#32 1 0#32).lot = none ∧ ((packed 27).length < 32 ∧ plainCount (packed 27) < 28) ∧
      ¬((packed 28).length < 32 ∧ plainCount (packed 28) < 28) := by decide +kernel

theorem witness_entry_lane_open :
    ∃ r ∈ ironing.track.pool, r.completion = none ∧ laneOpen r.entrySeen r.entryEnded 1 = true := by decide +kernel

/-- What the plan of the sheet can meet: folds inside the margin, a CROSS slot of other work, full ones, one that it can join, and
no room. -/
theorem witness_plan_outcomes :
    let late : State := { folding with line := { folding.line with p := 115050#32 } }
    let near (tags : List Nat) : Slot := { aSlot .cross .xf 116900#32 with tags := tags }
    let two := foldingWith id [near [502]]
    let two : State := { two with track := { two.track with pool := [sheetPiece, { sheetPiece with tag := 502, actions := [0] }] } }
    posDiff 115104#32 late.line.p < (late.prog.settings.arming : Int) ∧
      (posDiff 116900#32 116812#32).natAbs < folding.prog.settings.xfCycle ∧ folding.piece? 502 = none ∧
      4 ≤ (near [502, 503, 504, 505]).tags.length ∧ PoolRight two.track ∧
      two.sched.slots = [] ++ near [502] :: [] ∧ (two.sched.slots.map (·.place)).Nodup ∧ (near [502]).tags.length < 4 ∧
      two.piece? 501 = some sheetPiece ∧
      ((two.piece? 502).map (·.program) = some sheetPiece.program ∧
        (two.piece? 502).map (·.lot) = some sheetPiece.lot) ∧
      two.sched.slots.length + 1 ≤ 32 ∧ plainCount two.sched.slots + 1 ≤ 28 ∧
      ¬((packed 31).length + 2 ≤ 32 ∧ plainCount (packed 31) + 2 ≤ 28) ∧ (∀ y ∈ packed 31, y.action ≠ .cross) ∧
      sheetPiece.actions = [] ∧ { sheetPiece with route := .back }.route = .back ∧
      { sheetPiece with reason := some .short }.reason ≠ none := by
  refine ⟨by decide +kernel, by decide +kernel, by decide +kernel, by decide +kernel, ⟨?_, ?_, ?_, ?_⟩, ?_⟩ <;> decide +kernel

/-- The records that the reject plan leaves, and one on which a reason arrives after its plan. -/
theorem witness_reason_after_plan :
    let away := foldingWith (fun r => { r with actions := [0] }) [aSlot .reject .rj 114980#32]
    let planned := foldingWith (fun r => { r with actions := [0] }) [aSlot .fold1 (.pf 0b1111#4) 115104#32]
    PoolRight planned.track ∧ (planned.sched.slots.map (·.place)).Nodup ∧
      (∃ r, planned.piece? 501 = some r ∧ r.reason = none ∧ r.completion = none ∧ r.state = .folding ∧ 0 ∈ r.actions) ∧
      away.sched.slots = [] ++ aSlot .reject .rj 114980#32 :: [] ∧ (away.piece? 501).map (·.actions) = some [0] ∧
      { sheetPiece with undiverted := true }.undiverted = true ∧ (entryStray 0 0#32 1 0#32).reason ≠ none ∧
      { sheetPiece with state := .ironing }.state ≠ .folding ∧
      (0 ≤ posDiff 117666#32 (expiryPoint folding.prog.settings .fold sheetPiece) ∧
        ¬0 ≤ posDiff 117665#32 (expiryPoint folding.prog.settings .fold sheetPiece)) := by
  refine ⟨⟨?_, ?_, ?_, ?_⟩, by decide +kernel, ⟨_, rfl, ?_⟩, ?_⟩ <;> decide +kernel

/-- E-stop ends with two slots marked, and with releases held behind a closed flap and an open one. -/
theorem witness_estop_ends :
    let y := { aSlot .reject .rj 112016#32 with passed := true }
    let s : State :=
      { folding with
        inputs := { folding.inputs with estop := true }
        sched :=
          { folding.sched with
            slots := [y, { y with place := 1 }]
            out := { folding.sched.out with bf := folding.sched.out.bf.set 2 (some 300) }
            held := #v[true, false, true, false, false, false] } }
    s.powered = true ∧ s.inputs.estop = true ∧ s.sched.slots.length ≤ 32 ∧ s.sched.slots = [] ++ y :: [{ y with place := 1 }] ∧
      y.passed = true ∧ (∀ z ∈ packed 32, z.passed = false) ∧ s.sched.held[0] = true ∧ s.sched.out.bf[0] = none ∧
      s.sched.held[2] = true ∧ (s.sched.out.bf[2]).isSome = true := by decide +kernel

/-- Tails within their age and one past it. -/
theorem witness_examination :
    (withTails loaded).seq.feed = .run ∧ heard.seq.feed ≠ .run ∧
      (∀ w : Lane, ((withTails loaded).seq.tails[w] : Option Tail).all fun x => decide (posDiff loaded.line.p x.pos ≤ 1000000)) ∧
      1000000 < posDiff 1000001#32 0#32 := by decide +kernel

/-- The lot of a grant: bound, unbound with a free bin, and unbound with every bin taken by an OPEN lot with nothing in flight. -/
theorem witness_grant_bins :
    let free : State :=
      { loaded with
        lot := { lots := loaded.lot.lots.set 0 { loaded.lot.lots[0] with bin := none }, bins := Vector.replicate 6 none } }
    let full : State :=
      { free with
        lot :=
          { lots := Vector.ofFn fun i =>
              { Lot.free with
                state := .opened, id := 7 + i.val, stackSize := 3
                bin := if h : 1 ≤ i.val ∧ i.val ≤ 6 then some ⟨i.val - 1, by omega⟩ else none
                lastUse := if i.val = 3 ∨ i.val = 5 then 100#32 else 200#32 }
            bins := #v[some 1, some 2, some 3, some 4, some 5, some 6] } }
    PoolRight loaded.track ∧ loaded.lot.lots[0].bin.isSome = true ∧ free.lot.lots[0].bin = none ∧
      (0 : Bin).val < free.prog.settings.binsEnabled ∧ free.lot.bins[0] = none ∧
      (∀ b : Bin, b.val < full.prog.settings.binsEnabled → full.lot.bins[b] ≠ none) ∧
      (∀ (j : LotSlot) (b : Bin), full.lot.lots[j].bin = some b ↔ full.lot.bins[b] = some j) ∧ full.lot.lots[0].bin = none ∧
      Evicts full 3 2 := by
  refine ⟨⟨?_, ?_, ?_, ?_⟩, ?_, ?_, ?_, ?_, ?_, ?_, ?_, ?_⟩
  on_goal 12 => unfold Evicts
  all_goals decide +kernel

/-! ### Worked cases of the receiver, the edge and the scheduler -/

/-- A slot made behind P comes due at this edge only while the edge's firing is still to come (R120). -/
theorem test_made_behind_p :
    let y := aSlot .fold1 (.pf 0b1111#4) 112016#32
    let made (due : List Due) : Option (List Due) :=
      (makeSlot 112000#32 .drop (.bf 2) 501 { foldingWith id [y] with due := due }).map (·.due)
    (made [.firing, .fire 0]).any (·.contains (.fire 1)) = true ∧ (made [.fire 0]).any (·.contains (.fire 1)) = false ∧
      (made [.firing]).any (·.contains (.fire 1)) = false := by decide +kernel

/-- A settings write between an edge and the acceptance that it makes due leaves the acceptance (R153). -/
theorem test_acceptance_keeps_its_eye_min :
    let s : State :=
      { eyed .k .pending 6 with due := [.accept .k], line := { heard.line with p := 6#32 } }
    let t := after (.lineSettingsWrite 1 (settingsBytes { factoryDefaults with eyeMin := 50 })) s
    t.prog.settings.eyeMin = 50 ∧ ((after (.eyeAccept .k) t).eye .k).state = .accepted := by decide +kernel

/-- A character with an error begins a frame in WAITING and ends one in RECEIVING (R169). -/
theorem test_bad_characters :
    (after (.parityOrFramingError [7]) heard).link.rx = .receiving ∧
      (after (.parityOrFramingError [8]) (after (.parityOrFramingError [7]) heard)).link.rx = .skipping := by decide +kernel

/-- A frame begun by a character with an error is checked when it is complete: with a good CRC the request that it spells is
carried out, with a bad one it is discarded (R169, R170). -/
theorem test_frame_begun_by_an_error :
    let begun := after (.parityOrFramingError [1]) heard
    let good := after (.lineQuiet [0x53, 0, 0x40, 0xA0]) begun
    let bad := after (.lineQuiet [0x53, 0, 0x40, 0xA1]) begun
    begun.link.rx = .receiving ∧ good.link.owed.map (·.code) = some 0x53 ∧ good.link.rx = .waiting ∧
      bad.link.owed = none ∧ bad.link.buffer = [1, 0x53, 0, 0x40, 0xA1] ∧
      (after (.quiet 0 []) { begun with link := { begun.link with buffer := [1, 0x60, 0, 0x86] } }).link.quiet = false ∧
      (after (.lineQuiet [0xF0]) { begun with link := { begun.link with buffer := [1, 0x60, 0, 0x86] } }).link.quiet = true := by
  decide +kernel

/-- The sheet at its stacker expiry point, 117,666, with eye K PENDING and its captured lead at c, and X1 ACCEPTED. -/
def atExpiry (c : Pos) : State :=
  let s := foldingWith (fun r => { r with lEst := some 2679, exitSeen := 0b0001#4 }) []
  let s := { s with line := { s.line with p := 117666#32 }, due := [.accept .k] }
  let s := s.modEye (.x 0) fun _ => { dark := true, state := .accepted, cLead := 112010#32, darkTravel := 5656 }
  s.modEye .k fun _ => { dark := true, state := .pending, cLead := c, darkTravel := 6 }

/-- EXIT_MISMATCH at the expiry point makes the record undiverted: the acceptance of K on the same edge is matched first, and the
record is lost when K goes light instead or when K holds nothing back (R93, R94). -/
theorem test_undiverted_at_the_expiry_point :
    let s := after (.eyeLight (.x 0)) (atExpiry 117660#32)
    let matched := after (.eyeAccept .k) s
    let gone := after (.eyeLight .k) s
    let early := after (.eyeLight (.x 0)) (atExpiry 117661#32)
    s.heldExpiry = [501] ∧ (s.piece? 501).map (fun r => (r.undiverted, r.state)) = some (true, .folding) ∧
      matched.heldExpiry = [] ∧ (matched.piece? 501).map (·.state) = some .dropping ∧
      matched.latch.seen &&& reasonBit .lost = 0#7 ∧
      gone.heldExpiry = [] ∧ gone.piece? 501 = none ∧ gone.lot.lots[0].lost = 1 ∧
      early.heldExpiry = [] ∧ early.lot.lots[0].lost = 1 := by decide +kernel

/-- The receiver outside WAITING: a row's characters that leave the frame unfinished, one too long, one that completes it with a
bad CRC, and one that completes a request; and a FRAME_DISCARDED that spells a request. -/
theorem witness_rows_outside_waiting :
    let at_ (b : List Byte) : State := { heard with link := { heard.link with rx := .receiving, buffer := b } }
    let row : Instr := .frameDiscarded [2, 0x53, 0, 0, 0]
    (row.wellFormed = true ∧ rowChars row = some ([] ++ 2 :: [0x53, 0, 0, 0])) ∧
      rowChars (.status 1 []) = some [1, 0x53, 0, 0x40, 0xA0] ∧
      { heard.link with rx := RxState.skipping }.rx = .skipping ∧
      (at_ []).powered = true ∧ unfinished ((at_ [1, 0x63, 9]).link.buffer ++ [2, 0x53, 0, 0, 0]) = true ∧
      (unfinished ((at_ [1]).link.buffer ++ [2]) = true ∧ ((at_ [1]).link.buffer ++ [2] ++ [0xF1]).length = 3 ∧
        240 < (0xF1 : Byte).toNat ∧ rowChars (.lengthAbove240 2 0xF1 0xF2) = some ([2] ++ 0xF1 :: [0xF2])) ∧
      (unfinished ((at_ [1, 0x53, 0, 0x40]).link.buffer ++ []) = true ∧
        frameShaped ((at_ [1, 0x53, 0, 0x40]).link.buffer ++ [] ++ [2]) = true ∧
        requestOfFrame ((at_ [1, 0x53, 0, 0x40]).link.buffer ++ [] ++ [2]) = none) ∧
      (rowChars (.frameDiscarded [0xA0, 0, 0, 0, 0]) = some ([] ++ 0xA0 :: [0, 0, 0, 0]) ∧
        frameShaped ((at_ [1, 0x53, 0, 0x40]).link.buffer ++ [] ++ [0xA0]) = true ∧
        requestOfFrame ((at_ [1, 0x53, 0, 0x40]).link.buffer ++ [] ++ [0xA0]) = some (.status 1 [])) ∧
      heard.link.rx = .waiting ∧ requestOfFrame [1, 0x53, 0, 0x40, 0xA0] = some (.status 1 []) := by decide +kernel

/-- Expiries held back: one that K still holds, one that K holds no longer, and one whose record waits no longer. -/
theorem witness_held_expiries :
    let s (c : Pos) : State := { atExpiry c with heldExpiry := [501] }
    PoolRight (atExpiry 117660#32).track ∧
      (∃ r, (s 117660#32).piece? 501 = some r ∧ r.completion = none ∧ r.state = .folding ∧ stillWaits .fold r = true ∧
        expiryPoint (s 117660#32).prog.settings .fold r = (s 117660#32).line.p ∧ HoldsBack (s 117660#32) .fold r ∧
        ¬HoldsBack (s 117661#32) .fold r) ∧
      (s 117660#32).powered = true ∧ ((s 117660#32).eye .k).dark = true ∧ Due.accept .k ∈ (s 117660#32).due ∧
      ((s 117660#32).eye .k).state = .pending ∧ ((s 117660#32).eye .k).cLead ≠ (s 117660#32).line.p ∧
      ((s 117660#32).eye (.x 0)).state = .accepted ∧ (s 117660#32).line.dir = .forward ∧
      { (s 117660#32) with heldExpiry := [502] }.piece? 502 = none := by
  refine ⟨⟨?_, ?_, ?_, ?_⟩, ⟨_, rfl, ?_⟩, ?_⟩
  on_goal 5 => simp only [← heldBack_iff]
  all_goals decide +kernel

/-- A CROSS slot that the sheet may join in a table without room for its fold. -/
theorem witness_join_without_room :
    let near : Slot := { aSlot .cross .xf 116900#32 with place := 28, tags := [502] }
    let s := foldingWith id (packed 28 ++ [near])
    let s : State := { s with track := { s.track with pool := [sheetPiece, { sheetPiece with tag := 502, actions := [28] }] } }
    let t := planExit 501 s
    s.sched.slots = packed 28 ++ near :: [] ∧ (s.sched.slots.map (·.place)).Nodup ∧
      (posDiff near.pos 116812#32).natAbs < s.prog.settings.xfCycle ∧ near.tags.length < 4 ∧
      (∀ y ∈ packed 28, y.action ≠ .cross) ∧ ¬plainCount s.sched.slots + 1 ≤ 28 ∧ sheetPiece.actions = [] ∧
      (t.piece? 501).bind (·.reason) = some .slotFull ∧ (t.slot? 28).map (·.tags) = some [502] ∧
      (t.sched.slots.filter (·.tags.contains 501)).map (·.action) = [.reject] := by decide +kernel

/-! ### Invariants -/

theorem slotsOrdered_folding :
    let s := foldingWith id [aSlot .fold1 (.pf 0b1111#4) 115104#32, { aSlot .cross .xf 116812#32 with place := 1 }]
    SlotsOrdered s ∧ SlotsNear s := by
  refine ⟨⟨?_, ?_, ?_⟩, ?_⟩
  on_goal 4 => unfold SlotsNear
  all_goals decide +kernel

theorem zonesOrdered_folding : ZonesOrdered folding ∧ KeysNear folding ∧ KeysNear (idleTick folding) := by
  refine ⟨⟨?_, ?_, ?_⟩, ?_, ?_⟩
  · intro z
    cases z <;> simp [listInOrder, folding, running, heard, State.reset, TrackStore.initial, TrackStore.zone]
  · simp [listInOrder, folding, running, heard, State.reset, TrackStore.initial, Vector.getElem_replicate]
  · simp [listInOrder, folding, running, heard, State.reset, TrackStore.initial, Vector.getElem_replicate]
  · intro z
    cases z <;> decide +kernel
  · intro z
    cases z <;> decide +kernel

theorem witness_invariants :
    step folding = .next (idleTick folding) ∧ LogBounded folding ∧ WaitingMeansFull folding ∧ NumbersRun folding ∧
      SlotsBounded folding ∧ StopHolds folding ∧ FeedRight folding ∧ LatchRight folding.latch ∧ StationsRight folding ∧
      PoolRight folding.track ∧ ZonesRight folding.track ∧ AccountsRight folding := by
  refine ⟨rfl, ?_, fun h => absurd rfl h, ⟨trivial, by decide +kernel, by decide +kernel⟩, ?_, ?_,
    ⟨by decide +kernel, by decide +kernel, by decide +kernel, by decide +kernel⟩,
    ⟨by decide +kernel, by decide +kernel, fun r h => nomatch h⟩, ?_, poolRight_folding, zonesRight_folding,
    accountsRight_folding⟩
  · unfold LogBounded
    decide +kernel
  · unfold SlotsBounded
    decide +kernel
  · unfold StopHolds
    decide +kernel
  · intro k
    refine ⟨⟨?_, ?_, ?_, ?_, ?_⟩, ?_⟩ <;> revert k <;> decide +kernel

end Sys2Proof.Machine.Tests
end

namespace Sys2Proof.Machine

open Sys2Proof

/-! ### The supply (log 11) -/

theorem whenPowered_on {s : State} (h : s.powered = true) (f : State → State) : whenPowered f s = .next (f s) := if_pos h

theorem whenPowered_off {s : State} (h : s.powered = false) (f : State → State) : whenPowered f s = .next s := by
  simp [whenPowered, h]

theorem takeFrame_off {s : State} (h : s.powered = false) (addr code : Byte) (body : List Byte) :
    takeFrame addr code body s = s := by
  simp [takeFrame, h]

/-- Without supply every row but POWER_ON leaves the state as it is (log 11). -/
theorem exec_off {c : Instr} {s : State} (h : s.powered = false) (hc : ∀ smp, c ≠ .powerOn smp) : exec c s = .next s := by
  have frame (addr code : Byte) (body : List Byte) :
      (.next (takeFrame addr code body s) : Host.Outcome State Fault Refusal) = .next s :=
    congrArg _ (takeFrame_off h addr code body)
  cases c with
  | powerOn smp => exact absurd rfl (hc smp)
  | unknownRequest addr code body =>
    show Host.Outcome.next (if knownCodes.contains code then s else takeFrame addr code body s) = .next s
    rw [takeFrame_off h, ite_self]
  | feedOn | feedOff | assign | stationEnableDisable | stationEnableEnable | stationEnableClear | stationRead | lotOpen
  | lotClose | lotRead | programWrite | programRead | lineSettingsWrite | lineSettingsRead | pieceRead | purge | purgeTag
  | logPeek | logTake | faultAck | status | quiet | resume | restart | echo => exact frame _ _ _
  | _ =>
    simp only [exec, execCountedEdge, execInvalidTransition, execSpeedWindowEnd, execEyeDark, execEyeLight, execEyeAccept,
      execEyeBlocked, execLoadPress, execRelPulseEnd, execPulseEnd, execEstopActive, execEstopInactive, execKeyChange,
      execLineRunChange, execGrantStep, execWindowExpiry, execFoldSlotFire, execRejectSlotFire, execDropSlotFire,
      execIdleUnbind, execStoreWriteEnd, execReply, execLineQuiet, execFrameDiscarded, execLoadButtonRelease, execPowerFail,
      execParityOrFramingError, execLengthAbove240, whenPowered_off h]

/-! ### The rows of the line and the eyes, with the supply on -/

/-- The state after an invalid transition, before the feed, the log and the latch take notice of it (R3). -/
def speedCleared (s : State) : State :=
  { s with
    line :=
      { s.line with
        encA := !s.line.encA, encB := !s.line.encB, hist := #v[0, 0, 0, 0], advance := 0, fullWindows := 0
        windowEnd := s.line.now + 10 } }

section
variable {s : State} (h : s.powered = true)
include h

theorem exec_countedEdge (ch : EncChannel) :
    exec (.countedEdge ch) s =
      .next
        (if isForward ch s.line then afterForward { s with line := countEdge ch s.line }
        else afterReverse { s with line := countEdge ch s.line }) := by
  simp only [exec, execCountedEdge, whenPowered_on h]

theorem exec_invalidTransition :
    exec .invalidTransition s =
      .next (latchFault .encoder (notice 1 s.line.p (runPause true (speedCleared s)))) := by
  simp only [exec, execInvalidTransition, whenPowered_on h]
  rfl

theorem exec_speedWindowEnd :
    exec .speedWindowEnd s =
      .next (runPause (!fastEnough { s with line := endWindow s.line }) { s with line := endWindow s.line }) := by
  simp only [exec, execSpeedWindowEnd, whenPowered_on h]

theorem exec_eyeDark (e : Eye) : exec (.eyeDark e) s = .next (goDark e s) := by
  simp only [exec, execEyeDark, whenPowered_on h]

theorem exec_eyeLight (e : Eye) : exec (.eyeLight e) s = .next (goLight e s) := by
  simp only [exec, execEyeLight, whenPowered_on h]

theorem exec_eyeAccept (e : Eye) :
    exec (.eyeAccept e) s =
      .next (if s.due.contains (.accept e) && acceptStands s e then acceptEye e (dropDue (.accept e) s) else s) := by
  simp only [exec, execEyeAccept, whenPowered_on h]

theorem exec_eyeBlocked (e : Eye) :
    exec (.eyeBlocked e) s =
      .next (if s.due.contains (.block e) && blockStands s e then blockEye e (dropDue (.block e) s) else s) := by
  simp only [exec, execEyeBlocked, whenPowered_on h]

end

/-- Settles O2: the idle step is `idleTick`, and no row but POWER_ON acts without supply. -/
theorem idleTicksAndTheUnpoweredBlock : Obligations.IdleTicksAndTheUnpoweredBlock := by
  refine ⟨fun s hq => ?_, fun c s h hc => exec_off h hc⟩
  simp only [step, hq, idleTick]

/-! ### The speed and its windows (R5 to R8) -/

/-- v_eff as R8 gives it. -/
theorem vEff_cast (s : State) :
    (vEff s : Int) = if s.line.fullWindows = 4 then max (speed s.line) 0 else (s.prog.settings.speedNominal : Int) := by
  by_cases h : s.line.fullWindows = 4 <;> simp [vEff, settled, h]

/-- Settles O36: the lead is a rounded-up quotient, cut off at lead_max. -/
theorem leadIsTheCeilingOfTravelInTheDelay : Obligations.LeadIsTheCeilingOfTravelInTheDelay := by
  intro s t
  refine ⟨rfl, by simp [settled], fun v hv => ?_⟩
  obtain rfl : v = vEff s := by exact_mod_cast hv.trans (vEff_cast s).symm
  unfold lead
  omega

/-- A run condition that fails leaves RUN for PAUSE (R37). -/
theorem runPause_lost {s : State} (h : s.seq.feed = .run) : runPause true s = s.setFeed .pause := by simp [runPause, h]

/-- All six run conditions lead from PAUSE to RUN, with an examination (R37). -/
theorem runPause_resumes {s : State} (lost : Bool) (h : s.seq.feed = .pause) (hr : runConditions s = true) :
    runPause lost s = examine (s.setFeed .run) := by simp [runPause, h, hr, enterRun]

/-- RUN with nothing lost, PAUSE with a run condition missing, OFF and HELD stay (R37). -/
theorem runPause_stays {lost : Bool} {s : State} (h : s.seq.feed = .run → lost = false)
    (hp : s.seq.feed = .pause → runConditions s = false) : runPause lost s = s := by
  unfold runPause
  split
  · next hf => simp [h hf]
  · next hf => simp [hp hf]
  · rfl

/-- Settles O35: the window's end is `endWindow`, and the feed follows R37. -/
theorem windowEndPushesTheAdvance : Obligations.WindowEndPushesTheAdvance := by
  intro s hp u v
  have hu : exec .speedWindowEnd s = .next (runPause (!fastEnough u) u) := exec_speedWindowEnd hp
  have slow : fastEnough u = false ↔ v < s.prog.settings.speedMin := by
    rw [fastEnough, decide_eq_false_iff_not, not_le]
    rfl
  have feed : u.seq.feed = s.seq.feed := rfl
  refine ⟨fun hf hv => ?_, fun hf hr => ?_, fun hf hr => ?_⟩
  · rw [hu, slow.2 hv, Bool.not_false, runPause_lost (feed.trans hf)]
  · rw [hu, runPause_resumes _ (feed.trans hf) hr]
  · rw [hu, runPause_stays]
    · intro h
      simpa using mt slow.1 fun hv => hf ⟨h, hv⟩
    · intro h
      simpa using fun hc => hr ⟨h, hc⟩

/-- Settles O34: with no full window the speed is not settled, so PAUSE stays. -/
theorem invalidTransitionClearsTheSpeed : Obligations.InvalidTransitionClearsTheSpeed := by
  intro s hp
  have feed : runPause true (speedCleared s) =
      { speedCleared s with seq := { s.seq with feed := if s.seq.feed = .run then .pause else s.seq.feed } } := by
    by_cases h : s.seq.feed = .run
    · rw [runPause_lost (s := speedCleared s) h, if_pos h]
      rfl
    · rw [runPause_stays (s := speedCleared s) (absurd · h) fun _ => by simp [runConditions, settled, speedCleared], if_neg h]
      rfl
  rw [exec_invalidTransition hp, feed]
  rfl

/-! ### The eyes (R9 to R17) -/

/-- The beginning of a dark interval, by the direction (R10). -/
theorem beginDark_eq (dir : Direction) (p : Pos) (x : EyeRec) :
    beginDark dir p x =
      if dir = .forward then { x with state := .pending, cLead := p } else { x with state := .dropped } := by
  cases dir <;> rfl

/-- Settles O37, by the eye's level, its lane and its state. -/
theorem darkInputBeginsAnInterval : Obligations.DarkInputBeginsAnInterval := by
  intro e s hp
  refine ⟨fun hd => ?_, fun hd => ?_⟩
  · rw [exec_eyeDark hp, goDark, if_pos hd]
  · rw [exec_eyeDark hp, goDark, if_neg (by simp [hd])]
    congr 2
    funext x
    simp only [beginDark_eq, Bool.and_eq_true, decide_eq_true_eq, and_comm]

/-- Settles O40: the notice's code is 16 and the eye's place in the table. -/
theorem blockedEyeGivesNoticeAndLatch : Obligations.BlockedEyeGivesNoticeAndLatch := by
  intro e s hp
  refine ⟨fun hd => ?_, fun hd hst ht => ?_⟩
  · rw [exec_eyeBlocked hp, if_neg (by simp [hd])]
  · have stands : blockStands s e = true := by simpa [blockStands, or_assoc] using And.intro hst ht
    rw [exec_eyeBlocked hp, if_pos (by simp [hd, stands])]
    cases e with
    | x w =>
      rw [blockEye, show 16 + eyeNumber (.x w) = 20 + w.val by simp only [eyeNumber, eyeIx]; omega]
      rfl
    | _ => rfl

end Sys2Proof.Machine

namespace Sys2Proof.Machine

open Sys2Proof

/-! ### All eyes changed one after another -/

theorem allEyes_nodup : allEyes.Nodup := by decide

/-- Eyes changed one after another, each by a change of its own record alone: nothing but the table of eyes changes, and each eye
of the list is changed once. -/
theorem foldl_eyes {g : State → Eye → State} {F : Eye → EyeRec → EyeRec} {s : State}
    (hg : ∀ v e, g { s with eyes := v } e = { s with eyes := v }.modEye e (F e)) (l : List Eye) (hl : l.Nodup)
    (v : Vector EyeRec 9) :
    ∃ u, l.foldl g { s with eyes := v } = { s with eyes := u } ∧
      ∀ e, u[eyeIx e] = if e ∈ l then F e v[eyeIx e] else v[eyeIx e] := by
  induction l generalizing v with
  | nil => exact ⟨v, rfl, fun e => by simp⟩
  | cons d l ih =>
    obtain ⟨hd, hl⟩ := List.nodup_cons.1 hl
    obtain ⟨u, hu, hget⟩ := ih hl (vmod v (eyeIx d) (F d))
    refine ⟨u, by rw [List.foldl_cons, hg]; exact hu, fun e => ?_⟩
    rw [hget, vmod_get]
    by_cases h : d = e
    · subst h
      simp [hd]
    · rw [if_neg fun g => h (eyeIx_inj g)]
      simp only [List.mem_cons, Ne.symm h, false_or]

/-- All nine eyes changed, each by a change of its own record alone. -/
theorem allEyes_foldl {g : State → Eye → State} {F : Eye → EyeRec → EyeRec} {s : State}
    (hg : ∀ v e, g { s with eyes := v } e = { s with eyes := v }.modEye e (F e)) :
    ∃ u, allEyes.foldl g s = { s with eyes := u } ∧ ∀ e, u[eyeIx e] = F e (s.eye e) := by
  obtain ⟨u, hu, hget⟩ := foldl_eyes hg allEyes allEyes_nodup s.eyes
  exact ⟨u, hu, fun e => by rw [hget, if_pos (mem_allEyes e)]; rfl⟩

/-! ### The counted edge (R1, R14, R15) -/

/-- A change of A is a forward edge when the two channels are equal, a change of B when they differ (R1). -/
theorem isForward_iff (ch : EncChannel) (l : LineUnit) :
    isForward ch l = true ↔ (ch = .a ∧ l.encA = l.encB) ∨ (ch = .b ∧ l.encA ≠ l.encB) := by
  cases ch <;> cases ha : l.encA <;> cases hb : l.encB <;> simp [isForward, channelsAfter, forwardNext, ha, hb]

theorem channelsAfter_eq (ch : EncChannel) (l : LineUnit) :
    channelsAfter ch l = (if ch = .a then !l.encA else l.encA, if ch = .b then !l.encB else l.encB) := by
  cases ch <;> rfl

theorem countEdge_forward {ch : EncChannel} {l : LineUnit} (h : isForward ch l = true) :
    countEdge ch l =
      { l with
        p := l.p + 1#32, dir := .forward, advance := l.advance + 1
        encA := if ch = .a then !l.encA else l.encA
        encB := if ch = .b then !l.encB else l.encB } := by
  simp only [countEdge, h, if_true, channelsAfter_eq]

theorem countEdge_reverse {ch : EncChannel} {l : LineUnit} (h : ¬isForward ch l = true) :
    countEdge ch l =
      { l with
        p := l.p - 1#32, dir := .reverse, advance := l.advance - 1
        encA := if ch = .a then !l.encA else l.encA
        encB := if ch = .b then !l.encB else l.encB } := by
  simp only [countEdge, h, if_false, channelsAfter_eq, Bool.false_eq_true]

/-- At a reverse edge PENDING eyes are dropped and nothing is due or held back (R14). -/
theorem afterReverse_eq (s : State) :
    ∃ u, afterReverse s = { s with eyes := u, due := [], heldExpiry := [] } ∧
      ∀ e, u[eyeIx e] = if (s.eye e).state = .pending then { s.eye e with state := .dropped } else s.eye e :=
  allEyes_foldl (s := { s with due := [], heldExpiry := [] }) (g := eyeReverse)
    (F := fun _ x => if x.state = .pending then { x with state := .dropped } else x) fun _ _ => rfl

/-- The record of an eye after a forward edge: its travel counted, or LIGHT after an ACCEPTED one whose input is light (R9, R15,
R17). -/
def eyeAtForward (lanes : LaneSet) (e : Eye) (x : EyeRec) : EyeRec :=
  if eyeEnabled lanes e = true ∧ x.dark = true then { x with darkTravel := x.darkTravel + 1 }
  else if (eyeEnabled lanes e && decide (x.dark = false ∧ x.state = .accepted)) = true then { x with state := .light }
  else x

theorem eyeForward_eq (s : State) (e : Eye) : eyeForward s e = s.modEye e (eyeAtForward s.prog.settings.lanes e) := by
  unfold eyeForward
  congr 1
  funext x
  cases he : eyeEnabled s.prog.settings.lanes e <;> cases hd : x.dark <;> simp [eyeAtForward, he, hd]

theorem foldl_eyeForward (s : State) :
    ∃ u, allEyes.foldl eyeForward s = { s with eyes := u } ∧
      ∀ e, u[eyeIx e] = eyeAtForward s.prog.settings.lanes e (s.eye e) :=
  allEyes_foldl fun v e => eyeForward_eq { s with eyes := v } e

/-- The trailing edges of a forward edge are all taken at its P (R15). -/
theorem foldl_trailingEdge (l : List Eye) (s : State) :
    l.foldl (fun t e => trailingEdge e t.line.p t) s = l.foldl (fun t e => trailingEdge e s.line.p t) s := by
  have at_ (p : Pos) : ∀ s : State, s.line.p = p →
      l.foldl (fun t e => trailingEdge e t.line.p t) s = l.foldl (fun t e => trailingEdge e p t) s := by
    induction l with
    | nil => exact fun s _ => by rw [List.foldl_nil, List.foldl_nil]
    | cons e l ih =>
      intro s hp
      rw [List.foldl_cons, List.foldl_cons, hp]
      exact ih _ (by rw [(trailingEdge_kept e p s).line, hp])
  exact at_ s.line.p s rfl

/-- The slots at or behind P carry the mark of the stop (R124). -/
theorem markPassed_eq (s : State) :
    markPassed s =
      { s with
        sched :=
          { s.sched with
            slots := s.sched.slots.map fun y => if 0 ≤ posDiff s.line.p y.pos then { y with passed := true } else y } } := by
  simp only [markPassed, State.setSlots, atOrPast, decide_eq_true_eq]

/-- The eyes that report their trailing edge are the ACCEPTED ones of an enabled lane whose input is light (R15). -/
theorem reportsTail_eq (s : State) :
    reportsTail s = fun e =>
      eyeEnabled s.prog.settings.lanes e && decide ((s.eye e).dark = false ∧ (s.eye e).state = .accepted) := by
  funext e
  cases he : eyeEnabled s.prog.settings.lanes e <;> cases hd : (s.eye e).dark <;> simp [reportsTail, he, hd]

/-- The trailing edges that a forward edge brings, taken at its P on the eyes u that it leaves (R15; log 3). -/
def tailsTaken (s : State) (u : Vector EyeRec 9) : State :=
  (allEyes.filter (reportsTail s)).foldl (fun v e => trailingEdge e s.line.p v)
    { s with eyes := u, due := [], heldExpiry := [] }

theorem tailsTaken_kept (s : State) (u : Vector EyeRec 9) :
    KeptGrowing { s with eyes := u, due := [], heldExpiry := [] } (tailsTaken s u) :=
  KeptGrowing.foldl _ (fun v e => trailingEdge_kept e s.line.p v) _ _

/-- What a forward edge brings after the count: the eyes (R9, R15), their trailing edges, under e-stop the marks (R124), and then
what is due in the state so reached (log 2). -/
theorem afterForward_eq (s : State) :
    ∃ u : Vector EyeRec 9, (∀ e, u[eyeIx e] = eyeAtForward s.prog.settings.lanes e (s.eye e)) ∧
      ∃ v : State,
        v =
          { tailsTaken s u with
            sched :=
              if s.inputs.estop then
                { (tailsTaken s u).sched with
                  slots := (tailsTaken s u).sched.slots.map fun y =>
                    if 0 ≤ posDiff s.line.p y.pos then { y with passed := true } else y }
              else (tailsTaken s u).sched } ∧
        afterForward s = { v with due := dueNow v } := by
  obtain ⟨u, hu, hget⟩ := foldl_eyeForward { s with due := [], heldExpiry := [] }
  have tails : eyesForward { s with due := [], heldExpiry := [] } = tailsTaken s u := by
    rw [eyesForward, hu]
    exact foldl_trailingEdge _ _
  have kept := tailsTaken_kept s u
  refine ⟨u, hget, if (tailsTaken s u).inputs.estop then markPassed (tailsTaken s u) else tailsTaken s u, ?_, ?_⟩
  · have hi : (tailsTaken s u).inputs.estop = s.inputs.estop := by rw [kept.inputs]
    have hl : (tailsTaken s u).line.p = s.line.p := by rw [kept.line]
    rw [markPassed_eq, ← hi, ← hl]
    split <;> rfl
  · simp only [afterForward, tails]

/-- Settles O32: an edge takes every eye by itself (`afterReverse_eq`, `afterForward_eq`), and the Matcher's trailing edges leave
what `tailsTaken_kept` lists. -/
theorem countedEdgesMoveThePosition : Obligations.CountedEdgesMoveThePosition := by
  intro ch s hp
  rw [← isForward_iff, exec_countedEdge hp]
  refine ⟨fun hf => ?_, fun hf => ?_⟩
  · obtain ⟨u, hu, hget⟩ := afterReverse_eq { s with line := countEdge ch s.line }
    refine ⟨{ s with line := countEdge ch s.line, eyes := u, due := [], heldExpiry := [] }, ?_, hget, ?_⟩
    · rw [if_neg hf, hu]
    · rw [countEdge_reverse hf]
  · obtain ⟨u, hget, v, hv, hT⟩ := afterForward_eq { s with line := countEdge ch s.line }
    have kept := tailsTaken_kept { s with line := countEdge ch s.line } u
    have heyes : v.eyes = u := hv ▸ kept.eyes
    have hline : v.line = countEdge ch s.line := (congrArg State.line hv).trans kept.line
    have hp : (countEdge ch s.line).p = s.line.p + 1#32 := by rw [countEdge_forward hf]
    refine ⟨{ v with due := dueNow v }, by rw [if_pos hf, hT], hline.trans (countEdge_forward hf), fun e => ?_, ?_⟩
    · show v.eyes[eyeIx e] = _
      rw [heyes, hget]
      rfl
    · generalize dueNow v = d
      dsimp only
      conv_rhs => rw [heyes, hline, ← hp]
      rw [hv, tailsTaken, reportsTail_eq]
      rfl

end Sys2Proof.Machine

namespace Sys2Proof.Machine

open Sys2Proof

/-! ### What a forward edge makes due (log 2) -/

theorem mem_select (s : State) (tags : List Nat) (q : Piece → Bool) (tag : Nat) :
    tag ∈ s.select tags q ↔ tag ∈ tags ∧ ∃ r, s.piece? tag = some r ∧ q r = true := by
  rw [State.select, List.mem_filter]
  cases s.piece? tag <;> simp

/-- The firings of an edge: with a slot at or behind P and ESTOP inactive the mark of the firing and each such slot (R120). -/
theorem firesNow_eq (s : State) :
    firesNow s =
      if s.inputs.estop = true ∨ s.sched.slots.filter (fun y => atOrPast s.line.p y.pos) = [] then []
      else .firing :: (s.sched.slots.filter fun y => atOrPast s.line.p y.pos).map (.fire ·.place) := by
  unfold firesNow
  by_cases h : s.inputs.estop = true
  · rw [if_pos h, if_pos (.inl h)]
  · rw [if_neg h]
    split
    · next hn => rw [if_pos (.inr hn)]
    · next hn => rw [if_neg (not_or.2 ⟨h, hn⟩)]

theorem mem_firesNow (s : State) (d : Due) :
    d ∈ firesNow s ↔
      s.inputs.estop = false ∧ ∃ y ∈ s.sched.slots, 0 ≤ posDiff s.line.p y.pos ∧ (.firing = d ∨ .fire y.place = d) := by
  rw [firesNow_eq]
  by_cases h : s.inputs.estop = true
  · simp [h]
  · by_cases hn : s.sched.slots.filter (fun y => atOrPast s.line.p y.pos) = []
    · rw [if_pos (.inr hn)]
      simp only [List.filter_eq_nil_iff, atOrPast, decide_eq_true_eq] at hn
      simp only [List.not_mem_nil, false_iff]
      rintro ⟨-, y, hy, hp, -⟩
      exact hn y hy hp
    · rw [if_neg (not_or.2 ⟨h, hn⟩)]
      obtain ⟨y, hy⟩ := List.exists_mem_of_ne_nil _ hn
      simp only [List.mem_filter, atOrPast, decide_eq_true_eq] at hy
      simp only [List.mem_cons, List.mem_map, List.mem_filter, atOrPast, decide_eq_true_eq, h, true_and]
      constructor
      · rintro (rfl | ⟨z, hz, rfl⟩)
        · exact ⟨y, hy.1, hy.2, .inl rfl⟩
        · exact ⟨z, hz.1, hz.2, .inr rfl⟩
      · rintro ⟨z, hz, hp, rfl | rfl⟩
        · exact .inl rfl
        · exact .inr ⟨z, ⟨hz, hp⟩, rfl⟩

theorem mem_expiring (s : State) (st : Stage) (tag : Nat) :
    tag ∈ expiring s st ↔
      tag ∈ s.track.zone (stageZone st) ∧
        ∃ r, s.piece? tag = some r ∧ stillWaits st r = true ∧ expiryPoint s.prog.settings st r = s.line.p := by
  simp only [expiring, mem_select, expiresNow, Bool.and_eq_true, decide_eq_true_eq]

/-- The events due, kind by kind. -/
theorem mem_dueNow (s : State) (d : Due) :
    d ∈ dueNow s ↔
      match d with
      | .accept e => acceptReady s e = true
      | .block e => blockReady s e = true
      | .grant => posDiff s.line.p s.seq.mark = 8
      | .expiry tag => ∃ st, tag ∈ expiring s st
      | .firing => s.inputs.estop = false ∧ ∃ y ∈ s.sched.slots, 0 ≤ posDiff s.line.p y.pos
      | .fire place => s.inputs.estop = false ∧ ∃ y ∈ s.sched.slots, y.place = place ∧ 0 ≤ posDiff s.line.p y.pos
      | .idle i => idleReady s i = true := by
  have stages (tag : Nat) :
      (tag ∈ expiring s .feed ∨ tag ∈ expiring s .iron ∨ tag ∈ expiring s .fold) ↔ ∃ st, tag ∈ expiring s st :=
    ⟨by rintro (h | h | h) <;> exact ⟨_, h⟩, by rintro ⟨_ | _ | _, h⟩ <;> simp [h]⟩
  cases d <;>
    simp [dueNow, mem_firesNow, mem_allEyes, mem_allLotSlots, stages, Config.grantStepCounts, and_comm]

/-- Settles O33: the list is filled from the state that the edge leaves. -/
theorem forwardEdgeMakesItsEventsDue : Obligations.ForwardEdgeMakesItsEventsDue := by
  intro ch s t hp ht hdir
  rw [exec_countedEdge hp] at ht
  have ht := Host.Outcome.next.inj ht
  split at ht
  · obtain ⟨u, -, v, -, hv⟩ := afterForward_eq { s with line := countEdge ch s.line }
    have hd : t.due = dueNow t := by rw [← ht, hv]; rfl
    rw [hd]
    refine ⟨fun e => ?_, fun e => ?_, ?_, fun place => ?_, ?_, fun tag => ?_, fun i => ?_⟩
    · simp [mem_dueNow, acceptReady]
    · simp [mem_dueNow, blockReady, or_assoc]
    · simp only [mem_dueNow]
    · simp only [mem_dueNow]
    · simp only [mem_dueNow]
    · simp only [mem_dueNow, mem_expiring]
    · simp [mem_dueNow, idleReady, and_assoc]
  · next hf =>
    obtain ⟨u, hu, -⟩ := afterReverse_eq { s with line := countEdge ch s.line }
    rw [← ht, hu, countEdge_reverse hf] at hdir
    cases hdir

/-! ### The store at power-on (R155) -/

theorem mem_allPrograms (ix : ProgramIx) : ix ∈ allPrograms := by revert ix; decide

/-- Entries of a table set one after another. -/
theorem foldl_vmod_const {α : Type} {n : Nat} (g : Fin n → α) (l : List (Fin n)) (v : Vector α n) (j : Fin n) :
    (l.foldl (fun v i => vmod v i fun _ => g i) v)[j] = if j ∈ l then g j else v[j] := by
  induction l generalizing v with
  | nil => simp
  | cons i l ih =>
    rw [List.foldl_cons, ih, vmod_get]
    by_cases h : i = j
    · simp [h]
    · simp only [List.mem_cons, Ne.symm h, h, false_or, if_false]

theorem loadPrograms_get (stored : Vector (Option Program) 32) (ix : ProgramIx) :
    (loadPrograms stored)[ix] = loadProgram stored[ix] := by
  rw [loadPrograms, foldl_vmod_const, if_pos (mem_allPrograms ix)]

theorem loadStore_stored (p : ProgramStore) :
    (loadStore p).storedPrograms = p.storedPrograms ∧ (loadStore p).storedSettings = p.storedSettings := by
  simp only [loadStore, and_self]

/-- An eye taken up at its input (R17, R18). -/
def eyeTakenUp (lanes : LaneSet) (l : LineUnit) (e : Eye) (x : EyeRec) : EyeRec :=
  if eyeEnabled lanes e = true ∧ x.dark = true then
    (if l.dir = .forward then { x with state := .pending, darkTravel := 0, cLead := l.p }
    else { x with state := .dropped, darkTravel := 0 })
  else { x with state := .light, darkTravel := 0 }

theorem takeUp_eq (e : Eye) (s : State) : takeUp e s = s.modEye e (eyeTakenUp s.prog.settings.lanes s.line e) := by
  unfold takeUp
  congr 1
  funext x
  simp only [beginDark_eq, Bool.and_eq_true, eyeTakenUp]

theorem resetEyes_eq (s : State) :
    ∃ u, resetEyes s = { s with eyes := u } ∧ ∀ e, u[eyeIx e] = eyeTakenUp s.prog.settings.lanes s.line e (s.eye e) :=
  allEyes_foldl fun v e => takeUp_eq e { s with eyes := v }

/-- The state that POWER_ON makes before the eyes are taken up: the sampled levels, the store's records and the values at reset
(R4, R180). -/
def poweredUp (smp : PowerSamples) (s : State) : State where
  powered := true
  line :=
    { p := 0#32, dir := .forward, encA := smp.encA, encB := smp.encB, hist := Vector.replicate 4 0, advance := 0
      fullWindows := 0, windowEnd := 10, now := 0 }
  eyes := smp.dark.map fun d => { dark := d, state := .light, cLead := 0#32, darkTravel := 0 }
  stations := Vector.replicate 4 Station.initial
  inputs := { buttons := smp.buttons, key := smp.key, lineRun := smp.lineRun, estop := smp.estop }
  seq := Sequencer.initial 0#32
  track := TrackStore.initial
  sched := Scheduler.initial
  lot := LotUnit.initial
  prog := loadStore s.prog
  log := CompletionLog.initial
  latch := FaultLatch.clear
  link :=
    { address := smp.address, rate := smp.rate, rx := .skipping, buffer := [], quiet := false, owed := none, sent := none }
  due := []
  heldExpiry := []
  pending := s.pending

theorem switchOn_eq (smp : PowerSamples) (s : State) : switchOn smp s = resetEyes (poweredUp smp s) := by
  have eyes (v : Vector Bool 9) (f : Bool → EyeRec) :
      #v[f v[0], f v[1], f v[2], f v[3], f v[4], f v[5], f v[6], f v[7], f v[8]] = v.map f := by
    apply Vector.ext
    intro i hi
    rw [Vector.getElem_map]
    match i, hi with
    | 0, _ | 1, _ | 2, _ | 3, _ | 4, _ | 5, _ | 6, _ | 7, _ | 8, _ => rfl
  rw [poweredUp, ← eyes]
  rfl

/-- Settles O30: the values at reset are `poweredUp`, and each eye is then taken up at its input (`resetEyes_eq`). -/
theorem powerOnLoadsTheStoreAndResetsTheRest : Obligations.PowerOnLoadsTheStoreAndResetsTheRest := by
  intro smp s
  refine ⟨fun hp => ⟨failSupply s, ?_, rfl, ?_⟩, fun hp => ?_⟩
  · simp only [exec, execPowerFail, whenPowered_on hp]
  · simp only [exec, execPowerOn, if_pos hp]
    rfl
  · have hx : exec (.powerOn smp) s = .next (switchOn smp s) := by
      simp only [exec, execPowerOn, hp, Bool.false_eq_true, if_false]
    obtain ⟨u, hu, hget⟩ := resetEyes_eq (poweredUp smp s)
    rw [switchOn_eq, hu] at hx
    refine ⟨_, hx, rfl, rfl, rfl, rfl, rfl, loadPrograms_get s.prog.storedPrograms, ?_, ?_⟩
    · show loadSettings s.prog.storedSettings = _
      unfold loadSettings
      rfl
    · obtain ⟨programs, settings⟩ := loadStore_stored s.prog
      refine ⟨rfl, rfl, rfl, programs, settings, fun e => ?_, rfl, rfl, rfl, rfl, rfl, rfl, rfl, rfl, rfl⟩
      have he : (poweredUp smp s).eye e = { dark := smp.dark[eyeIx e], state := .light, cLead := 0#32, darkTravel := 0 } :=
        Vector.getElem_map ..
      show u[eyeIx e].dark = _ ∧ u[eyeIx e].darkTravel = _ ∧
        u[eyeIx e].state =
          (if eyeEnabled (poweredUp smp s).prog.settings.lanes e = true ∧ smp.dark[eyeIx e] = true then .pending
          else .light) ∧
        (u[eyeIx e].state = .pending → u[eyeIx e].cLead = 0#32)
      rw [hget, he, eyeTakenUp]
      by_cases h : eyeEnabled (poweredUp smp s).prog.settings.lanes e = true ∧ smp.dark[eyeIx e] = true
      · rw [if_pos h, if_pos h]
        exact ⟨rfl, rfl, rfl, fun _ => rfl⟩
      · rw [if_neg h, if_neg h]
        exact ⟨rfl, rfl, rfl, fun _ => rfl⟩

end Sys2Proof.Machine

namespace Sys2Proof.Machine

open Sys2Proof

/-! ### The tables of the manual -/

/-- Some lane is open when one of the four is (R78). -/
theorem someOpen_iff (seen ended : LaneSet) : someOpen seen ended = true ↔ ∃ x, laneOpen seen ended x = true := by
  rw [someOpen, decide_eq_true_eq, ← not_iff_not, not_not, not_exists]
  have bit (i : Nat) (hi : i < 4) : (seen &&& ~~~ended).getLsbD i = laneOpen seen ended ⟨i, hi⟩ := by
    simp [laneOpen, hasLane, hi]
  constructor
  · intro h w hw
    rw [← bit w.val w.isLt, h, BitVec.getLsbD_zero] at hw
    cases hw
  · intro h
    refine BitVec.eq_of_getLsbD_eq fun i hi => ?_
    rw [bit i hi, Bool.eq_false_iff.2 (h ⟨i, hi⟩), BitVec.getLsbD_zero]

theorem hasLane_laneBit (w x : Lane) : hasLane (laneBit w) x = decide (x = w) := by
  revert w x
  decide

theorem laneOpen_iff (seen ended : LaneSet) (w : Lane) :
    laneOpen seen ended w = true ↔ hasLane seen w = true ∧ hasLane ended w = false := by
  simp [laneOpen]

theorem posDiff_bounds (a b : Pos) :
    -2147483648 ≤ posDiff a b ∧ posDiff a b < 2147483648 ∧ BitVec.ofInt 32 (posDiff a b) = a - b :=
  ⟨BitVec.le_toInt (a - b), BitVec.toInt_lt (x := a - b), BitVec.ofInt_toInt⟩

theorem posAdd_toNat (a : Pos) (n : Nat) : (posAdd a n).toNat = (a.toNat + n) % 4294967296 := by
  simp [posAdd]

/-- A position in a window, by its two ends (R77). -/
theorem inWindow_iff (c : LineSettings) (st : Stage) (r : Piece) (q : Pos) :
    inWindow c st r q = true ↔
      0 ≤ posDiff q (posSub (predicted c st r) (tolerances c st).1) ∧
        0 ≤ posDiff (posAdd (predicted c st r) (tolerances c st).2) q := by
  simp only [inWindow, atOrPast, Bool.and_eq_true, decide_eq_true_eq]

theorem absorbsEntry_iff (c : LineSettings) (w : Lane) (q : Pos) (r : Piece) :
    absorbsEntry c w q r = true ↔
      r.kind = .fed ∧ r.state = .ironing ∧ hasLane r.footprint w = true ∧ hasLane r.entrySeen w = false ∧
        (∃ x, laneOpen r.entrySeen r.entryEnded x = true) ∧ 0 ≤ posDiff q (r.entryLead.getD 0#32) ∧
        inWindow c .feed r q = true := by
  simp only [absorbsEntry, atOrPast, Bool.and_eq_true, decide_eq_true_eq, Bool.not_eq_true', someOpen_iff, and_assoc]

theorem absorbsExit_iff (c : LineSettings) (w : Lane) (q : Pos) (r : Piece) :
    absorbsExit c w q r = true ↔
      r.kind = .fed ∧ r.state = .folding ∧ hasLane r.footprint w = true ∧ hasLane r.exitSeen w = false ∧
        (∃ x, laneOpen r.exitSeen r.exitEnded x = true) ∧ 0 ≤ posDiff q (r.exitLead.getD 0#32) ∧
        inWindow c .iron r q = true := by
  simp only [absorbsExit, atOrPast, Bool.and_eq_true, decide_eq_true_eq, Bool.not_eq_true', someOpen_iff, and_assoc]

theorem expectsStacker_iff (r : Piece) :
    expectsStacker r = true ↔ r.state = .folding ∧ (r.undiverted = true ∨ (r.route = .stack ∧ r.reason = none)) := by
  simp [expectsStacker]

/-- A record still waits at the eye group of the stage of its zone, and at the stacker when it expects it (R92). -/
theorem stillWaits_iff (r : Piece) :
    (stillWaits .feed r = true ↔ r.completion = none ∧ r.state = .released) ∧
      (stillWaits .iron r = true ↔ r.completion = none ∧ r.state = .ironing) ∧
      (stillWaits .fold r = true ↔ r.completion = none ∧ expectsStacker r = true) := by
  simp [stillWaits]

theorem mem_waitEyes (r : Piece) :
    (∀ e : Eye, e ∈ waitEyes .feed r ↔ ∃ w, e = .n w ∧ hasLane r.footprint w = true) ∧
      (∀ e : Eye, e ∈ waitEyes .iron r ↔ ∃ w, e = .x w ∧ hasLane r.footprint w = true) ∧
      ∀ e : Eye, e ∈ waitEyes .fold r ↔ e = .k := by
  have lanes (f : Lane → Eye) (e : Eye) :
      e ∈ (allLanes.filter (hasLane r.footprint)).map f ↔ ∃ w, e = f w ∧ hasLane r.footprint w = true := by
    simp only [List.mem_map, List.mem_filter, mem_allLanes, true_and]
    exact exists_congr fun w => by rw [and_comm, eq_comm]
  exact ⟨lanes .n, lanes .x, fun e => List.mem_singleton⟩

/-- The pack length is the largest part between two folds, and the cross offset half of it, rounded up (R99). -/
theorem packLength_eq (len f g : Nat) :
    packLength len [] = len ∧ packLength len [f] = max (len * f / 256) (len - len * f / 256) ∧
      packLength len [f, g] = max (len * f / 256) (max (len * g / 256 - len * f / 256) (len - len * g / 256)) := by
  simp [packLength, largestGap, foldOffset]

theorem crossOffset_bounds (len : Nat) (folds : List Nat) :
    packLength len folds ≤ 2 * crossOffset len folds ∧ 2 * crossOffset len folds ≤ packLength len folds + 1 := by
  unfold crossOffset
  omega

theorem runConditions_iff (s : State) :
    runConditions s = true ↔
      s.inputs.lineRun = true ∧ s.line.fullWindows = 4 ∧ (s.prog.settings.speedMin : Int) ≤ speed s.line ∧
        s.inputs.estop = false ∧ s.inputs.key = .run ∧ s.prog.valid = true := by
  simp [runConditions, settled, fastEnough, and_assoc]

theorem faultHolds_iff (s : State) :
    faultHolds s = true ↔ s.latch.latched = true ∧ s.prog.settings.faultMode = .hold := by
  simp [faultHolds]

/-- A choice by a chain of tests is the first row of a table whose test holds. -/
theorem ite_eq_firstRow {α : Type} (b : Bool) (x : α) (rows : List (Bool × α)) (d : α) :
    (((b, x) :: rows).find? fun row => row.1).elim d (fun row => row.2) =
      if b = true then x else (rows.find? fun row => row.1).elim d fun row => row.2 := by
  cases b <;> rfl

/-- The blocking condition by the table of R40. -/
theorem blocking_eq (s : State) :
    blocking s =
      (([(s.inputs.estop, .estop), (decide (s.inputs.key = .setup), .key), (!s.prog.valid, .settings),
          (!s.inputs.lineRun, .lineRun), (decide (s.line.fullWindows ≠ 4), .unsettled),
          (decide (speed s.line < s.prog.settings.speedMin), .slow),
          (s.latch.latched && decide (s.prog.settings.faultMode = .hold), .fault)] :
            List (Bool × Blocking)).find? fun row => row.1).elim .none fun row => row.2 := by
  have unsettled : (!settled s.line) = decide (s.line.fullWindows ≠ 4) := by
    rw [settled, decide_not, beq_eq_decide]
  have slow : (!fastEnough s) = decide (speed s.line < s.prog.settings.speedMin) := by
    rw [fastEnough, ← decide_not]
    simp only [not_le]
  simp only [ite_eq_firstRow, List.find?_nil, Option.elim_none, blocking, faultHolds, unsettled, slow, decide_eq_true_eq]
  rfl

/-- Settles O54, table by table. -/
theorem tablesOfTheManual : Obligations.TablesOfTheManual := by
  refine ⟨by decide, by decide, by decide, by decide, by decide, fun now w => ⟨rfl, fun e => rfl⟩, fun len f g => ?_,
    fun a b n => ?_, fun seen ended w x => ?_, fun c r q st => ?_, fun c r => rfl, fun c w q r => ?_, fun r => ?_, rfl,
    fun lanes w => ⟨rfl, rfl, rfl⟩, fun l => ?_, fun s => ?_, by decide, fun o w b => rfl, fun t => rfl,
    fun s e f => ⟨rfl, rfl⟩, fun s k f => rfl, fun s i f => rfl, fun s tag f => ?_, fun s x => rfl,
    fun s addr code body => rfl⟩
  · obtain ⟨none, one, two⟩ := packLength_eq len f g
    exact ⟨none, one, two, crossOffset_bounds len⟩
  · exact ⟨posDiff_bounds a b, posAdd_toNat a n, BitVec.sub_add_cancel a _⟩
  · exact ⟨rfl, hasLane_laneBit w x, laneOpen_iff seen ended w⟩
  · cases st <;> exact ⟨inWindow_iff c _ r q, rfl⟩
  · exact ⟨absorbsEntry_iff c w q r, absorbsExit_iff c w q r⟩
  · obtain ⟨feed, iron, fold⟩ := stillWaits_iff r
    exact ⟨expectsStacker_iff r, feed, iron, fold, mem_waitEyes r⟩
  · exact List.countP_eq_length_filter.symm
  · exact ⟨runConditions_iff s, faultHolds_iff s, blocking_eq s⟩
  · exact ⟨rfl, by simp only [State.modPiece, beq_iff_eq]⟩

end Sys2Proof.Machine

namespace Sys2Proof.Machine

open Sys2Proof

/-! ### The record that a trailing edge finds (R83, R88) -/

/-- The first element with a property, from the elements before it. -/
theorem find?_of_split {α : Type} {p : α → Bool} {l before after : List α} {x : α} (hl : l = before ++ x :: after)
    (hb : ∀ y ∈ before, p y = false) (hx : p x = true) : l.find? p = some x :=
  List.find?_eq_some_iff_append.2 ⟨hx, before, after, hl, fun y hy => by rw [hb y hy]; rfl⟩

/-- The record on which a lane is open, with the records before it (R78). -/
theorem find?_open {seen ended : Piece → LaneSet} {w : Lane} {pool before after : List Piece} {r : Piece}
    (hl : pool = before ++ r :: after)
    (hb : ∀ o ∈ before, o.completion.isSome ∨ laneOpen (seen o) (ended o) w = false) (hc : r.completion = none)
    (ho : laneOpen (seen r) (ended r) w = true) :
    (pool.find? fun o => o.completion.isNone && laneOpen (seen o) (ended o) w) = some r := by
  refine find?_of_split hl (fun o h => ?_) (by simp [hc, ho])
  rcases hb o h with h | h
  · simp [Option.isSome_iff_ne_none.1 h]
  · simp [h]

theorem find?_open_none {seen ended : Piece → LaneSet} {w : Lane} {pool : List Piece}
    (h : ∀ r ∈ pool, r.completion = none → laneOpen (seen r) (ended r) w = false) :
    (pool.find? fun o => o.completion.isNone && laneOpen (seen o) (ended o) w) = none := by
  rw [List.find?_eq_none]
  intro r hr
  cases hc : r.completion with
  | none => simp [h r hr hc]
  | some c => simp

/-- The record of a tag changed twice. -/
theorem modPiece_modPiece (s : State) (tag : Nat) (f g : Piece → Piece) (hf : ∀ r, (f r).tag = r.tag) :
    (s.modPiece tag f).modPiece tag g = s.modPiece tag fun r => g (f r) := by
  simp only [State.modPiece, List.map_map]
  congr 3
  funext r
  by_cases h : r.tag = tag <;> simp [h, hf]

/-- With distinct tags a change of the record of a tag changes that record alone. -/
theorem modPiece_split {s : State} (hp : PoolRight s.track) {before after : List Piece} {r : Piece}
    (hl : s.track.pool = before ++ r :: after) (f : Piece → Piece) :
    s.modPiece r.tag f = { s with track := { s.track with pool := before ++ f r :: after } } := by
  have hn := hp.nodup
  rw [hl, List.map_append, List.map_cons] at hn
  have other : ∀ q ∈ before ++ after, q.tag ≠ r.tag := by
    intro q hq e
    obtain ⟨-, hn, hd⟩ := List.nodup_append.1 hn
    rcases List.mem_append.1 hq with h | h
    · exact hd q.tag (List.mem_map_of_mem h) r.tag List.mem_cons_self e
    · exact (List.nodup_cons.1 hn).1 (e ▸ List.mem_map_of_mem h)
  have same (l : List Piece) (h : ∀ q ∈ l, q.tag ≠ r.tag) : l.map (fun q => if q.tag == r.tag then f q else q) = l :=
    (List.map_congr_left fun q hq => if_neg (by simp [h q hq])).trans (List.map_id' l)
  rw [State.modPiece, hl, List.map_append, List.map_cons, same before fun q h => other q (List.mem_append_left _ h),
    same after fun q h => other q (List.mem_append_right _ h)]
  simp

theorem someOpen_false_iff (seen ended : LaneSet) : someOpen seen ended = false ↔ seen &&& ~~~ended = 0#4 := by
  simp [someOpen]

/-! ### Trailing edges at the entry (R42, R83, R84) -/

/-- The tail of a lane of a footprint holds a tag (R42). -/
def HoldsTail (s : State) (tag : Nat) (foot : LaneSet) (x : Lane) : Prop :=
  hasLane foot x = true ∧ ∃ y : Tail, s.seq.tails[x] = some y ∧ y.tag = tag

/-- The test of the model for a tail that a measurement changes. -/
def holdsTail (s : State) (tag : Nat) (foot : LaneSet) (x : Lane) : Bool :=
  hasLane foot x && match s.seq.tails[x] with
    | some y => y.tag == tag
    | none => false

theorem holdsTail_iff (s : State) (tag : Nat) (foot : LaneSet) (x : Lane) :
    holdsTail s tag foot x = true ↔ HoldsTail s tag foot x := by
  unfold holdsTail HoldsTail
  cases s.seq.tails[x] <;> simp

theorem measureTails_eq (tag : Nat) (foot : LaneSet) (t : Pos) (s : State) :
    measureTails tag foot t s =
      if allLanes.any (holdsTail s tag foot) then
        examine
          { s with
            seq :=
              { s.seq with
                tails :=
                  allLanes.foldl
                    (fun v x => if holdsTail s tag foot x then vmod v x (Option.map fun y => { y with pos := t }) else v)
                    s.seq.tails } }
      else s := rfl

theorem measureTails_none {tag : Nat} {foot : LaneSet} {s : State} (h : ∀ x, ¬HoldsTail s tag foot x) (t : Pos) :
    measureTails tag foot t s = s := by
  rw [measureTails_eq, if_neg]
  simp only [List.any_eq_true, holdsTail_iff]
  rintro ⟨x, -, hx⟩
  exact h x hx

theorem measureTails_some {tag : Nat} {foot : LaneSet} {s : State} {x : Lane} (h : HoldsTail s tag foot x) (t : Pos) :
    ∃ tails : Vector (Option Tail) 4,
      (∀ y, (HoldsTail s tag foot y → tails[y] = s.seq.tails[y].map fun z => { z with pos := t }) ∧
        (¬HoldsTail s tag foot y → tails[y] = s.seq.tails[y])) ∧
      measureTails tag foot t s = examine { s with seq := { s.seq with tails := tails } } := by
  refine ⟨_, fun y => ?_, (measureTails_eq tag foot t s).trans (if_pos ?_)⟩
  · have get := foldl_lanes_get (holdsTail s tag foot) (fun _ => Option.map fun z : Tail => { z with pos := t }) s.seq.tails y
    rw [get, ← holdsTail_iff]
    exact ⟨fun h => if_pos h, fun h => if_neg h⟩
  · exact List.any_eq_true.2 ⟨x, mem_allLanes x, (holdsTail_iff s tag foot x).2 h⟩

/-- Lane w ends on record r, and with it, if it was the last one open, the entry is measured (R83, R84). -/
theorem trailEntry_eq {w : Lane} {s : State} {r : Piece} (t : Pos)
    (h : (s.track.pool.find? fun o => o.completion.isNone && laneOpen o.entrySeen o.entryEnded w) = some r) :
    trailEntry w t s =
      let ended := r.entryEnded ||| laneBit w
      let len := min 16383 (posDiff t (r.entryLead.getD 0#32)).toNat
      let u := s.modPiece r.tag fun o => { o with entryEnded := ended, entryLength := some len }
      if someOpen r.entrySeen ended then s.modPiece r.tag fun o => { o with entryEnded := ended }
      else
        match r.kind with
        | .stray => u
        | .fed =>
          measureTails r.tag r.footprint t
            (match pieceProgram s r with
              | some pr => lengthCheck r.tag len pr u
              | none => u) := by
  simp only [trailEntry, h, measuredLength]
  rw [modPiece_modPiece _ _ _ _ (by intro r; rfl)]
  rfl

/-- The last open lane of a STRAY record ends: its entry length is written (R83). -/
theorem trailEntry_stray {w : Lane} {s : State} {r : Piece}
    (h : (s.track.pool.find? fun o => o.completion.isNone && laneOpen o.entrySeen o.entryEnded w) = some r)
    (hl : someOpen r.entrySeen (r.entryEnded ||| laneBit w) = false) (hk : r.kind = .stray) (t : Pos) :
    trailEntry w t s =
      s.modPiece r.tag fun o =>
        { o with
          entryEnded := r.entryEnded ||| laneBit w
          entryLength := some (min 16383 (posDiff t (r.entryLead.getD 0#32)).toNat) } := by
  rw [trailEntry_eq t h]
  dsimp only
  rw [hl, hk]
  rfl

/-- The last open lane of a FED record ends: its length is checked and its tails are measured (R42, R83, R84). -/
theorem trailEntry_fed {w : Lane} {s : State} {r : Piece} {pr : ProgramRec}
    (h : (s.track.pool.find? fun o => o.completion.isNone && laneOpen o.entrySeen o.entryEnded w) = some r)
    (hl : someOpen r.entrySeen (r.entryEnded ||| laneBit w) = false) (hk : r.kind = .fed)
    (hp : pieceProgram s r = some pr) (t : Pos) :
    let len := min 16383 (posDiff t (r.entryLead.getD 0#32)).toNat
    trailEntry w t s =
      measureTails r.tag r.footprint t
        (lengthCheck r.tag len pr
          (s.modPiece r.tag fun o =>
            { o with entryEnded := r.entryEnded ||| laneBit w, entryLength := some len })) := by
  rw [trailEntry_eq t h]
  dsimp only
  rw [hl, hk, hp]
  rfl

theorem trailEntry_none {w : Lane} {s : State}
    (h : ∀ r ∈ s.track.pool, r.completion = none → laneOpen r.entrySeen r.entryEnded w = false) (t : Pos) :
    trailEntry w t s = s := by
  simp only [trailEntry, find?_open_none h]

/-- The lanes still open once lane w is ended besides (R78). -/
theorem open_and_not_bit {seen ended b : LaneSet} (h : seen &&& ~~~ended = b) : seen &&& ~~~(ended ||| b) = 0#4 := by
  rw [BitVec.not_or, ← BitVec.and_assoc, h, BitVec.and_not_self]
  rfl

/-- A single open lane is open. -/
theorem laneOpen_of_single {seen ended : LaneSet} {w : Lane} (h : seen &&& ~~~ended = laneBit w) :
    laneOpen seen ended w = true := by
  have : (seen &&& ~~~ended).getLsbD w.val = true := by
    rw [h]
    exact (hasLane_laneBit w w).trans (by simp)
  simpa [laneOpen, hasLane] using this

/-! ### EYE_LIGHT (R12 to R15) -/

theorem lightened_eq (dir : Direction) (x : EyeRec) :
    lightened dir x =
      { x with
        dark := false, darkTravel := 0
        state := if x.state = .accepted ∧ dir = .reverse then .accepted else .light } := by
  cases hs : x.state <;> cases dir <;> simp [lightened, hs]

theorem goLight_light {e : Eye} {s : State} (h : (s.eye e).dark = false) : goLight e s = s := by
  simp [goLight, h]

/-- An eye that is not ACCEPTED in forward motion reports nothing when its input goes light. -/
theorem goLight_silent {e : Eye} {s : State} (hd : (s.eye e).dark = true)
    (h : e = .k ∨ (s.eye e).state ≠ .accepted ∨ s.line.dir = .reverse) :
    goLight e s = settleHeld (s.modEye e (lightened s.line.dir)) := by
  unfold goLight
  rw [if_neg (by simp [hd])]
  dsimp only
  rcases h with rfl | h | h
  · exact congrArg settleHeld (ite_self _)
  · rw [if_neg (by simp [h])]
  · rw [if_neg (by simp [h])]

theorem goLight_reports {e : Eye} {s : State} (hd : (s.eye e).dark = true) (ha : (s.eye e).state = .accepted)
    (hf : s.line.dir = .forward) :
    goLight e s =
      settleHeld
        (trailingEdge e s.line.p (s.modEye e fun x => { x with dark := false, darkTravel := 0, state := .light })) := by
  have hl : lightened .forward = fun x => { x with dark := false, darkTravel := 0, state := .light } := by
    funext x
    simp [lightened_eq]
  unfold goLight
  rw [if_neg (by simp [hd])]
  dsimp only
  rw [if_pos (by simp [ha, hf]), hf, hl]
  rfl

/-- Settles O39: the record that the lane ends on is the one open on it, and its program decides what is measured. -/
theorem entryTrailingEdgeWritesTheStrayLength : Obligations.EntryTrailingEdgeWritesTheStrayLength := by
  refine ⟨fun w r before after s hp hh hd ha hf pool hl hb hc hk ho => ?_,
    fun w q s pool => ⟨fun h => trailEntry_none h q, ?_⟩⟩
  · let u := s.modEye (.n w) fun x => { x with dark := false, darkTravel := 0, state := .light }
    have found : (u.track.pool.find? fun o => o.completion.isNone && laneOpen o.entrySeen o.entryEnded w) = some r :=
      find?_open hl hb hc (laneOpen_of_single ho)
    have last := (someOpen_false_iff _ _).2 (open_and_not_bit ho)
    have edge : trailingEdge (.n w) s.line.p u = _ := trailEntry_stray found last hk s.line.p
    rw [exec_eyeLight hp, goLight_reports hd ha hf, edge, modPiece_split (s := u) pool hl]
    refine congrArg Host.Outcome.next ((settleHeld_nil ?_).trans ?_)
    · exact hh
    · rfl
  · intro r before after hl hb hc ho ended len u
    have found : (s.track.pool.find? fun o => o.completion.isNone && laneOpen o.entrySeen o.entryEnded w) = some r :=
      find?_open hl hb hc ho
    refine ⟨fun h => ?_, fun h => ?_⟩
    · rw [trailEntry_eq q found]
      exact if_pos (by simpa [someOpen] using h)
    · have last := (someOpen_false_iff _ _).2 h
      refine ⟨fun hk => trailEntry_stray found last hk q, fun ix pr hk hi hpr => ?_⟩
      · intro v mine
        have program : pieceProgram s r = some pr := by rw [pieceProgram, hi]; exact hpr
        have hv : trailEntry w q s = measureTails r.tag r.footprint q v := trailEntry_fed found last hk program q
        refine ⟨fun hm => ?_, fun x hm => ?_⟩
        · rw [hv, measureTails_none hm]
        · obtain ⟨tails, get, eq⟩ := measureTails_some (s := v) (tag := r.tag) (foot := r.footprint) hm q
          exact ⟨tails, get, hv.trans eq⟩

end Sys2Proof.Machine

namespace Sys2Proof.Machine

open Sys2Proof

/-! ### Trailing edges at the exit (R88, R108, R109) -/

theorem trailExit_none {w : Lane} {s : State}
    (h : ∀ r ∈ s.track.pool, r.completion = none → laneOpen r.exitSeen r.exitEnded w = false) (t : Pos) :
    trailExit w t s = s := by
  simp only [trailExit, find?_open_none h]

/-- Lane w ends on record r, and with it, if it was the last one open, the exit length is known (R88). -/
theorem trailExit_eq {w : Lane} {s : State} {r : Piece} (t : Pos)
    (h : (s.track.pool.find? fun o => o.completion.isNone && laneOpen o.exitSeen o.exitEnded w) = some r) :
    trailExit w t s =
      let ended := r.exitEnded ||| laneBit w
      let len := min 16383 (posDiff t (r.exitLead.getD 0#32)).toNat
      if someOpen r.exitSeen ended then s.modPiece r.tag fun o => { o with exitEnded := ended }
      else exitLengthKnown r.tag len (s.modPiece r.tag fun o => { o with exitEnded := ended, exitLength := some len }) := by
  simp only [trailExit, h, measuredLength]
  rw [modPiece_modPiece _ _ _ _ (by intro r; rfl)]

/-! ### The refinement of one slot (R109) -/

/-- A slot as its refinement leaves it: at the position that the exit length gives, if it may move there (R109). -/
def refined (s : State) (tag : Nat) (x : Pos) (len : Nat) (pr : ProgramRec) (y : Slot) : Slot :=
  match refinedPos s x len pr y.action with
  | some q => if mayMove s tag y q = true then { y with pos := q } else y
  | none => y

/-- The refinement of a slot changes no more than its position. -/
theorem refined_eq (s : State) (tag : Nat) (x : Pos) (len : Nat) (pr : ProgramRec) (y : Slot) :
    ∃ q, refined s tag x len pr y = { y with pos := q } := by
  unfold refined
  split
  · split
    · exact ⟨_, rfl⟩
    · exact ⟨y.pos, rfl⟩
  · exact ⟨y.pos, rfl⟩

@[simp] theorem refined_place (s : State) (tag : Nat) (x : Pos) (len : Nat) (pr : ProgramRec) (y : Slot) :
    (refined s tag x len pr y).place = y.place := by
  obtain ⟨q, hq⟩ := refined_eq s tag x len pr y
  rw [hq]

@[simp] theorem refined_action (s : State) (tag : Nat) (x : Pos) (len : Nat) (pr : ProgramRec) (y : Slot) :
    (refined s tag x len pr y).action = y.action := by
  obtain ⟨q, hq⟩ := refined_eq s tag x len pr y
  rw [hq]

theorem refined_moves {s : State} {tag : Nat} {x : Pos} {len : Nat} {pr : ProgramRec} {y : Slot} {q : Pos}
    (hq : refinedPos s x len pr y.action = some q) (hm : mayMove s tag y q = true) :
    refined s tag x len pr y = { y with pos := q } := by
  rw [refined, hq]
  exact if_pos hm

theorem refined_stays {s : State} {tag : Nat} {x : Pos} {len : Nat} {pr : ProgramRec} {y : Slot}
    (h : ∀ q, refinedPos s x len pr y.action = some q → ¬mayMove s tag y q = true) : refined s tag x len pr y = y := by
  unfold refined
  split
  · next q hq => exact if_neg (h q hq)
  · rfl

/-- The slots with the one in a place changed. -/
def slotsWith (f : Slot → Slot) (place : Nat) (l : List Slot) : List Slot :=
  l.map fun y => if y.place = place then f y else y

/-- A change that keeps the one slot of a place changes nothing. -/
theorem slotsWith_id {f : Slot → Slot} {place : Nat} {l : List Slot} (h : ∀ y ∈ l, y.place = place → f y = y) :
    slotsWith f place l = l := by
  refine (List.map_congr_left fun y hy => ?_).trans (List.map_id' l)
  split
  · next hp => exact h y hy hp
  · rfl

/-- With distinct places, the slot of a place taken out, changed and put in again anywhere. -/
theorem slotsWith_perm {f : Slot → Slot} {y : Slot} {l : List Slot} (hn : (l.map (·.place)).Nodup) (hy : y ∈ l) :
    (f y :: l.filter fun z => !(z.place == y.place)).Perm (slotsWith f y.place l) := by
  induction l with
  | nil => cases hy
  | cons z l ih =>
    rw [List.map_cons, List.nodup_cons] at hn
    obtain ⟨hz, hn⟩ := hn
    have apart : ∀ v ∈ l, v.place ≠ z.place := fun v hv e => hz (e ▸ List.mem_map_of_mem hv)
    rcases List.mem_cons.1 hy with rfl | hy
    · rw [List.filter_cons_of_neg (by simp), List.filter_eq_self.2 fun v hv => by simp [apart v hv]]
      have rest : slotsWith f y.place l = l := slotsWith_id fun v hv e => absurd e (apart v hv)
      have first : slotsWith f y.place (y :: l) = f y :: slotsWith f y.place l := by simp [slotsWith]
      rw [first, rest]
    · have hne : z.place ≠ y.place := fun e => apart y hy e.symm
      rw [List.filter_cons_of_pos (by simp [hne])]
      refine (List.Perm.swap _ _ _).trans ?_
      simpa [slotsWith, hne] using ih hn hy

/-- The refinement of the slot in a place changes the table alone, and there that slot alone (R109, R119). -/
theorem refineSlot_eq (tag : Nat) (x : Pos) (len : Nat) (pr : ProgramRec) (s : State) (place : Nat)
    (hn : (s.sched.slots.map (·.place)).Nodup) :
    ∃ l, refineSlot tag x len pr s place = s.setSlots l ∧
      l.Perm (slotsWith (refined s tag x len pr) place s.sched.slots) := by
  have same (h : ∀ y ∈ s.sched.slots, y.place = place → refined s tag x len pr y = y) :
      ∃ l, s = s.setSlots l ∧ l.Perm (slotsWith (refined s tag x len pr) place s.sched.slots) :=
    ⟨s.sched.slots, rfl, by rw [slotsWith_id h]⟩
  unfold refineSlot
  split
  · next y hy =>
    have hmem : y ∈ s.sched.slots := List.mem_of_find?_eq_some hy
    have hplace : y.place = place := by simpa using List.find?_some hy
    have only : ∀ z ∈ s.sched.slots, z.place = place → z = y := fun z hz e =>
      List.inj_on_of_nodup_map hn hz hmem (e.trans hplace.symm)
    split
    · next q hq =>
      have hr : refined s tag x len pr y = if mayMove s tag y q = true then { y with pos := q } else y := by
        rw [refined, hq]
      split
      · next hm =>
        simp only [Bool.and_eq_true, decide_eq_true_eq] at hm
        rw [if_pos hm.1] at hr
        refine ⟨_, by rw [moveSlot, hy], (insertSlot_perm _ _ _).trans ?_⟩
        rw [← hr, ← hplace]
        exact slotsWith_perm hn hmem
      · next hm =>
        refine same fun z hz e => ?_
        rw [only z hz e, hr]
        split
        · next hm' =>
          have : q = y.pos := by simpa [hm'] using hm
          rw [this]
        · rfl
    · next hq =>
      refine same fun z hz e => ?_
      rw [only z hz e, refined, hq]
  · next hy =>
    refine same fun z hz e => ?_
    exact absurd e (by simpa using List.find?_eq_none.1 hy z hz)

/-! ### The refinement of the slots of a record (R109) -/

/-- A slot once the places of a list have been refined from state s. -/
def refinedIn (s : State) (tag : Nat) (x : Pos) (len : Nat) (pr : ProgramRec) (places : List Nat) (y : Slot) : Slot :=
  if y.place ∈ places then refined s tag x len pr y else y

/-- Of the slots in a list of places at most one is CROSS. -/
def OneCross (slots : List Slot) (places : List Nat) : Prop :=
  ∀ y ∈ slots, ∀ z ∈ slots, y.place ∈ places → z.place ∈ places → y.action = .cross → z.action = .cross → y = z

section
variable {s : State} {tag len : Nat} {x : Pos} {pr : ProgramRec} {places : List Nat}

@[simp] theorem refinedIn_place (y : Slot) : (refinedIn s tag x len pr places y).place = y.place := by
  unfold refinedIn
  split <;> simp

@[simp] theorem refinedIn_action (y : Slot) : (refinedIn s tag x len pr places y).action = y.action := by
  unfold refinedIn
  split <;> simp

/-- The refinements before that of a slot leave what it may do: the other CROSS slots are where they were (R109, condition 5). -/
theorem mayMove_after {all : List Nat} (hone : OneCross s.sched.slots all) (hsub : ∀ p ∈ places, p ∈ all) {l : List Slot}
    (hl : l.Perm (s.sched.slots.map (refinedIn s tag x len pr places))) {y : Slot} (hy : y ∈ s.sched.slots)
    (hin : y.place ∈ all) (q : Pos) : mayMove (s.setSlots l) tag y q = mayMove s tag y q := by
  by_cases hc : y.action = .cross
  · let apart (z : Slot) : Bool :=
      z.place == y.place || decide (z.action ≠ .cross) || decide (s.prog.settings.xfCycle ≤ posDistance q z.pos)
    have keep : ∀ z ∈ s.sched.slots, apart (refinedIn s tag x len pr places z) = apart z := by
      intro z hz
      by_cases hzc : z.action = .cross ∧ z.place ∈ places
      · simp [apart, hone y hy z hz hin (hsub _ hzc.2) hc hzc.1]
      · by_cases hp : z.place ∈ places
        · simp [apart, show z.action ≠ .cross from fun e => hzc ⟨e, hp⟩]
        · rw [refinedIn, if_neg hp]
    have same : l.all apart = s.sched.slots.all apart := by
      rw [hl.all_eq, List.all_map, Bool.eq_iff_iff, List.all_eq_true, List.all_eq_true]
      exact forall₂_congr fun z hz => by rw [Function.comp_apply, keep z hz]
    simp only [mayMove]
    congr 3
  · simp only [mayMove, hc, ne_eq, not_false_eq_true, decide_true, Bool.true_or]
    rfl

/-- A slot's refinement does not wait on those before it, and a second one changes nothing. -/
theorem refined_after {all : List Nat} (hone : OneCross s.sched.slots all) (hsub : ∀ p ∈ places, p ∈ all) {l : List Slot}
    (hl : l.Perm (s.sched.slots.map (refinedIn s tag x len pr places))) {y : Slot} (hy : y ∈ s.sched.slots)
    (hin : y.place ∈ all) :
    refined (s.setSlots l) tag x len pr (refinedIn s tag x len pr places y) = refined s tag x len pr y := by
  have hpos (a : SlotAction) : refinedPos (s.setSlots l) x len pr a = refinedPos s x len pr a := rfl
  have first : refined (s.setSlots l) tag x len pr y = refined s tag x len pr y := by
    unfold refined
    rw [hpos]
    split
    · rw [mayMove_after hone hsub hl hy hin]
    · rfl
  unfold refinedIn
  split
  · by_cases hm : ∃ q, refinedPos s x len pr y.action = some q ∧ mayMove s tag y q = true
    · obtain ⟨q, hq, hmay⟩ := hm
      rw [refined_moves hq hmay, refined, hpos, hq]
      exact ite_self _
    · have stays : refined s tag x len pr y = y := refined_stays fun q hq hmay => hm ⟨q, hq, hmay⟩
      rw [stays, first, stays]
  · exact first

/-- The slots of a list of places refined one after another: only the table changes, and in it each slot of the list as it would
alone (R109; log 32). -/
theorem refineSlots_eq (hn : (s.sched.slots.map (·.place)).Nodup) (hone : OneCross s.sched.slots places) :
    ∃ l, places.foldl (refineSlot tag x len pr) s = s.setSlots l ∧
      l.Perm (s.sched.slots.map (refinedIn s tag x len pr places)) := by
  have go (rest done : List Nat) (hsub : ∀ p ∈ done ++ rest, p ∈ places) (l : List Slot)
      (hl : l.Perm (s.sched.slots.map (refinedIn s tag x len pr done))) :
      ∃ m, rest.foldl (refineSlot tag x len pr) (s.setSlots l) = s.setSlots m ∧
        m.Perm (s.sched.slots.map (refinedIn s tag x len pr (done ++ rest))) := by
    induction rest generalizing done l with
    | nil => exact ⟨l, rfl, by rwa [List.append_nil]⟩
    | cons p rest ih =>
      have perm : (l.map (·.place)).Perm (s.sched.slots.map (·.place)) := by
        simpa [Function.comp_def] using hl.map (·.place)
      obtain ⟨m, hm, hmp⟩ := refineSlot_eq tag x len pr (s.setSlots l) p (perm.nodup_iff.2 hn)
      have hp : p ∈ places := hsub p (by simp)
      have step : slotsWith (refined (s.setSlots l) tag x len pr) p (s.sched.slots.map (refinedIn s tag x len pr done)) =
          s.sched.slots.map (refinedIn s tag x len pr (done ++ [p])) := by
        rw [slotsWith, List.map_map]
        refine List.map_congr_left fun y hy => ?_
        rw [Function.comp_apply, refinedIn_place]
        by_cases h : y.place = p
        · rw [if_pos h, refined_after hone (fun z hz => hsub z (List.mem_append_left _ hz)) hl hy (h ▸ hp), refinedIn,
            if_pos (by simp [h])]
        · rw [if_neg h]
          simp only [refinedIn, List.mem_append, List.mem_singleton, h, or_false]
      have next := ih (done ++ [p]) (by simpa using hsub) m (hmp.trans (step ▸ hl.map _))
      rw [List.foldl_cons, hm, show (s.setSlots l).setSlots m = s.setSlots m from rfl]
      simpa using next
  have start : s.sched.slots.map (refinedIn s tag x len pr []) = s.sched.slots :=
    (List.map_congr_left fun y _ => if_neg List.not_mem_nil).trans (List.map_id' _)
  exact go places [] (fun _ h => h) s.sched.slots (by rw [start])

end

/-! ### The exit length known (R108, R109) -/

theorem exitLengthKnown_stray {s : State} {r : Piece} (hr : s.piece? r.tag = some r) (hp : r.program = none) (len : Nat) :
    exitLengthKnown r.tag len s = s := by
  simp only [exitLengthKnown, hr, pieceProgram, hp]

theorem exitLengthKnown_fed {s : State} {r : Piece} {pr : ProgramRec} {est : Nat} (hr : s.piece? r.tag = some r)
    (hp : pieceProgram s r = some pr) (he : r.lEst = some est) (len : Nat) :
    exitLengthKnown r.tag len s =
      if pr.refineWindow < ((len : Int) - est).natAbs then reasonArrives r.tag .exitMismatch s
      else r.actions.foldl (refineSlot r.tag (r.exitLead.getD 0#32) len pr) s := by
  simp only [exitLengthKnown, hr, hp, he]

/-- The conditions of R109, each as the manual gives it. -/
theorem mayMove_iff (s : State) (tag : Nat) (y : Slot) (q : Pos) :
    mayMove s tag y q = true ↔
      (s.prog.settings.arming : Int) ≤ posDiff y.pos s.line.p ∧ (s.prog.settings.arming : Int) ≤ posDiff q s.line.p ∧
        y.passed = false ∧
        (y.action = .cross →
          y.tags = [tag] ∧ ∀ z ∈ s.sched.slots, z.place ≠ y.place → z.action = .cross →
            s.prog.settings.xfCycle ≤ (posDiff q z.pos).natAbs) := by
  have apart (z : Slot) :
      (z.place == y.place || decide (z.action ≠ .cross) ||
          decide (s.prog.settings.xfCycle ≤ posDistance q z.pos)) = true ↔
        (z.place ≠ y.place → z.action = .cross → s.prog.settings.xfCycle ≤ (posDiff q z.pos).natAbs) := by
    rw [← show posDistance q z.pos = (posDiff q z.pos).natAbs from rfl]
    by_cases hp : z.place = y.place <;> by_cases hc : z.action = .cross <;> simp [hp, hc]
  simp only [mayMove, Bool.and_eq_true, Bool.or_eq_true (decide (y.action ≠ .cross)), List.all_eq_true, apart]
  by_cases hc : y.action = .cross <;> simp [hc, insideMargin, and_assoc]

/-- Settles O38: the eye's interval ends by `goLight`, the lane's by `trailExit`, and a refinement leaves each slot as it would be
alone (`refineSlots_eq`). -/
theorem lightInputEndsAnInterval : Obligations.LightInputEndsAnInterval := by
  refine ⟨fun e s hp => ⟨fun hd => ?_, fun hd hs => ?_, fun hd ha hf => ?_⟩,
    fun w q s pool hn => ⟨fun h => trailExit_none h q, ?_⟩⟩
  · rw [exec_eyeLight hp, goLight_light hd]
  · intro u
    have hu : s.modEye e (lightened s.line.dir) = u := congrArg (s.modEye e) (funext (lightened_eq s.line.dir))
    refine ⟨settleHeld u, ?_, settleHeld_settled u, fun hh => settleHeld_nil (s := u) hh⟩
    rw [exec_eyeLight hp, goLight_silent hd hs, hu]
  · intro u v
    have hv : trailingEdge e s.line.p u = v := by cases e <;> rfl
    refine ⟨settleHeld v, ?_, settleHeld_settled v, fun hh => settleHeld_nil (s := v) hh⟩
    rw [exec_eyeLight hp, goLight_reports hd ha hf, ← hv]
  · intro r before after hl hb hc ho ended len u
    have found : (s.track.pool.find? fun o => o.completion.isNone && laneOpen o.exitSeen o.exitEnded w) = some r :=
      find?_open hl hb hc ho
    refine ⟨fun h => ?_, fun h => ?_⟩
    · rw [trailExit_eq q found]
      exact if_pos (by simpa [someOpen] using h)
    · let r' : Piece := { r with exitEnded := ended, exitLength := some len }
      have hr' : u.piece? r'.tag = some r' := by
        have : s.piece? r.tag = some r := piece?_of_mem pool (hl ▸ by simp)
        have changed := piece?_modPiece s r.tag r.tag
          (fun o => { o with exitEnded := ended, exitLength := some len }) (by intro o; rfl)
        rw [if_pos rfl, this] at changed
        exact changed
      have known : trailExit w q s = exitLengthKnown r'.tag len u := by
        rw [trailExit_eq q found]
        exact if_neg (by rw [(someOpen_false_iff _ _).2 h]; exact Bool.false_ne_true)
      refine ⟨fun hp => known.trans (exitLengthKnown_stray hr' hp len), fun ix pr est hi hpr he => ?_⟩
      have program : pieceProgram u r' = some pr := by
        rw [pieceProgram, show r'.program = some ix from hi]
        exact hpr
      have fed := known.trans (exitLengthKnown_fed hr' program he len)
      refine ⟨fun hw => fed.trans (if_pos hw), fun hw hone => ?_⟩
      intro c at_ new may
      obtain ⟨slots, hs, perm⟩ := refineSlots_eq (s := u) (tag := r.tag) (x := r.exitLead.getD 0#32) (len := len) (pr := pr)
        (places := r.actions) hn hone
      have left (y : Slot) (hy : y ∈ s.sched.slots) :
          refinedIn u r.tag (r.exitLead.getD 0#32) len pr r.actions y ∈ slots :=
        perm.mem_iff.2 (List.mem_map_of_mem hy)
      have moves (y : Slot) (p : Pos) : mayMove u r.tag y p = true ↔ may y p := mayMove_iff u r.tag y p
      have news (y : Slot) (hy : y.place ∈ r.actions) :
          refinedPos u (r.exitLead.getD 0#32) len pr y.action = new y := by
        show _ = if y.place ∈ r.actions then _ else _
        rw [if_pos hy]
        cases y.action <;> rfl
      refine ⟨slots, (fed.trans (if_neg (not_lt.2 hw))).trans hs, ?_, fun y hy => ?_⟩
      · refine (perm.map (·.place)).trans (.of_eq ?_)
        rw [List.map_map]
        exact List.map_congr_left fun y _ => refinedIn_place y
      · have mine := left y hy
        by_cases hin : y.place ∈ r.actions
        · rw [refinedIn, if_pos hin] at mine
          refine ⟨fun p hp hm => ?_, fun hno => ?_⟩
          · rwa [refined_moves ((news y hin).trans hp) ((moves y p).2 hm)] at mine
          · rwa [refined_stays fun p hp hm => hno p ((news y hin).symm.trans hp) ((moves y p).1 hm)] at mine
        · rw [refinedIn, if_neg hin] at mine
          have none_ : new y = none := if_neg hin
          exact ⟨fun p hp => absurd (none_.symm.trans hp) nofun, fun _ => mine⟩

end Sys2Proof.Machine

namespace Sys2Proof.Machine

open Sys2Proof

/-! ### The free place of the slot table (log 12) -/

/-- A place that the search gives up on comes after tries that are all taken. -/
theorem freePlace_taken {slots : List Slot} {fuel n : Nat} (h : ∃ y ∈ slots, y.place = freePlace slots fuel n) :
    freePlace slots fuel n = n + fuel ∧ ∀ k < fuel, ∃ y ∈ slots, y.place = n + k := by
  induction fuel generalizing n with
  | zero => exact ⟨rfl, fun k hk => absurd hk (Nat.not_lt_zero k)⟩
  | succ fuel ih =>
    unfold freePlace at h ⊢
    split at h
    · next taken =>
      rw [if_pos taken]
      obtain ⟨he, hall⟩ := ih h
      refine ⟨by omega, fun k hk => ?_⟩
      cases k with
      | zero => simpa using taken
      | succ k =>
        obtain ⟨y, hy, hp⟩ := hall k (by omega)
        exact ⟨y, hy, by omega⟩
    · next free =>
      obtain ⟨y, hy, hp⟩ := h
      exact absurd (List.any_eq_true.2 ⟨y, hy, by simpa using hp⟩) free

/-- With fewer slots than tries the place found is free: the tries are distinct places, and the slots do not hold them all. -/
theorem freePlace_free {slots : List Slot} {fuel : Nat} (h : slots.length < fuel) (n : Nat) :
    ∀ y ∈ slots, y.place ≠ freePlace slots fuel n := by
  intro y hy hp
  obtain ⟨-, hall⟩ := freePlace_taken ⟨y, hy, hp⟩
  have hsub : (Finset.range fuel).image (n + ·) ⊆ (slots.map (·.place)).toFinset := by
    intro p hp
    obtain ⟨k, hk, rfl⟩ := Finset.mem_image.1 hp
    obtain ⟨z, hz, e⟩ := hall k (Finset.mem_range.1 hk)
    exact List.mem_toFinset.2 (List.mem_map.2 ⟨z, hz, e⟩)
  have card := Finset.card_le_card hsub
  rw [Finset.card_image_of_injective _ (add_right_injective n), Finset.card_range] at card
  have := List.toFinset_card_le (slots.map (·.place))
  rw [List.length_map] at this
  omega

theorem hasRoom_drop (slots : List Slot) : hasRoom slots .drop = true ↔ slots.length < 32 ∧ plainCount slots < 28 := by
  simp [hasRoom, Config.slotPlaces, Config.plainSlots]

/-! ### The first record of a list that an edge fits (R80, R85, R86) -/

theorem select_first {s : State} {tags before after : List Nat} {q : Piece → Bool} {tag : Nat} {r : Piece}
    (hl : tags = before ++ tag :: after) (hr : s.piece? tag = some r)
    (hb : ∀ u ∈ before, ∀ o, s.piece? u = some o → q o = false) (hq : q r = true) :
    ∃ rest, s.select tags q = tag :: rest := by
  have hn : s.select before q = [] := by
    rw [List.eq_nil_iff_forall_not_mem]
    intro u hu
    obtain ⟨hu, o, ho, hqo⟩ := (mem_select s before q u).1 hu
    exact absurd hqo (by simp [hb u hu o ho])
  refine ⟨s.select after q, ?_⟩
  rw [hl, State.select, List.filter_append, List.filter_cons_of_pos (by simp [hr, hq])]
  exact congrArg (· ++ _) hn

theorem select_none {s : State} {tags : List Nat} {q : Piece → Bool}
    (h : ∀ u ∈ tags, ∀ o, s.piece? u = some o → q o = false) : s.select tags q = [] := by
  rw [List.eq_nil_iff_forall_not_mem]
  intro u hu
  obtain ⟨hu, o, ho, hqo⟩ := (mem_select s tags q u).1 hu
  exact absurd hqo (by simp [h u hu o ho])

/-! ### A record that moves or is taken (R59, R68) -/

/-- A move changes the Track Store alone. -/
theorem moveRecord_track (tag : Nat) (z : Zone) (f : Piece → Piece) (s : State) :
    moveRecord tag z f s = { s with track := (moveRecord tag z f s).track } := by
  unfold moveRecord
  dsimp only
  split <;> rfl

/-- A move changes the record of its tag alone (R68). -/
theorem piece?_moveRecord (tag : Nat) (z : Zone) (f : Piece → Piece) (s : State) (hf : ∀ r, (f r).tag = r.tag) (u : Nat) :
    (moveRecord tag z f s).piece? u = if u = tag then (s.piece? u).map f else s.piece? u := by
  rw [← piece?_modPiece s tag u f hf]
  unfold moveRecord
  dsimp only
  split
  · simp only [State.piece?, joinZone_pool]
    rfl
  · rfl

/-- What a move does to the record of a tag and to the lists it stands in (R68). -/
theorem moveRecord_spec {s : State} {tag : Nat} {r : Piece} (hr : s.piece? tag = some r) (z : Zone) (f : Piece → Piece)
    (hf : ∀ o, (f o).tag = o.tag) :
    (moveRecord tag z f s).piece? tag = some (f r) ∧ (∀ u, u ≠ tag → (moveRecord tag z f s).piece? u = s.piece? u) ∧
      Moved tag z (f r).footprint s.track (moveRecord tag z f s).track := by
  obtain rfl := (piece?_some hr).2
  refine ⟨?_, fun u hu => ?_, moveRecord_moved z f s r hr hf⟩
  · rw [piece?_moveRecord _ _ _ _ hf, if_pos rfl, hr]
    rfl
  · rw [piece?_moveRecord _ _ _ _ hf, if_neg hu]

theorem takeRecord_track (z : Zone) (f : Nat → Pos → Piece) (s : State) :
    (takeRecord z f s).2 = { s with track := (takeRecord z f s).2.track } := rfl

theorem takeRecord_pool (z : Zone) (f : Nat → Pos → Piece) (s : State) :
    (takeRecord z f s).2.track.pool = s.track.pool ++ [f (takeRecord z f s).1 s.track.takeCounter] :=
  joinZone_pool _ _ _ _

theorem takeRecord_counters (z : Zone) (f : Nat → Pos → Piece) (s : State) :
    (takeRecord z f s).2.track.tagCounter = nextTag (takeRecord z f s).1 ∧
      (takeRecord z f s).2.track.takeCounter = s.track.takeCounter + 1#32 := by
  cases z <;> exact ⟨rfl, rfl⟩

/-! ### Leading edges at the exit (R79, R85 to R87) -/

/-- Closing a lane that no record has open changes nothing (R79). -/
theorem closeExitLane_id {w : Lane} {s : State}
    (h : ∀ r ∈ s.track.pool, r.completion = none → laneOpen r.exitSeen r.exitEnded w = false) : closeExitLane w s = s := by
  unfold closeExitLane
  rw [(List.map_congr_left fun r hr => if_neg ?_).trans (List.map_id' _)]
  cases hc : r.completion <;> simp [h r hr, hc]

theorem closeExitLane_eq (w : Lane) (s : State) :
    closeExitLane w s =
      { s with
        track :=
          { s.track with
            pool := s.track.pool.map fun r =>
              if r.completion = none ∧ laneOpen r.exitSeen r.exitEnded w = true then
                { r with exitEnded := r.exitEnded ||| laneBit w }
              else r } } := by
  simp only [closeExitLane, Bool.and_eq_true, Option.isNone_iff_eq_none]

/-- A lane that has been ended is not open. -/
theorem laneOpen_ended (seen ended : LaneSet) (w : Lane) : laneOpen seen (ended ||| laneBit w) w = false := by
  have : hasLane (ended ||| laneBit w) w = (hasLane ended w || hasLane (laneBit w) w) := BitVec.getLsbD_or
  simp [laneOpen, this, hasLane_laneBit]

/-- Once closed, a lane is open on no record. -/
theorem closeExitLane_closed (w : Lane) (s : State) :
    ∀ r ∈ (closeExitLane w s).track.pool, r.completion = none → laneOpen r.exitSeen r.exitEnded w = false := by
  rw [closeExitLane_eq]
  intro r hr hc
  obtain ⟨o, -, rfl⟩ := List.mem_map.1 hr
  by_cases ho : o.completion = none ∧ laneOpen o.exitSeen o.exitEnded w = true
  · rw [if_pos ho]
    exact laneOpen_ended _ _ w
  · rw [if_neg ho] at hc ⊢
    exact Bool.eq_false_iff.2 fun h => ho ⟨hc, h⟩

/-- An edge at the exit closes its lane first (R79). -/
theorem leadExit_closes (w : Lane) (c : Pos) (s : State) : leadExit w c s = leadExit w c (closeExitLane w s) := by
  have twice : closeExitLane w (closeExitLane w s) = closeExitLane w s := closeExitLane_id (closeExitLane_closed w s)
  simp only [leadExit, twice]

section
variable {w : Lane} {s : State} {c : Pos}
  (closed : ∀ r ∈ s.track.pool, r.completion = none → laneOpen r.exitSeen r.exitEnded w = false)
include closed

theorem leadExit_absorbed {tag : Nat} {rest : List Nat}
    (h : s.select s.track.foldZone (absorbsExit s.prog.settings w c) = tag :: rest) :
    leadExit w c s = s.modPiece tag fun r => { r with exitSeen := r.exitSeen ||| laneBit w } := by
  simp only [leadExit, closeExitLane_id closed, h]

variable (absorbed : s.select s.track.foldZone (absorbsExit s.prog.settings w c) = [])
include absorbed

theorem leadExit_matched {tag : Nat} {rest : List Nat}
    (h : s.select s.track.exitLists[w] (inWindow s.prog.settings .iron · c) = tag :: rest) :
    leadExit w c s =
      planExit tag
        (moveRecord tag .fold
          (fun r => { r with state := .folding, exitLead := some c, exitSeen := r.exitSeen ||| laneBit w }) s) := by
  simp only [leadExit, closeExitLane_id closed, absorbed, h]

variable (matched : s.select s.track.exitLists[w] (inWindow s.prog.settings .iron · c) = [])
include matched

theorem leadExit_stray (h : s.track.pool.length < 64) :
    leadExit w c s = planExit (takeRecord .fold (exitStray w c) s).1 (takeRecord .fold (exitStray w c) s).2 := by
  have free : 0 < s.freeRecords := Nat.sub_pos_of_lt h
  simp only [leadExit, closeExitLane_id closed, absorbed, matched, if_pos free]

theorem leadExit_untracked (h : 64 ≤ s.track.pool.length) :
    leadExit w c s = latchFault .strayUntracked (notice (36 + w.val) c s) := by
  have none_ : ¬0 < s.freeRecords := by
    simp only [State.freeRecords, Config.poolSize]
    omega
  simp only [leadExit, closeExitLane_id closed, absorbed, matched, if_neg none_, untracked]

end

/-- A record without a program is sent to the gate (R100). -/
theorem planExit_stray {tag : Nat} {s : State} {r : Piece} (hr : s.piece? tag = some r) (hp : r.program = none) :
    planExit tag s = rejectPlan tag s := by
  have program : pieceProgram s r = none := by rw [pieceProgram, hp]
  have estimate : writeEstimate tag s = s := by simp only [writeEstimate, hr, program]
  simp only [planExit, estimate, hr, program]

/-- The STRAY record of an exit edge stands alone under its tag, and no program is its (R64, R87). -/
theorem exitStray_taken (w : Lane) (c : Pos) {s : State} (hp : PoolRight s.track) :
    (takeRecord .fold (exitStray w c) s).2.piece? (takeRecord .fold (exitStray w c) s).1 =
      some (exitStray w c (takeRecord .fold (exitStray w c) s).1 s.track.takeCounter) := by
  obtain ⟨⟨fresh, -⟩, -⟩ := takeRecord_joined .fold (exitStray w c) s (fun _ _ => rfl) hp.counter hp.size
  rw [State.piece?, takeRecord_pool, List.find?_append, List.find?_eq_none.2 fun q hq => by simpa using fresh q hq,
    Option.none_or]
  exact List.find?_cons_of_pos (beq_self_eq_true _)

/-! ### Leading edges at the stacker (R90, R107, R111, R112) -/

/-- A record without a lot is stacked at once (R112). -/
theorem planDrop_noLot {s : State} {tag : Nat} {r : Piece} (hr : s.piece? tag = some r) (hl : r.lot = none) :
    planDrop tag s = complete tag .stacked none s := by
  simp only [planDrop, hr, hl, Option.bind_none]

/-- A reason arrives on a record: one that it holds stays (R62). -/
theorem takeReason_eq (tag : Nat) (why : RejectReason) (s : State) :
    takeReason tag why s = s.modPiece tag fun r => { r with reason := some (r.reason.getD why) } := by
  rw [takeReason]
  congr 1
  funext r
  cases h : r.reason with
  | none => simp
  | some x =>
    simp only [Option.isNone_some, Bool.false_eq_true, if_false, Option.getD_some]
    rw [← h]

section
variable {s : State} {tag : Nat} {r : Piece} {l : LotRef} {b : Bin} (hr : s.piece? tag = some r) (hl : r.lot = some l)
  (hb : s.lot.lots[l.slot].bin = some b)
include hr hl hb

/-- The drop of a record whose lot has a bin, with room in the table: a slot in a free place, due as R120 gives (R111; log 27). -/
theorem planDrop_room (room : s.sched.slots.length < 32 ∧ plainCount s.sched.slots < 28) :
    let q := dropPos s (r.stackerLead.getD 0#32) b
    ∃ place, (∀ y ∈ s.sched.slots, y.place ≠ place) ∧
      planDrop tag s =
        { (s.modPiece tag fun o => { o with bin := some b }).modPiece tag
            fun o => { o with actions := o.actions ++ [place] } with
          sched :=
            { s.sched with
              slots :=
                insertSlot s.line.p
                  { place := place, pos := q, action := .drop, drive := .bf b, tags := [tag], passed := false }
                  s.sched.slots }
          due := dueAfterMaking place q s } := by
  refine ⟨freePlace s.sched.slots 32 0, freePlace_free room.1 0, ?_⟩
  have hroom : hasRoom (s.modPiece tag fun o => { o with bin := some b }).sched.slots .drop = true :=
    (hasRoom_drop s.sched.slots).2 room
  simp only [planDrop, hr, hl, Option.bind_some, hb, makeSlot, hroom, if_true]
  rfl

/-- With no room for its drop a record is lost at the stacker (R107). -/
theorem planDrop_full (room : ¬(s.sched.slots.length < 32 ∧ plainCount s.sched.slots < 28)) :
    planDrop tag s =
      complete tag .lost (some .fold)
        (latchFault .noSlot
          ((s.modPiece tag fun o => { o with bin := some b }).modPiece tag
            fun o => { o with reason := some (o.reason.getD .slotFull) })) := by
  have hroom : hasRoom (s.modPiece tag fun o => { o with bin := some b }).sched.slots .drop = false :=
    Bool.eq_false_iff.2 fun h => room ((hasRoom_drop s.sched.slots).1 h)
  simp only [planDrop, hr, hl, Option.bind_some, hb, makeSlot, hroom, Bool.false_eq_true, if_false, lostForSlot, takeReason_eq]

end

/-- The records that an edge at the stacker matches: those of the FOLD zone that expect it there (R90). -/
def stackerRow (c : Pos) (s : State) : List Nat :=
  s.select s.track.foldZone fun r => expectsStacker r && inWindow s.prog.settings .fold r c

theorem leadStacker_none {c : Pos} {s : State} (h : stackerRow c s = []) :
    leadStacker c s = latchFault .strayStack (notice 48 c s) := by
  simp only [leadStacker, show s.select _ _ = [] from h]

theorem leadStacker_row {c : Pos} {s : State} (h : stackerRow c s ≠ []) :
    leadStacker c s = (stackerRow c s).foldl (matchStacker c) s := by
  unfold leadStacker
  split
  · next hn => exact absurd hn h
  · rfl

/-- Only records that are FOLDING are matched at the stacker (R89). -/
theorem stackerRow_of_noFolding (c : Pos) {s : State} (h : ∀ r ∈ s.track.pool, r.state ≠ .folding) : stackerRow c s = [] :=
  select_none fun u _ o ho => by
    have := h o (piece?_some ho).1
    simp [expectsStacker, this]

/-- Settles O41: an edge at the exit goes to the first record that takes it, in the order of R79, R85, R86, R87, and one at K to
every record that expects it. -/
theorem eyeAcceptanceReportsItsLeadingEdge : Obligations.EyeAcceptanceReportsItsLeadingEdge := by
  refine ⟨fun e s hp => ⟨fun hd => ?_, fun hd hst hc => ?_⟩,
    fun w c s pool => ⟨?_, fun closed => ⟨?_, fun habs => ⟨?_, fun hm => ⟨?_, ?_⟩⟩⟩⟩,
    fun c s pool => ⟨⟨?_, ?_⟩, fun tag r hr => ?_⟩⟩
  · rw [exec_eyeAccept hp, if_neg (by simp [hd])]
  · intro u v
    have hv : leadingEdge e (s.eye e).cLead u = v := by cases e <;> rfl
    have accepted : exec (.eyeAccept e) s = .next (settleHeld v) := by
      rw [exec_eyeAccept hp, if_pos (by simp [hd, acceptStands, hst, hc]), ← hv]
      rfl
    refine ⟨⟨settleHeld v, accepted, settleHeld_settled v, fun hh => settleHeld_nil hh⟩, ?_⟩
    rintro rfl hh hfold
    have stray : v = latchFault .strayStack (notice 48 (s.eye .k).cLead u) :=
      leadStacker_none (stackerRow_of_noFolding _ (s := u) hfold)
    have held : v.heldExpiry = [] := by
      rw [stray]
      exact ((notice_kept 48 _ u).trans (latchFault_kept .strayStack _)).heldExpiry.trans hh
    rw [accepted, settleHeld_nil held, stray]
  · rw [← closeExitLane_eq]
    exact leadExit_closes w c s
  · intro tag r before after hl hr hb ha
    obtain ⟨rest, h⟩ := select_first hl hr hb ha
    exact leadExit_absorbed closed h
  · intro tag r before after hl hr hb hw
    obtain ⟨rest, h⟩ := select_first hl hr hb hw
    exact ⟨_, leadExit_matched closed (select_none habs) h, moveRecord_track _ _ _ _,
      moveRecord_spec hr .fold
        (fun o => { o with state := .folding, exitLead := some c, exitSeen := o.exitSeen ||| laneBit w }) fun _ => rfl⟩
  · intro h
    have taken := exitStray_taken w c pool
    obtain ⟨given, joined⟩ := takeRecord_joined .fold (exitStray w c) s (fun _ _ => rfl) pool.counter pool.size
    have range := freeTag_range s.track.pool 64 s.track.tagCounter pool.counter
    obtain ⟨tags, takes⟩ := takeRecord_counters .fold (exitStray w c) s
    refine ⟨(takeRecord .fold (exitStray w c) s).2, (takeRecord .fold (exitStray w c) s).1, ?_, takeRecord_track _ _ _, given,
      takeRecord_pool _ _ _, joined, tags.trans (nextTag_eq _ range), takes⟩
    rw [leadExit_stray closed (select_none habs) (select_none hm) h, planExit_stray taken rfl]
  · exact leadExit_untracked closed (select_none habs) (select_none hm)
  · exact fun h => leadStacker_none h
  · exact fun h => leadStacker_row h
  · obtain ⟨T, hT⟩ : ∃ T, moveRecord tag .drop (fun o => { o with state := .dropping, stackerLead := some c }) s =
      { s with track := T } := ⟨_, moveRecord_track _ _ _ _⟩
    obtain ⟨mine, others, moved⟩ :=
      moveRecord_spec hr .drop (fun o => { o with state := .dropping, stackerLead := some c }) fun _ => rfl
    rw [hT] at mine others moved
    have planned : matchStacker c s tag = planDrop tag { s with track := T } := congrArg (planDrop tag) hT
    rw [planned]
    cases hbin : r.lot.bind fun l => s.lot.lots[l.slot].bin with
    | none =>
      refine ⟨{ s with track := T }, rfl, others, moved, fun hl => ⟨mine, planDrop_noLot mine hl⟩, fun l b hl hb => ?_⟩
      rw [hl, Option.bind_some, hb] at hbin
      cases hbin
    | some b₀ =>
      obtain ⟨l₀, hl₀, hb₀⟩ := Option.bind_eq_some_iff.1 hbin
      have binned (u : Nat) := piece?_modPiece { s with track := T } tag u (fun o => { o with bin := some b₀ }) fun _ => rfl
      refine ⟨State.modPiece { s with track := T } tag fun o => { o with bin := some b₀ }, rfl, fun u hu => ?_,
        ⟨moved.zones, moved.entry, moved.exit, moved.counters⟩, fun hl => absurd (hl₀.symm.trans hl) nofun,
        fun l b hl hb => ?_⟩
      · rw [binned, if_neg hu, others u hu]
      · obtain rfl : l₀ = l := Option.some.inj (hl₀.symm.trans hl)
        obtain rfl : b₀ = b := Option.some.inj (hb₀.symm.trans hb)
        refine ⟨by rw [binned, if_pos rfl, mine]; rfl, ?_⟩
        intro q room
        refine ⟨fun h => ?_, fun h => planDrop_full mine hl hb h⟩
        obtain ⟨place, free, drop⟩ := planDrop_room mine hl hb h
        rw [drop]
        refine ⟨place, free, insertSlot_perm _ _ _, ?_, fun d hd => ?_, rfl⟩
        · refine (mem_dueAfterMaking place q s _).trans ?_
          rw [firingAhead_iff]
          tauto
        · refine (mem_dueAfterMaking place q s d).trans ?_
          simp [hd]

end Sys2Proof.Machine

namespace Sys2Proof.Machine

open Sys2Proof

/-! ### A stack release that is asked for (R115) -/

/-- A stack release asked for bin b has to wait: one is held already, ESTOP is active, or the flap is open (R115). -/
def releaseWaits (s : State) (b : Bin) : Bool := s.sched.held[b] || s.inputs.estop || s.sched.out.bf[b].isSome

/-- The held release and the pulse of bin b once a stack release has been asked for (R115). -/
def releaseGiven (s : State) (b : Bin) : Bool × Option Nat :=
  if releaseWaits s b then (true, s.sched.out.sr[b])
  else (false, some (max (s.sched.out.sr[b].getD 0) (s.line.now + s.prog.settings.wSr)))

/-- An element of a table of bins after another has been set. -/
theorem set_get {α : Type} {n : Nat} (v : Vector α n) (i j : Fin n) (x : α) :
    (v.set i x)[j] = if i = j then x else v[j] := by
  simp [Vector.getElem_set, Fin.ext_iff]

/-- An element of a table that has been set, set again. -/
theorem set_set_get {α : Type} {n : Nat} {v w : Vector α n} {i : Fin n} {x : α} (h : w = v.set i x) (f : α → α) :
    w.set i (f w[i]) = v.set i (f x) := by
  subst h
  simp

/-- A release changes the held release and the pulse of its bin and stack counts, and nothing else (R115). -/
theorem releaseAsked_frame (s : State) (b : Bin) :
    s.releaseAsked b =
      { s with
        sched :=
          { s.sched with
            held := (s.releaseAsked b).sched.held
            out := { s.sched.out with sr := (s.releaseAsked b).sched.out.sr } }
        lot := (s.releaseAsked b).lot } := by
  unfold State.releaseAsked State.releaseStarted
  split
  · rfl
  · split <;> rfl

theorem releaseAsked_get (s : State) (b d : Bin) :
    (s.releaseAsked b).sched.held[d] = (if b = d then (releaseGiven s b).1 else s.sched.held[d]) ∧
      (s.releaseAsked b).sched.out.sr[d] = if b = d then (releaseGiven s b).2 else s.sched.out.sr[d] := by
  have sr : s.sched.out.sr[d] = if b = d then s.sched.out.sr[b] else s.sched.out.sr[d] := by
    split
    · next e => rw [e]
    · rfl
  unfold State.releaseAsked
  split
  · next h =>
    have waits : releaseWaits s b = true := by simp only [releaseWaits, h, Bool.true_or]
    rw [releaseGiven, if_pos waits]
    refine ⟨?_, sr⟩
    split
    · next e => exact e ▸ h
    · rfl
  · next h =>
    split
    · next hw =>
      have waits : releaseWaits s b = true := by simpa [releaseWaits, or_assoc] using Or.inr hw
      rw [releaseGiven, if_pos waits]
      exact ⟨set_get _ _ _ _, sr⟩
    · next hw =>
      have waits : ¬releaseWaits s b = true := by
        simp only [releaseWaits, Bool.or_eq_true, or_assoc]
        exact not_or.2 ⟨h, hw⟩
      rw [releaseGiven, if_neg waits]
      exact ⟨set_get _ _ _ _, set_get _ _ _ _⟩

theorem releaseAsked_lots {s : State} {b : Bin} {i : LotSlot} (h : s.lot.bins[b] = some i) :
    ∃ n, (s.releaseAsked b).lot.lots = s.lot.lots.set i { s.lot.lots[i] with stackCount := n } := by
  have same : s.lot.lots = s.lot.lots.set i { s.lot.lots[i] with stackCount := s.lot.lots[i].stackCount } :=
    (Vector.set_getElem_self _).symm
  unfold State.releaseAsked State.releaseStarted
  split
  · exact ⟨_, same⟩
  · split
    · exact ⟨_, same⟩
    · exact ⟨0, by rw [h]⟩

/-! ### A lot unbound from its bin (R138) -/

/-- The lot of a bin after its unbinding: no bin and no stack, whether or not a release was asked for (R138). -/
theorem unbound_lot {s : State} {i : LotSlot} {b : Bin} (h : s.lot.bins[b] = some i) :
    (s.unbound i b).lot =
      { lots := s.lot.lots.set i { s.lot.lots[i] with stackCount := 0, bin := none }, bins := s.lot.bins.set b none } := by
  unfold State.unbound
  dsimp only
  split
  · rfl
  · obtain ⟨n, hn⟩ := releaseAsked_lots h
    exact congrArg (LotUnit.mk · _) (set_set_get hn fun l => { l with stackCount := 0, bin := none })

/-- Of the outputs an unbinding changes the pulse of its bin alone, and beside it the held release. -/
theorem unbound_frame (s : State) (i : LotSlot) (b : Bin) :
    s.unbound i b =
      { s with
        sched :=
          { s.sched with
            held := (s.unbound i b).sched.held
            out := { s.sched.out with sr := (s.unbound i b).sched.out.sr } }
        lot := (s.unbound i b).lot } := by
  unfold State.unbound
  dsimp only
  split
  · rfl
  · rw [releaseAsked_frame]

theorem unbound_get (s : State) (i : LotSlot) (b d : Bin) :
    (s.unbound i b).sched.held[d] =
        (if b = d ∧ 0 < s.lot.lots[i].stackCount then (releaseGiven s b).1 else s.sched.held[d]) ∧
      (s.unbound i b).sched.out.sr[d] =
        if b = d ∧ 0 < s.lot.lots[i].stackCount then (releaseGiven s b).2 else s.sched.out.sr[d] := by
  unfold State.unbound
  dsimp only
  split
  · next hc =>
    have none_ : ¬(b = d ∧ 0 < s.lot.lots[i].stackCount) := fun h => by omega
    exact ⟨(if_neg none_).symm, (if_neg none_).symm⟩
  · next hc =>
    simp only [Nat.pos_of_ne_zero hc, and_true]
    exact releaseAsked_get s b d

/-! ### The bins that leave use (R142) -/

/-- Lots and bins agree (R130). -/
def BinsAgree (s : State) : Prop := ∀ (i : LotSlot) (b : Bin), s.lot.lots[i].bin = some b ↔ s.lot.bins[b] = some i

/-- Only the lots, the outputs and the log differ. -/
def SameButLots (s t : State) : Prop := t = { s with sched := t.sched, lot := t.lot, log := t.log }

/-- Only the lots and, of the scheduler, the held releases and the pulses of the stack releases differ. -/
def SameButReleases (s t : State) : Prop :=
  t =
    { s with
      sched := { s.sched with held := t.sched.held, out := { s.sched.out with sr := t.sched.out.sr } }
      lot := t.lot }

theorem SameButReleases.trans {s t u : State} (h : SameButReleases s t) (k : SameButReleases t u) : SameButReleases s u := by
  unfold SameButReleases at h k ⊢
  rw [k, h]

theorem SameButLots.trans {s t u : State} (h : SameButLots s t) (k : SameButLots t u) : SameButLots s u := by
  unfold SameButLots at h k ⊢
  rw [k, h]

theorem SameButReleases.log {s t : State} (h : SameButReleases s t) : t.log = s.log := by rw [h]

theorem SameButReleases.sched {s t : State} (h : SameButReleases s t) :
    t.sched = { s.sched with held := t.sched.held, out := { s.sched.out with sr := t.sched.out.sr } } := by
  conv_lhs => rw [h]

theorem requestSummary_sameButLots (i : LotSlot) (s : State) : SameButLots s (requestSummary i s) := by
  unfold requestSummary
  split <;> rfl

/-- A summary asked for leaves every lot's bin, given that its own has none (R140). -/
theorem requestSummary_bins {i : LotSlot} {s : State} (h : s.lot.lots[i].bin = none) :
    (requestSummary i s).lot.bins = s.lot.bins ∧ ∀ j : LotSlot, (requestSummary i s).lot.lots[j].bin = s.lot.lots[j].bin := by
  have get (f : Lot → Lot) (hf : (f s.lot.lots[i]).bin = none) (j : LotSlot) :
      (vmod s.lot.lots i f)[j].bin = s.lot.lots[j].bin := by
    rw [vmod_get]
    split
    · next e => rw [← e, h, hf]
    · rfl
  unfold requestSummary
  split
  · exact ⟨rfl, get (fun _ => Lot.free) rfl⟩
  · exact ⟨rfl, get (fun l => { l with summaryPending := true }) h⟩

/-- A bin that stays in use, and one that is free, is left (R142). -/
theorem leaveBin_stays {s : State} {b : Bin} (h : b.val < s.prog.settings.binsEnabled ∨ s.lot.bins[b] = none) :
    leaveBin s b = s := by
  unfold leaveBin
  split
  · rfl
  · next hb => rw [h.resolve_left hb]

/-- The lot of a bin that leaves use is unbound, and a close that has nothing in flight ends (R142; log 26). -/
theorem leaveBin_leaves {s : State} {b : Bin} {i : LotSlot} (hb : s.prog.settings.binsEnabled ≤ b.val)
    (hi : s.lot.bins[b] = some i) (ha : s.lot.lots[i].bin = some b) :
    leaveBin s b =
      if s.lot.lots[i].state = .closing ∧ s.lot.lots[i].inFlight = 0 ∧ s.lot.lots[i].summaryPending = false then
        requestSummary i (s.unbound i b)
      else s.unbound i b := by
  rw [← unbindLot_eq i b s ha]
  simp only [leaveBin, Nat.not_lt.2 hb, if_false, hi]

theorem leaveBin_sameButLots (s : State) (b : Bin) : SameButLots s (leaveBin s b) := by
  unfold leaveBin
  split
  · rfl
  · split
    · rfl
    · next i hi =>
      have unbound : SameButLots s (unbindLot i s) := by
        cases hb : s.lot.lots[i].bin with
        | none => simp only [unbindLot, hb]; rfl
        | some d =>
          rw [unbindLot_eq i d s hb]
          unfold SameButLots
          rw [unbound_frame]
      dsimp only
      split
      · exact unbound.trans (requestSummary_sameButLots i _)
      · exact unbound

theorem leaveBins_sameButLots (l : List Bin) (s : State) : SameButLots s (l.foldl leaveBin s) := by
  induction l generalizing s with
  | nil => rfl
  | cons b l ih => exact (leaveBin_sameButLots s b).trans (ih _)

/-- A bin that leaves use is free, the others are as before, and lots and bins still agree (R130, R142). -/
theorem leaveBin_agree {s : State} (h : BinsAgree s) (b : Bin) :
    BinsAgree (leaveBin s b) ∧
      ∀ d, (leaveBin s b).lot.bins[d] = if d = b ∧ s.prog.settings.binsEnabled ≤ b.val then none else s.lot.bins[d] := by
  by_cases hb : b.val < s.prog.settings.binsEnabled ∨ s.lot.bins[b] = none
  · rw [leaveBin_stays hb]
    refine ⟨h, fun d => ?_⟩
    split
    · next hd => rw [hd.1]; exact hb.resolve_left (Nat.not_lt.2 hd.2)
    · rfl
  · obtain ⟨hb, hn⟩ := not_or.1 hb
    obtain ⟨i, hi⟩ := Option.ne_none_iff_exists'.1 hn
    have ha : s.lot.lots[i].bin = some b := (h i b).2 hi
    have lot := unbound_lot hi
    have bins : (leaveBin s b).lot.bins = s.lot.bins.set b none ∧
        ∀ j : LotSlot, (leaveBin s b).lot.lots[j].bin = if i = j then none else s.lot.lots[j].bin := by
      have lots (j : LotSlot) : (s.unbound i b).lot.lots[j].bin = if i = j then none else s.lot.lots[j].bin := by
        rw [lot, set_get]
        split <;> rfl
      rw [leaveBin_leaves (Nat.not_lt.1 hb) hi ha]
      split
      · obtain ⟨b', l'⟩ := requestSummary_bins (s := s.unbound i b) (i := i) (by rw [lots, if_pos rfl])
        exact ⟨by rw [b', lot], fun j => by rw [l', lots]⟩
      · exact ⟨by rw [lot], lots⟩
    obtain ⟨hbins, hlots⟩ := bins
    have get (d : Bin) : (leaveBin s b).lot.bins[d] = if b = d then none else s.lot.bins[d] := by rw [hbins, set_get]
    refine ⟨fun j d => ?_, fun d => ?_⟩
    · rw [get, hlots]
      by_cases e : i = j
      · subst e
        rw [if_pos rfl]
        refine iff_of_false nofun fun hd => ?_
        by_cases g : b = d
        · rw [if_pos g] at hd
          cases hd
        · rw [if_neg g, ← h i d, ha] at hd
          exact g (Option.some.inj hd)
      · rw [if_neg e, h j d]
        by_cases g : b = d
        · subst g
          rw [if_pos rfl, hi]
          exact iff_of_false (fun hd => e (Option.some.inj hd)) nofun
        · rw [if_neg g]
    · rw [get]
      simp [Nat.not_lt.1 hb, eq_comm]

/-- After all bins are gone through those out of use are free (R142). -/
theorem leaveBins_free {s : State} (h : BinsAgree s) (l : List Bin) (b : Bin) (hb : s.prog.settings.binsEnabled ≤ b.val)
    (hl : b ∈ l ∨ s.lot.bins[b] = none) : (l.foldl leaveBin s).lot.bins[b] = none := by
  induction l generalizing s with
  | nil => simpa using hl
  | cons d l ih =>
    obtain ⟨agree, bins⟩ := leaveBin_agree h d
    have same : (leaveBin s d).prog = s.prog := by rw [leaveBin_sameButLots s d]
    refine ih agree (by rw [same]; exact hb) ?_
    rw [bins]
    by_cases e : b = d
    · subst e
      exact .inr (if_pos ⟨rfl, hb⟩)
    · rw [if_neg fun h => e h.1]
      exact hl.imp_left fun h => (List.mem_cons.1 h).resolve_left e

/-- A stack release falls due for a bin that leaves use (R138). -/
def AskedFor (s : State) (b : Bin) : Prop :=
  s.prog.settings.binsEnabled ≤ b.val ∧ ∃ i : LotSlot, s.lot.bins[b] = some i ∧ 0 < s.lot.lots[i].stackCount

/-- The bins of a list have been gone through, from s to t: the lots of those out of use are unbound, each with its stack release,
and nothing else has changed (R138, R142). -/
structure BinsLeft (l : List Bin) (s t : State) : Prop where
  bins : ∀ b, t.lot.bins[b] = if b ∈ l ∧ s.prog.settings.binsEnabled ≤ b.val then none else s.lot.bins[b]
  unbound : ∀ (i : LotSlot) (b : Bin), s.lot.lots[i].bin = some b → b ∈ l → s.prog.settings.binsEnabled ≤ b.val →
    t.lot.lots[i] = { s.lot.lots[i] with bin := none, stackCount := 0 }
  kept : ∀ i : LotSlot, (∀ b, s.lot.lots[i].bin = some b → b ∈ l → b.val < s.prog.settings.binsEnabled) →
    t.lot.lots[i] = s.lot.lots[i]
  asked : ∀ b ∈ l, AskedFor s b → (t.sched.held[b], t.sched.out.sr[b]) = releaseGiven s b
  notAsked : ∀ b, (b ∈ l → ¬AskedFor s b) → t.sched.held[b] = s.sched.held[b] ∧ t.sched.out.sr[b] = s.sched.out.sr[b]
  rest : SameButReleases s t

/-- A close that would end at its unbinding: a bound CLOSING lot without a piece in flight, which no run reaches (R140). -/
def NoIdleClose (s : State) : Prop :=
  ∀ i : LotSlot, s.lot.lots[i].state = .closing → s.lot.lots[i].bin.isSome → 0 < s.lot.lots[i].inFlight

theorem BinsLeft.nil (s : State) : BinsLeft [] s s where
  bins _ := (if_neg fun h => List.not_mem_nil h.1).symm
  unbound _ _ _ h := absurd h List.not_mem_nil
  kept _ _ := rfl
  asked _ h := absurd h List.not_mem_nil
  notAsked _ _ := ⟨rfl, rfl⟩
  rest := rfl

theorem BinsLeft.prog_eq {s t : State} {l : List Bin} (h : BinsLeft l s t) : t.prog = s.prog := by rw [h.rest]

theorem mem_snoc {α : Type} (d b : α) (l : List α) : d ∈ l ++ [b] ↔ d ∈ l ∨ d = b := by
  rw [List.mem_append, List.mem_singleton]

section
variable {s t : State} {l : List Bin} {b : Bin} (h : BinsLeft l s t) (agree : BinsAgree s) (hb : b ∉ l)
include h hb

/-- A bin that is gone through is as it was until then. -/
theorem BinsLeft.bin_next : t.lot.bins[b] = s.lot.bins[b] := (h.bins b).trans (if_neg fun g => hb g.1)

include agree

/-- One bin more is gone through: a lot in a bin out of use is unbound (R138, R142). -/
theorem BinsLeft.snoc_leaves (busy : NoIdleClose s) {i : LotSlot} (he : s.prog.settings.binsEnabled ≤ b.val)
    (hi : s.lot.bins[b] = some i) : BinsLeft (l ++ [b]) s (leaveBin t b) := by
  have settings := h.prog_eq
  have bin := h.bin_next hb
  have mem (d : Bin) := mem_snoc d b l
  have ha : s.lot.lots[i].bin = some b := (agree i b).2 hi
  have same : t.lot.lots[i] = s.lot.lots[i] :=
    h.kept i fun d hd hm => absurd (Option.some.inj (ha.symm.trans hd) ▸ hm) hb
  have only {j : LotSlot} (hj : s.lot.lots[j].bin = some b) : i = j :=
    Option.some.inj (hi.symm.trans ((agree j b).1 hj))
  have leaves : leaveBin t b = t.unbound i b := by
    rw [leaveBin_leaves (by rw [settings]; exact he) (bin.trans hi) (by rw [same]; exact ha), same]
    refine if_neg fun g => ?_
    have := busy i g.1 (by rw [ha]; rfl)
    omega
  have lot := unbound_lot (bin.trans hi)
  have lots (j : LotSlot) : (t.unbound i b).lot.lots[j] =
      if i = j then { s.lot.lots[i] with bin := none, stackCount := 0 } else t.lot.lots[j] := by
    rw [lot, set_get, same]
  have given : releaseGiven t b = releaseGiven s b := by
    obtain ⟨held, sr⟩ := h.notAsked b fun g => absurd g hb
    unfold releaseGiven releaseWaits
    rw [held, sr, h.rest]
  have asked : AskedFor s b ↔ 0 < t.lot.lots[i].stackCount := by
    rw [same]
    exact ⟨fun ⟨_, j, hj, g⟩ => Option.some.inj (hi.symm.trans hj) ▸ g, fun g => ⟨he, i, hi, g⟩⟩
  rw [leaves]
  refine ⟨fun d => ?_, fun j d hd hm ho => ?_, fun j hk => ?_, fun d hm hd => ?_, fun d hd => ?_, ?_⟩
  · rw [lot, set_get, h.bins d]
    simp only [mem]
    by_cases e : b = d
    · subst e
      rw [if_pos rfl, if_pos ⟨.inr rfl, he⟩]
    · simp only [if_neg e, Ne.symm e, or_false]
  · rw [lots]
    by_cases e : i = j
    · rw [if_pos e, e]
    · rw [if_neg e]
      refine h.unbound j d hd (((mem d).1 hm).resolve_right fun g => e (only (g ▸ hd))) ho
  · rw [lots, if_neg]
    · exact h.kept j fun d hd hm => hk d hd ((mem d).2 (.inl hm))
    · rintro rfl
      exact absurd he (Nat.not_le.2 (hk b ha ((mem b).2 (.inr rfl))))
  · obtain ⟨held, sr⟩ := unbound_get t i b d
    by_cases e : b = d
    · subst e
      rw [if_pos ⟨rfl, asked.1 hd⟩] at held sr
      rw [held, sr, given]
    · rw [if_neg fun g => e g.1] at held sr
      rw [held, sr]
      exact h.asked d (((mem d).1 hm).resolve_right (Ne.symm e)) hd
  · obtain ⟨held, sr⟩ := unbound_get t i b d
    have quiet : ¬(b = d ∧ 0 < t.lot.lots[i].stackCount) := by
      rintro ⟨rfl, g⟩
      exact hd ((mem b).2 (.inr rfl)) (asked.2 g)
    rw [if_neg quiet] at held sr
    obtain ⟨held', sr'⟩ := h.notAsked d fun g => hd ((mem d).2 (.inl g))
    exact ⟨held.trans held', sr.trans sr'⟩
  · exact h.rest.trans (unbound_frame t i b)

/-- One bin more is gone through: one that stays in use, or is free, is left. -/
theorem BinsLeft.snoc_stays (free : s.prog.settings.binsEnabled ≤ b.val → s.lot.bins[b] = none) :
    BinsLeft (l ++ [b]) s (leaveBin t b) := by
  have settings := h.prog_eq
  have bin := h.bin_next hb
  have mem (d : Bin) := mem_snoc d b l
  have stays : leaveBin t b = t := by
    refine leaveBin_stays ?_
    rw [settings, bin]
    exact (Nat.lt_or_ge _ _).imp_right free
  rw [stays]
  refine ⟨fun d => ?_, fun i d hd hm he => ?_, fun i hk => ?_, fun d hm hd => ?_, fun d hd => ?_, h.rest⟩
  · by_cases e : d = b
    · subst e
      rw [bin]
      split
      · next g => exact free g.2
      · rfl
    · rw [h.bins d]
      simp only [mem, e, or_false]
  · refine h.unbound i d hd (((mem d).1 hm).resolve_right ?_) he
    rintro rfl
    exact absurd ((agree i d).1 hd) (by rw [free he]; nofun)
  · exact h.kept i fun d hd hm => hk d hd ((mem d).2 (.inl hm))
  · refine h.asked d (((mem d).1 hm).resolve_right ?_) hd
    rintro rfl
    obtain ⟨he, i, hi, -⟩ := hd
    exact absurd hi (by rw [free he]; nofun)
  · exact h.notAsked d fun hm => hd ((mem d).2 (.inl hm))

/-- One bin more is gone through. -/
theorem BinsLeft.snoc (busy : NoIdleClose s) : BinsLeft (l ++ [b]) s (leaveBin t b) := by
  cases hi : s.lot.bins[b] with
  | none => exact h.snoc_stays agree hb fun _ => hi
  | some i =>
    by_cases he : s.prog.settings.binsEnabled ≤ b.val
    · exact h.snoc_leaves agree hb busy he hi
    · exact h.snoc_stays agree hb fun g => absurd g he

end

/-- All bins gone through (R142). -/
theorem leaveBins_left {s : State} (agree : BinsAgree s) (busy : NoIdleClose s) :
    BinsLeft allBins s (allBins.foldl leaveBin s) := by
  have go (rest done : List Bin) (t : State) (h : BinsLeft done s t) (hn : (done ++ rest).Nodup) :
      BinsLeft (done ++ rest) s (rest.foldl leaveBin t) := by
    induction rest generalizing done t with
    | nil => rwa [List.append_nil]
    | cons b rest ih =>
      have hb : b ∉ done := fun g => (List.nodup_append.1 hn).2.2 b g b List.mem_cons_self rfl
      rw [List.append_cons] at hn ⊢
      exact ih (done ++ [b]) (leaveBin t b) (h.snoc agree hb busy) hn
  exact go allBins [] s (BinsLeft.nil s) (by decide)

end Sys2Proof.Machine

namespace Sys2Proof.Machine

open Sys2Proof

/-! ### The eyes after a change of the lane enable set (R17) -/

theorem modEye_id (s : State) (e : Eye) : (s.modEye e fun x => x) = s := by
  have : vmod s.eyes (eyeIx e) (fun x => x) = s.eyes := Vector.set_getElem_self _
  rw [State.modEye, this]

/-- An eye after a write of the settings c over those of the lane set `old`: as it was, unless its lane is newly enabled or newly
disabled (R17). -/
def eyeAfterWrite (old : LaneSet) (c : LineSettings) (l : LineUnit) (e : Eye) (x : EyeRec) : EyeRec :=
  if eyeEnabled old e = eyeEnabled c.lanes e then x else eyeTakenUp c.lanes l e x

theorem laneChange_eq (old : LaneSet) (s : State) (e : Eye) :
    laneChange old s e = s.modEye e (eyeAfterWrite old s.prog.settings s.line e) := by
  unfold laneChange eyeAfterWrite
  dsimp only
  split
  · rw [modEye_id]
  · exact takeUp_eq e s

theorem laneChanges_eq (old : LaneSet) (s : State) :
    ∃ u, allEyes.foldl (laneChange old) s = { s with eyes := u } ∧
      ∀ e, u[eyeIx e] = eyeAfterWrite old s.prog.settings s.line e (s.eye e) :=
  allEyes_foldl fun v e => laneChange_eq old { s with eyes := v } e

/-! ### LINE SETTINGS WRITE (R153) -/

/-- The record c in force, with the eyes u, before any bin leaves use (R17, R153). -/
def inForce (c : LineSettings) (u : Vector EyeRec 9) (s : State) : State :=
  { s with eyes := u, prog := { s.prog with settings := c, valid := true } }

/-- The store write of the record c asked for (R155). -/
def storeAsked (c : LineSettings) (replies : Bool) (s : State) : State :=
  { s with prog := { s.prog with queue := s.prog.queue ++ [{ record := .settings c, replies := replies }] } }

/-- A settings record put in force: the eyes of lanes that change, the bins that leave use with an examination, and the store
write (R17, R142, R153). -/
theorem putSettings_eq (c : LineSettings) (replies : Bool) (s : State) :
    ∃ u, (∀ e, u[eyeIx e] = eyeAfterWrite s.prog.settings.lanes c s.line e (s.eye e)) ∧
      putSettings c replies s =
        storeAsked c replies
          (if c.binsEnabled < s.prog.settings.binsEnabled then examine (allBins.foldl leaveBin (inForce c u s))
          else inForce c u s) := by
  obtain ⟨u, hu, hget⟩ := laneChanges_eq s.prog.settings.lanes { s with prog := { s.prog with settings := c, valid := true } }
  refine ⟨u, hget, ?_⟩
  simp only [putSettings, hu, reduceBins]
  rfl

section
variable {s : State} {addr : Byte} {body : List Byte} (h : Takes s addr) (hb : body.length = 83)
include h hb

/-- The refusals of LINE SETTINGS WRITE (R153). -/
theorem settingsWrite_refused {why : RefuseReason}
    (ho : settingsWriteOwner body (s.received addr 0x32 body) = (s.received addr 0x32 body, .refuse why)) :
    exec (.lineSettingsWrite addr body) s = .next (s.turnedAway addr 0x32 body why) := by
  have fits : lengthFits 0x32 body.length = true := by rw [hb]; rfl
  exact congrArg _ (takeFrame_refuse h (by omega) rfl fits ho)

/-- LINE SETTINGS WRITE accepted: the record is put in force, and the reply waits for its store write (R153, R175). -/
theorem settingsWrite_accepted {c : LineSettings}
    (ho : settingsWriteOwner body (s.received addr 0x32 body) =
      (putSettings c (!s.link.quiet) (s.received addr 0x32 body), .afterStore [])) :
    exec (.lineSettingsWrite addr body) s =
      .next
        (owe 0x32 (.afterStore []) (putSettings c (!s.link.quiet) (s.received addr 0x32 body))) := by
  have fits : lengthFits 0x32 body.length = true := by rw [hb]; rfl
  show Host.Outcome.next (takeFrame addr 0x32 body s) = _
  rw [takeFrame_takes h 0x32 body (by omega), carryOut_fits _ _ rfl fits, ownerOf_settingsWrite, ho]

end

theorem settingsWriteOwner_setup {s : State} {body : List Byte} (hk : s.inputs.key = .setup) (hf : s.seq.feed = .off)
    (hp : s.track.pool = []) :
    settingsWriteOwner body s =
      (readSettings body).elim (s, .refuse .badValue) fun c => (putSettings c (!s.link.quiet) s, .afterStore []) := by
  cases h : readSettings body <;> simp [settingsWriteOwner, hk, hf, hp, h]

/-- The state after an accepted write, once the bins and the stations have been dealt with as in v: the record in force, its store
write asked for, and the reply that waits for it owed (R153, R155, R175). -/
def settingsWritten (c : LineSettings) (r v : State) : State :=
  { v with
    prog :=
      { r.prog with
        settings := c, valid := true, queue := r.prog.queue ++ [{ record := .settings c, replies := !r.link.quiet }] }
    link :=
      { r.link with owed := if r.link.quiet then none else some { code := 0x32, body := [], awaitsStore := true } } }

theorem owe_storeAsked {c : LineSettings} {u : Vector EyeRec 9} {r v : State} (ho : r.link.owed = none)
    (hp : v.prog = (inForce c u r).prog) (hl : v.link = r.link) :
    owe 0x32 (.afterStore []) (storeAsked c (!r.link.quiet) v) = settingsWritten c r v := by
  rw [owe, storeAsked, settingsWritten, hp]
  dsimp only
  rw [hl]
  split
  · rw [← ho, ← hl]
    rfl
  · rfl

/-- The state s after the bins have been gone through as in w, with the feed OFF: the examination gives each LOADED station its
reason and ages the tails (R43, R46). -/
def binsReduced (s w : State) : State :=
  { s with
    sched := w.sched, lot := w.lot, log := w.log
    seq := { s.seq with mark := s.line.p, tails := (ageTails s).seq.tails }
    stations := s.stations.map fun x => if x.state = .loaded then { x with waitReason := .feedState } else x }

theorem examine_leaveBins {s : State} (hf : s.seq.feed = .off) :
    examine (allBins.foldl leaveBin s) = binsReduced s (allBins.foldl leaveBin s) := by
  have same := leaveBins_sameButLots allBins s
  generalize allBins.foldl leaveBin s = w at same
  have feed : w.seq.feed ≠ .run := by rw [same]; rw [hf]; nofun
  rw [examine_outside_run feed]
  rw [same]
  rfl

section
variable {s t : State} (left : BinsLeft allBins s t)
include left

/-- A stack release that can start has started (R115). -/
theorem BinsLeft.started {b : Bin} (ha : AskedFor s b) (hw : ¬releaseWaits s b = true) :
    t.sched.held[b] = false ∧ t.sched.out.sr[b] = some (max (s.sched.out.sr[b].getD 0) (s.line.now + s.prog.settings.wSr)) := by
  have given := left.asked b (mem_allBins b) ha
  rw [releaseGiven, if_neg hw] at given
  exact Prod.mk.inj given

/-- A stack release that has to wait is held (R115). -/
theorem BinsLeft.holds {b : Bin} (ha : AskedFor s b) (hw : releaseWaits s b = true) :
    t.sched.held[b] = true ∧ t.sched.out.sr[b] = s.sched.out.sr[b] := by
  have given := left.asked b (mem_allBins b) ha
  rw [releaseGiven, if_pos hw] at given
  exact Prod.mk.inj given

end

/-- What a release has to wait for, one by one. -/
theorem releaseWaits_iff (s : State) (b : Bin) :
    releaseWaits s b = true ↔ s.sched.held[b] = true ∨ s.inputs.estop = true ∨ s.sched.out.bf[b].isSome = true := by
  rw [releaseWaits, Bool.or_eq_true, Bool.or_eq_true, or_assoc]

/-- Settles O24, by the bins gone through one after another (`BinsLeft`) and the examination that follows them. -/
theorem settingsWritePutsARecordInForce : Obligations.SettingsWritePutsARecordInForce := by
  intro addr body s h hb
  let r := s.received addr 0x32 body
  refine ⟨fun hk => ?_, fun hk => ⟨fun hs => ?_, fun hf hp => ?_⟩⟩
  · exact settingsWrite_refused h hb (if_pos hk)
  · have key : ¬r.inputs.key = .run := by show ¬s.inputs.key = .run; rw [hk]; nofun
    exact settingsWrite_refused h hb ((if_neg key).trans (if_pos hs))
  have owner := settingsWriteOwner_setup (s := r) (body := body) hk hf hp
  refine ⟨fun hn => settingsWrite_refused h hb (by rw [owner, hn]; rfl), fun c hc => ?_⟩
  obtain ⟨u, hget, hput⟩ := putSettings_eq c (!s.link.quiet) r
  have hx := settingsWrite_accepted h hb (c := c) (by rw [owner, hc]; rfl)
  rw [hput] at hx
  by_cases lower : c.binsEnabled < r.prog.settings.binsEnabled
  · have agreeFree (agree : BinsAgree (inForce c u r)) (b : Bin) (hb : c.binsEnabled ≤ b.val) :=
      leaveBins_free agree allBins b hb (.inl (mem_allBins b))
    have left := leaveBins_left (s := inForce c u r)
    rw [if_pos lower, examine_leaveBins (s := inForce c u r) hf] at hx
    generalize allBins.foldl leaveBin (inForce c u r) = w at hx agreeFree left
    refine ⟨settingsWritten c r (binsReduced (inForce c u r) w), hx.trans ?_, rfl, rfl, hget, rfl, rfl, rfl, hf, rfl,
      fun higher => absurd lower (Nat.not_lt.2 higher), fun _ agree => ⟨agreeFree agree, fun busy => ?_⟩⟩
    · exact congrArg _ (owe_storeAsked (r := r) (u := u) h.2.2.2 rfl rfl)
    have left := left agree busy
    intro asked waits
    refine ⟨fun b => ?_,
      fun i => ⟨fun b hb he => left.unbound i b hb (mem_allBins b) he, fun hk => left.kept i fun b hb _ => hk b hb⟩,
      fun b => ⟨fun ha hh hw => left.started ha ?_, fun ha hw => left.holds ha ((releaseWaits_iff _ b).2 hw),
        fun ha => left.notAsked b fun _ => ha⟩,
      fun k => Vector.getElem_map _ _, fun l => ?_, ?_⟩
    · refine (left.bins b).trans (if_congr ?_ rfl rfl)
      exact and_iff_right (mem_allBins b)
    · rw [releaseWaits_iff]
      exact not_or.2 ⟨fun g => Bool.false_ne_true (hh.symm.trans g), hw⟩
    · refine (ageTails_get (inForce c u r) l).trans ?_
      show agedTail s.line.p s.seq.tails[l] = _
      cases s.seq.tails[l] <;> rfl
    · rw [settingsWritten, binsReduced, left.rest.log, left.rest.sched]
      rfl
  · rw [if_neg lower] at hx
    refine ⟨settingsWritten c r (inForce c u r), hx.trans ?_, rfl, rfl, hget, rfl, rfl, rfl, hf, rfl, fun _ => rfl,
      fun g => absurd g lower⟩
    exact congrArg _ (owe_storeAsked (r := r) (u := u) h.2.2.2 rfl rfl)

end Sys2Proof.Machine

namespace Sys2Proof.Machine

open Sys2Proof

/-! ### The panel: the feed, the stop, the stations, the outputs and the latch -/

/-- What the stations, the feed, the stop, the outputs and the latch come to, with what the run conditions read of the line and of
the settings (R19, R35, R113, R163). -/
structure Panel where
  powered : Bool
  hist : Vector Int 4
  fullWindows : Nat
  stations : Vector Station 4
  key : KeyPos
  lineRun : Bool
  estop : Bool
  feed : FeedState
  out : Outputs
  settings : LineSettings
  valid : Bool
  latch : FaultLatch

/-- The panel of a state. -/
def State.panel (s : State) : Panel where
  powered := s.powered
  hist := s.line.hist
  fullWindows := s.line.fullWindows
  stations := s.stations
  key := s.inputs.key
  lineRun := s.inputs.lineRun
  estop := s.inputs.estop
  feed := s.seq.feed
  out := s.sched.out
  settings := s.prog.settings
  valid := s.prog.valid
  latch := s.latch

/-- A fold of operations that leave the panel alone leaves it alone. -/
theorem foldl_panel {α : Type} {f : State → α → State} (hf : ∀ s a, (f s a).panel = s.panel) (l : List α) (s : State) :
    (l.foldl f s).panel = s.panel := by
  induction l generalizing s with
  | nil => rfl
  | cons a l ih => exact (ih (f s a)).trans (hf s a)

/-! ### Operations that leave the panel alone -/

theorem notice_panel (code : Nat) (pos : Pos) (s : State) : (notice code pos s).panel = s.panel := by
  unfold notice
  split <;> rfl

theorem moveRecord_panel (tag : Nat) (z : Zone) (f : Piece → Piece) (s : State) : (moveRecord tag z f s).panel = s.panel := by
  unfold moveRecord
  dsimp only
  split <;> rfl

theorem makeSlot_panel {pos : Pos} {a : SlotAction} {d : Drive} {tag : Nat} {s t : State}
    (h : makeSlot pos a d tag s = some t) : t.panel = s.panel := by
  obtain ⟨place, rfl⟩ := makeSlot_some h
  rfl

theorem cancelSlots_panel (tag : Nat) (places : List Nat) (s : State) : (cancelSlots tag places s).panel = s.panel :=
  foldl_panel (f := fun s pl => cancelSlot tag pl s) (fun _ _ => rfl) places s

theorem removeSlot_panel (y : Slot) (s : State) : (removeSlot y s).panel = s.panel := by
  rw [removeSlot_eq]
  rfl

theorem moveSlot_panel (place : Nat) (pos : Pos) (s : State) : (moveSlot place pos s).panel = s.panel := by
  unfold moveSlot
  split <;> rfl

theorem refineSlot_panel (tag : Nat) (x : Pos) (len : Nat) (pr : ProgramRec) (s : State) (place : Nat) :
    (refineSlot tag x len pr s place).panel = s.panel := by
  unfold refineSlot
  split
  · split
    · split
      · exact moveSlot_panel _ _ _
      · rfl
    · rfl
  · rfl

theorem requestSummary_panel (i : LotSlot) (s : State) : (requestSummary i s).panel = s.panel := by
  unfold requestSummary
  split <;> rfl

theorem countPiece_panel (r : Piece) (k : CompletionKind) (s : State) : (countPiece r k s).panel = s.panel := by
  unfold countPiece
  rcases r.lot with _ | l <;> rcases r.program with _ | ix <;> rfl

theorem writeEstimate_panel (tag : Nat) (s : State) : (writeEstimate tag s).panel = s.panel := by
  unfold writeEstimate
  split
  · split <;> rfl
  · rfl

theorem owe_panel (code : Byte) (a : Answer) (s : State) : (owe code a s).panel = s.panel := by
  unfold owe
  split <;> rfl

theorem sendReply_panel (s : State) : (sendReply s).panel = s.panel := by
  unfold sendReply
  split
  · rfl
  · split
    · rfl
    · split <;> rfl

/-! ### What a command can do to the panel, act by act -/

/-- The run conditions that the line and the LINE RUN input give may differ from s to t, and nothing else of the panel does
(R35). -/
def Conditions (s t : State) : Prop :=
  ∃ hist windows lineRun, t.panel = { s.panel with hist := hist, fullWindows := windows, lineRun := lineRun }

/-- The acts that a command is made of, as far as they change the panel. -/
inductive Act : State → State → Prop
  /-- The panel is left alone. -/
  | still {s t : State} (h : t.panel = s.panel) : Act s t
  /-- A latch request (R39, R163). -/
  | latch (r : FaultReason) (s : State) : Act s (latchFault r s)
  /-- A pulse of a channel other than the REL outputs starts or is extended, with ESTOP inactive (R114, R115, R120). -/
  | pulse (f : Outputs → Outputs) (s : State) (stop : s.inputs.estop = false) (rel : (f s.sched.out).rel = s.sched.out.rel) :
      Act s (s.modOut f)
  /-- The pulse of a channel other than the REL outputs ends (R113). -/
  | pulseEnd (c : OutChannel) (s : State) : Act s (s.modOut (turnOff · c))
  /-- A station record changes within R19, and neither enters nor leaves RELEASING (R20, R24, R27, R30 to R32). -/
  | station (k : StationIx) (f : Station → Station) (s : State)
      (right : StationRight s.stations[k] → StationRight (f s.stations[k]))
      (rel : (f s.stations[k]).state = .releasing ↔ s.stations[k].state = .releasing) : Act s (s.modStation k f)
  /-- The grant of a LOADED station in RUN (R22, R56). -/
  | grant (k : StationIx) (s : State) (run : s.seq.feed = .run) (loaded : s.stations[k].state = .loaded) :
      Act s (stationGranted k s)
  /-- The end of a REL pulse (R23, R25). -/
  | relEnd (k : StationIx) (s : State) : Act s (endRel k s)
  /-- The feed to OFF (R36, R38). -/
  | off (s : State) : Act s (s.setFeed .off)
  /-- The feed to PAUSE: from RUN, or where no fault holds it, ESTOP is inactive and KEY is at RUN (R36, R37). -/
  | pause (s : State) (h : s.seq.feed = .run ∨ (s.inputs.estop = false ∧ s.inputs.key = .run ∧ faultHolds s = false)) :
      Act s (s.setFeed .pause)
  /-- The feed from PAUSE to RUN, with all six run conditions (R37). -/
  | run (s : State) (paused : s.seq.feed = .pause) (h : runConditions s = true) : Act s (s.setFeed .run)
  /-- The feed to HELD by a fault that holds it (R36). -/
  | held (s : State) (stop : s.inputs.estop = false) (key : s.inputs.key = .run) (h : faultHolds s = true) :
      Act s (s.setFeed .held)
  /-- The latch cleared, and a feed that it held in PAUSE (R39, R164). -/
  | acknowledged (s : State) :
      Act s (State.setFeed { s with latch := FaultLatch.clear } (if s.seq.feed = .held then .pause else s.seq.feed))
  /-- The line's run conditions change, and in RUN all six stay (R35, R37). -/
  | conditions {s t : State} (h : Conditions s t)
      (run : s.seq.feed = .run → runConditions s = true → runConditions t = true) : Act s t
  /-- ESTOP taken as active, with the feed OFF and no REL output on: every output off (R25, R124). -/
  | stop (s : State) (off : s.seq.feed = .off) (rel : ∀ k : StationIx, s.sched.out.rel[k] = none) :
      Act s (State.modOut { s with inputs := { s.inputs with estop := true } } fun _ => Outputs.allOff)
  /-- ESTOP taken as inactive (R125). -/
  | stopEnds (s : State) : Act s { s with inputs := { s.inputs with estop := false } }
  /-- KEY to a position; to SETUP with the feed OFF (R38). -/
  | key (x : KeyPos) (s : State) (h : x = .setup → s.seq.feed = .off) :
      Act s { s with inputs := { s.inputs with key := x } }
  /-- A settings record in force, with the feed OFF (R153). -/
  | settings (c : LineSettings) (valid : Bool) (s : State) (off : s.seq.feed = .off) :
      Act s { s with prog := { s.prog with settings := c, valid := valid } }
  /-- The values at reset and at RESTART (R34, R35, R127, R166, R179). -/
  | reset {s t : State} (stations : t.stations = Vector.replicate 4 Station.initial) (off : t.seq.feed = .off)
      (out : t.sched.out = Outputs.allOff) (latch : t.latch = FaultLatch.clear) : Act s t
  /-- The supply off, and every output with it (log 11). -/
  | supplyOff (s : State) : Act s { s.modOut fun _ => Outputs.allOff with powered := false }

/-- A run of acts. -/
def Acts : State → State → Prop := Relation.ReflTransGen Act

theorem Acts.refl {s : State} : Acts s s := Relation.ReflTransGen.refl

theorem Acts.trans {s t u : State} (h : Acts s t) (k : Acts t u) : Acts s u := Relation.ReflTransGen.trans h k

theorem Acts.act {s t : State} (h : Act s t) : Acts s t := Relation.ReflTransGen.single h

theorem Acts.still {s t : State} (h : t.panel = s.panel) : Acts s t := .act (.still h)

/-- Acts that start from a state of the same panel. -/
theorem Acts.after {s t u : State} (k : Acts t u) (h : t.panel = s.panel) : Acts s u :=
  (Acts.still h).trans k

/-- Acts that end in a state of the same panel. -/
theorem Acts.upTo {s t u : State} (k : Acts s t) (h : u.panel = t.panel) : Acts s u :=
  k.trans (.still h)

theorem Acts.foldl {α : Type} {f : State → α → State} (hf : ∀ s a, Acts s (f s a)) (l : List α) (s : State) :
    Acts s (l.foldl f s) := by
  induction l generalizing s with
  | nil => exact .refl
  | cons a l ih => exact (hf s a).trans (ih (f s a))

/-! ### Releases, lots and the examination, as acts -/

/-- A release that starts is a pulse of its channel (R115). -/
theorem startRelease_acts {s : State} (stop : s.inputs.estop = false) (b : Bin) : Acts s (startRelease b s) := by
  have pulse := Acts.act (.pulse (fun o => { o with sr := vmod o.sr b (retrigger s.line.now s.prog.settings.wSr) }) s stop rfl)
  unfold startRelease
  dsimp only
  split
  · exact pulse.upTo rfl
  · exact pulse.upTo rfl

theorem requestRelease_acts (b : Bin) (s : State) : Acts s (requestRelease b s) := by
  unfold requestRelease
  split
  · exact .refl
  · split
    · exact Acts.still rfl
    · next h => exact startRelease_acts (by rw [Bool.or_eq_true, not_or] at h; exact Bool.eq_false_iff.2 h.1) b

theorem startHeld_acts (b : Bin) (s : State) : Acts s (startHeld b s) := by
  unfold startHeld
  split
  · next h => exact startRelease_acts (by simp only [Bool.and_eq_true, Bool.not_eq_true'] at h; exact h.1.2) b
  · exact .refl

theorem unbindLot_acts (i : LotSlot) (s : State) : Acts s (unbindLot i s) := by
  unfold unbindLot
  split
  · exact .refl
  · dsimp only
    split
    · exact (requestRelease_acts _ s).trans (Acts.still rfl)
    · exact Acts.still rfl

theorem bindLot_acts (i : LotSlot) (s : State) : Acts s (bindLot i s) := by
  unfold bindLot
  split
  · exact Acts.still rfl
  · split
    · exact (unbindLot_acts _ s).trans (Acts.still rfl)
    · exact .refl

/-- An unbinding and a binding leave the stations and the sequencer alone. -/
theorem unbindLot_stations_seq (i : LotSlot) (s : State) :
    (unbindLot i s).stations = s.stations ∧ (unbindLot i s).seq = s.seq := by
  cases h : s.lot.lots[i].bin with
  | none => simp only [unbindLot, h, and_self]
  | some b =>
    rw [unbindLot_eq i b s h, unbound_frame]
    exact ⟨rfl, rfl⟩

theorem bindLot_stations_seq (i : LotSlot) (s : State) :
    (bindLot i s).stations = s.stations ∧ (bindLot i s).seq = s.seq := by
  unfold bindLot
  split
  · exact ⟨rfl, rfl⟩
  · split
    · exact unbindLot_stations_seq _ s
    · exact ⟨rfl, rfl⟩

/-- A change of the waiting reason or of a wait count within its bound is a change of the station within R19 (R24). -/
theorem wait_acts (k : StationIx) (f : Station → Station) (s : State)
    (hf : ∃ n why, f s.stations[k] = { s.stations[k] with waitCount := n, waitReason := why } ∧
      (s.stations[k].waitCount ≤ 15 → n ≤ 15)) : Acts s (s.modStation k f) := by
  obtain ⟨n, why, hf, hn⟩ := hf
  refine Acts.act (.station k f s (fun h => ?_) ?_)
  · rw [hf]
    exact ⟨h.loaded, h.idle, h.releasing, h.pending, hn h.wait⟩
  · rw [hf]

theorem setWait_acts (k : StationIx) (why : WaitReason) (s : State) : Acts s (setWait k why s) :=
  wait_acts k _ s ⟨_, _, rfl, id⟩

theorem satWait_le (n : Nat) : satWait n ≤ 15 := by
  unfold satWait
  split <;> omega

theorem grant_acts (k : StationIx) (a : Assignment) (pr : ProgramRec) (i : LotSlot) {s : State} (run : s.seq.feed = .run)
    (loaded : s.stations[k].state = .loaded) : Acts s (grant k a pr i s) := by
  unfold grant
  dsimp only
  have bound : ∃ u, u = (if s.lot.lots[i].bin.isNone then bindLot i s else s) ∧ Acts s u ∧ u.stations = s.stations ∧
      u.seq = s.seq := by
    refine ⟨_, rfl, ?_⟩
    split
    · exact ⟨bindLot_acts i s, bindLot_stations_seq i s⟩
    · exact ⟨.refl, rfl, rfl⟩
  obtain ⟨u, hu, acts, stations, seq⟩ := bound
  rw [← hu]
  refine Acts.trans ?_ (Acts.foldl (fun s j => ?_) _ _)
  · refine (acts.trans (Acts.act (.grant k u ?_ ?_))).trans (Acts.still rfl)
    · rw [seq, run]
    · rw [stations, loaded]
  · split
    · exact wait_acts j _ s ⟨_, _, rfl, fun _ => satWait_le _⟩
    · exact .refl

/-- No grant condition fails but in RUN (R50). -/
theorem run_of_failing_none {s : State} {k : StationIx} {a : Assignment} (h : failing s k a = none) : s.seq.feed = .run := by
  by_contra hf
  rw [failing, if_pos hf] at h
  cases h

theorem checkStation_acts (starving : Bool) (x : Exam) (k : StationIx) : Acts x.state (checkStation starving x k).state := by
  unfold checkStation
  dsimp only
  split
  · next a loaded _ =>
    split
    · exact setWait_acts _ _ _
    · next hn =>
      have granted (pr : ProgramRec) (i : LotSlot) := grant_acts k a pr i (run_of_failing_none hn) loaded
      cases x.state.prog.programs[a.program] with
      | none =>
        dsimp only
        split
        · exact setWait_acts _ _ _
        · exact .refl
      | some pr =>
        dsimp only
        split
        · exact setWait_acts _ _ _
        · split
          · exact granted _ _
          · exact .refl
  · exact .refl

theorem checkAll_acts (starving : Bool) (l : List StationIx) (x : Exam) :
    Acts x.state (l.foldl (checkStation starving) x).state := by
  induction l generalizing x with
  | nil => exact .refl
  | cons k l ih => exact (checkStation_acts starving x k).trans (ih _)

/-- The state of an examination whose checks begin: the mark set, the tails aged (R43, R44). -/
def examStart (s : State) : State := ageTails { s with seq := { s.seq with mark := s.line.p } }

/-- An examination in RUN before its scan start moves on: the starving stations checked before the others (R46, R57). -/
def examined (s : State) : Exam :=
  let u := examStart s
  let starving := allStations.filter (isStarving u)
  ((rotationFrom u.prog.settings.rotation u.seq.scanStart).filter fun k => !starving.contains k).foldl (checkStation false)
    (starving.foldl (checkStation true) ⟨u, 0#4, none⟩)

theorem examine_in_run {s : State} (h : s.seq.feed = .run) :
    examine s =
      { (examined s).state with
        seq :=
          { (examined s).state.seq with
            scanStart := scanAfter (examined s).state.seq.scanStart (examined s).last } } := by
  have run : ¬(ageTails { s with seq := { s.seq with mark := s.line.p } }).seq.feed ≠ .run := not_not.2 h
  simp only [examine, if_neg run]
  rfl

theorem examined_acts (s : State) : Acts s (examined s).state :=
  ((checkAll_acts true _ _).trans (checkAll_acts false _ _)).after rfl

/-- An examination gives waiting reasons and counts, binds lots and grants stations (R46). -/
theorem examine_acts (s : State) : Acts s (examine s) := by
  by_cases h : s.seq.feed = .run
  · rw [examine_in_run h]
    exact (examined_acts s).upTo rfl
  · have waits (k : StationIx) (t : State) : Acts t (if t.stations[k].state = .loaded then setWait k .feedState t else t) := by
      split
      · exact setWait_acts _ _ _
      · exact .refl
    have rest : (ageTails { s with seq := { s.seq with mark := s.line.p } }).seq.feed ≠ .run := h
    simp only [examine, if_pos rest]
    exact (Acts.foldl (fun t k => waits k t) _ _).after rfl

theorem measureTails_acts (tag : Nat) (foot : LaneSet) (t : Pos) (s : State) : Acts s (measureTails tag foot t s) := by
  unfold measureTails
  dsimp only
  split
  · exact (examine_acts _).after rfl
  · exact .refl

/-! ### Completions, as acts -/

theorem applyProgram_acts (ix : ProgramIx) (pr : Program) (replies : Bool) (s : State) :
    Acts s (applyProgram ix pr replies s) := (examine_acts _).after rfl

theorem applyStaged_acts (ix : ProgramIx) (s : State) : Acts s (applyStaged ix s) := by
  unfold applyStaged
  split
  · split
    · exact (applyProgram_acts _ _ _ _).after rfl
    · exact .refl
  · exact .refl

theorem stagedIfDone_acts (r : Piece) (s : State) : Acts s (stagedIfDone r s) := by
  unfold stagedIfDone
  split
  · exact applyStaged_acts _ s
  · exact .refl

theorem endClose_acts (i : LotSlot) {work : State → State} (h : ∀ s, Acts s (work s)) (s : State) :
    Acts s (endClose i work s) := by
  unfold endClose
  split
  · exact (((unbindLot_acts i s).trans (h _)).trans (examine_acts _)).trans (Acts.still (requestSummary_panel i _))
  · exact (h s).trans (Acts.still (requestSummary_panel i _))

theorem closeAndApply_acts (r : Piece) (s : State) : Acts s (closeAndApply r s) := by
  unfold closeAndApply
  split
  · split
    · exact endClose_acts _ (stagedIfDone_acts r) s
    · exact stagedIfDone_acts r s
  · exact stagedIfDone_acts r s

theorem writePiece_acts (tag : Nat) (s : State) : Acts s (writePiece tag s) := by
  unfold writePiece
  split
  · split
    · next r _ _ c _ =>
      have counted : ((countPiece r c.kind (appendEntry (.piece (pieceEntry r c)) s)).freePiece tag).panel = s.panel :=
        countPiece_panel r c.kind _
      exact ((closeAndApply_acts _ _).after counted).trans (examine_acts _)
    · exact .refl
  · exact .refl

theorem requestPiece_acts (tag : Nat) (s : State) : Acts s (requestPiece tag s) := by
  unfold requestPiece
  split
  · exact writePiece_acts tag s
  · exact Acts.still rfl

theorem writePending_acts (w : PendingWrite) (s : State) : Acts s (writePending w s) := by
  cases w with
  | piece tag => exact writePiece_acts tag s
  | lot i => exact Acts.still rfl

theorem fillLog_acts (fuel : Nat) (s : State) : Acts s (fillLog fuel s) := by
  induction fuel generalizing s with
  | zero => exact .refl
  | succ n ih =>
    unfold fillLog
    split
    · exact .refl
    · split
      · exact ((writePending_acts _ _).trans (ih _)).after rfl
      · exact .refl

theorem complete_acts (tag : Nat) (k : CompletionKind) (st : Option Stage) (s : State) : Acts s (complete tag k st s) := by
  unfold complete
  split
  · split
    · exact .refl
    · exact (requestPiece_acts _ _).after (cancelSlots_panel _ _ _)
  · exact .refl

theorem expire_acts (st : Stage) (tag : Nat) (s : State) : Acts s (expire st tag s) :=
  (Acts.act (.latch .lost s)).trans (complete_acts _ _ _ _)

theorem expireOrHold_acts (st : Stage) (tag : Nat) (s : State) : Acts s (expireOrHold st tag s) := by
  unfold expireOrHold
  split
  · split
    · exact Acts.still rfl
    · exact expire_acts _ _ _
  · exact .refl

theorem becomeUndiverted_acts (tag : Nat) (s : State) : Acts s (becomeUndiverted tag s) := by
  unfold becomeUndiverted
  dsimp only
  split
  · split
    · exact (expireOrHold_acts _ _ _).after rfl
    · exact Acts.still rfl
  · exact Acts.still rfl

/-! ### Planning, as acts -/

theorem lostForSlot_acts (tag : Nat) (s : State) : Acts s (lostForSlot tag s) :=
  ((Acts.act (.latch .noSlot (takeReason tag .slotFull s))).trans (complete_acts _ _ _ _)).after rfl

theorem rejectPlan_acts (tag : Nat) (s : State) : Acts s (rejectPlan tag s) := by
  unfold rejectPlan
  split
  · split
    · exact .refl
    · dsimp only
      split
      · exact (Acts.act (.latch .undiverted s)).trans (becomeUndiverted_acts _ _)
      · split
        · next made => exact (Acts.still (makeSlot_panel made)).after rfl
        · exact lostForSlot_acts tag s
  · exact .refl

theorem planAway_acts (tag : Nat) (s : State) : Acts s (planAway tag s) := by
  unfold planAway
  split
  · exact (Acts.still (cancelSlots_panel _ _ s)).trans (rejectPlan_acts _ _)
  · exact .refl

theorem reasonArrives_acts (tag : Nat) (why : RejectReason) (s : State) : Acts s (reasonArrives tag why s) := by
  unfold reasonArrives
  split
  · split
    · exact .refl
    · dsimp only
      split
      · exact (planAway_acts tag (takeReason tag why s)).after rfl
      · exact Acts.still rfl
  · exact .refl

theorem askAll_acts (tag : Nat) (l : List PlanRequest) (s : State) : Acts s (askAll tag l s) := by
  induction l generalizing s with
  | nil => exact .refl
  | cons q l ih =>
    cases q with
    | join place => exact (ih (joinSlot place tag s)).after rfl
    | make pos a d =>
      unfold askAll
      split
      · next made => exact (ih _).after (makeSlot_panel made)
      · exact (planAway_acts tag (takeReason tag .slotFull s)).after rfl

theorem foldPlan_acts (tag : Nat) (r : Piece) (pr : ProgramRec) (s : State) : Acts s (foldPlan tag r pr s) := by
  have rejected (why : RejectReason) : Acts s (rejectPlan tag (takeReason tag why s)) :=
    (rejectPlan_acts _ _).after rfl
  unfold foldPlan
  extract_lets x len folds cross
  split
  · exact rejected .lateFold
  · clear_value cross
    cases cross with
    | none => exact askAll_acts _ _ s
    | some q =>
      dsimp only
      split
      · exact rejected .xfConflict
      · exact askAll_acts _ _ s
      · exact askAll_acts _ _ s

theorem planExit_acts (tag : Nat) (s : State) : Acts s (planExit tag s) := by
  have estimated : Acts s (writeEstimate tag s) := Acts.still (writeEstimate_panel tag s)
  unfold planExit
  dsimp only
  split
  · split
    · split
      · exact estimated.trans (foldPlan_acts _ _ _ _)
      · exact estimated.trans (rejectPlan_acts _ _)
    · exact estimated.trans (rejectPlan_acts _ _)
  · exact estimated

theorem exitLengthKnown_acts (tag len : Nat) (s : State) : Acts s (exitLengthKnown tag len s) := by
  unfold exitLengthKnown
  split
  · split
    · split
      · exact reasonArrives_acts _ _ s
      · exact Acts.still (foldl_panel (fun s pl => refineSlot_panel _ _ _ _ s pl) _ s)
    · exact .refl
  · exact .refl

theorem planDrop_acts (tag : Nat) (s : State) : Acts s (planDrop tag s) := by
  unfold planDrop
  split
  · split
    · dsimp only
      split
      · next made => exact (Acts.still (makeSlot_panel made)).after rfl
      · exact (lostForSlot_acts _ _).after rfl
    · exact complete_acts _ _ _ s
  · exact .refl

/-! ### The eyes, as acts -/

theorem untracked_acts (code : Nat) (c : Pos) (s : State) : Acts s (untracked code c s) :=
  (Acts.still (notice_panel code c s)).trans (Acts.act (.latch .strayUntracked _))

theorem leadEntry_acts (w : Lane) (c : Pos) (s : State) : Acts s (leadEntry w c s) := by
  have closed : Acts s (closeEntryLane w s) := Acts.still rfl
  unfold leadEntry
  dsimp only
  split
  · exact Acts.still rfl
  · split
    · exact closed.trans (Acts.still (moveRecord_panel _ _ _ _))
    · split
      · exact Acts.still rfl
      · exact closed.trans (untracked_acts _ _ _)

theorem leadExit_acts (w : Lane) (c : Pos) (s : State) : Acts s (leadExit w c s) := by
  have closed : Acts s (closeExitLane w s) := Acts.still rfl
  unfold leadExit
  dsimp only
  split
  · exact Acts.still rfl
  · split
    · exact (closed.trans (Acts.still (moveRecord_panel _ _ _ _))).trans (planExit_acts _ _)
    · split
      · exact (planExit_acts _ (takeRecord .fold (exitStray w c) (closeExitLane w s)).2).after rfl
      · exact closed.trans (untracked_acts _ _ _)

theorem leadStacker_acts (c : Pos) (s : State) : Acts s (leadStacker c s) := by
  unfold leadStacker
  split
  · exact (Acts.still (notice_panel 48 c s)).trans (Acts.act (.latch .strayStack _))
  · exact Acts.foldl (fun s t => (Acts.still (moveRecord_panel _ _ _ s)).trans (planDrop_acts t _)) _ _

theorem leadingEdge_acts (e : Eye) (c : Pos) (s : State) : Acts s (leadingEdge e c s) := by
  cases e with
  | n w => exact leadEntry_acts w c s
  | x w => exact leadExit_acts w c s
  | k => exact leadStacker_acts c s

theorem lengthCheck_acts (tag len : Nat) (pr : ProgramRec) (s : State) : Acts s (lengthCheck tag len pr s) := by
  unfold lengthCheck
  split
  · exact reasonArrives_acts _ _ s
  · split
    · exact reasonArrives_acts _ _ s
    · exact .refl

theorem trailEntry_acts (w : Lane) (t : Pos) (s : State) : Acts s (trailEntry w t s) := by
  unfold trailEntry
  split
  · exact .refl
  · dsimp only
    split
    · exact Acts.still rfl
    · split
      · exact Acts.still rfl
      · refine Acts.trans ?_ (measureTails_acts _ _ _ _)
        split
        · exact (lengthCheck_acts _ _ _ _).after rfl
        · exact Acts.still rfl

theorem trailExit_acts (w : Lane) (t : Pos) (s : State) : Acts s (trailExit w t s) := by
  unfold trailExit
  split
  · exact .refl
  · dsimp only
    split
    · exact Acts.still rfl
    · exact (exitLengthKnown_acts _ _ _).after rfl

theorem trailingEdge_acts (e : Eye) (t : Pos) (s : State) : Acts s (trailingEdge e t s) := by
  cases e with
  | n w => exact trailEntry_acts w t s
  | x w => exact trailExit_acts w t s
  | k => exact .refl

theorem settleOne_acts (s : State) (tag : Nat) : Acts s (settleOne s tag) := by
  unfold settleOne
  split
  · exact Acts.still rfl
  · split
    · exact Acts.still rfl
    · split
      · exact Acts.still rfl
      · split
        · exact .refl
        · exact (expire_acts _ _ { s with heldExpiry := s.heldExpiry.filter (· ≠ tag) }).after rfl

theorem settleHeld_acts (s : State) : Acts s (settleHeld s) := Acts.foldl settleOne_acts _ s

end Sys2Proof.Machine

namespace Sys2Proof.Machine

open Sys2Proof

/-! ### The rows of the line, the panel and the slots, as acts -/

theorem whenPowered_acts {f : State → State} {s t : State} (hf : Acts s (f s)) (h : whenPowered f s = .next t) : Acts s t := by
  unfold whenPowered at h
  split at h
  · cases h
    exact hf
  · cases h
    exact .refl

theorem countEdge_panel (ch : EncChannel) (s : State) : { s with line := countEdge ch s.line }.panel = s.panel := by
  unfold countEdge
  dsimp only
  split <;> rfl

theorem afterForward_acts (s : State) : Acts s (afterForward s) := by
  have eyes : (allEyes.foldl eyeForward { s with due := [], heldExpiry := [] }).panel = s.panel :=
    (foldl_panel (f := eyeForward) (fun _ _ => rfl) allEyes { s with due := [], heldExpiry := [] }).trans rfl
  have taken : Acts s (eyesForward { s with due := [], heldExpiry := [] }) :=
    (Acts.foldl (fun t e => trailingEdge_acts e t.line.p t) _ _).after eyes
  have marked (u : State) : (if u.inputs.estop then markPassed u else u).panel = u.panel := by split <;> rfl
  unfold afterForward
  generalize eyesForward { s with due := [], heldExpiry := [] } = u at taken
  have marked := marked u
  dsimp only
  generalize (if u.inputs.estop = true then markPassed u else u) = v at marked
  exact (taken.upTo marked).upTo rfl

theorem afterReverse_acts (s : State) : Acts s (afterReverse s) := by
  obtain ⟨u, hu, -⟩ := afterReverse_eq s
  rw [hu]
  exact Acts.still rfl

theorem goDark_acts (e : Eye) (s : State) : Acts s (goDark e s) := by
  unfold goDark
  split
  · exact .refl
  · exact Acts.still rfl

theorem goLight_acts (e : Eye) (s : State) : Acts s (goLight e s) := by
  unfold goLight
  dsimp only
  split
  · exact .refl
  · split
    · exact ((trailingEdge_acts _ _ _).trans (settleHeld_acts _)).after rfl
    · exact (settleHeld_acts _).after rfl

theorem acceptEye_acts (e : Eye) (s : State) : Acts s (acceptEye e s) :=
  ((leadingEdge_acts e _ _).trans (settleHeld_acts _)).after rfl

theorem blockEye_acts (e : Eye) (s : State) : Acts s (blockEye e s) :=
  (Acts.act (.latch .eyeBlocked _)).after (notice_panel _ _ _)

/-- A change of the line's run conditions with the PAUSE or RUN that R37 brings; unless the feed is to leave RUN, the six conditions
stay. -/
theorem runPause_acts {lost : Bool} {s u : State} (h : Conditions s u)
    (kept : lost = false → runConditions s = true → runConditions u = true) : Acts s (runPause lost u) := by
  obtain ⟨hist, windows, lineRun, hu⟩ := h
  have feed : u.seq.feed = s.seq.feed := congrArg Panel.feed hu
  have fed (x : FeedState) : Conditions (s.setFeed x) (u.setFeed x) :=
    ⟨hist, windows, lineRun, congrArg (fun p : Panel => { p with feed := x }) hu⟩
  by_cases hr : s.seq.feed = .run
  · cases lost with
    | true =>
      rw [runPause_lost (feed.trans hr)]
      exact (Acts.act (.pause s (.inl hr))).trans (Acts.act (.conditions (fed .pause) fun g => nomatch g))
    | false =>
      rw [runPause_stays (fun _ => rfl) fun g => nomatch (feed.symm.trans g).symm.trans hr]
      exact Acts.act (.conditions ⟨hist, windows, lineRun, hu⟩ fun _ => kept rfl)
  · have changed : Acts s u := Acts.act (.conditions ⟨hist, windows, lineRun, hu⟩ fun g => absurd g hr)
    by_cases hp : s.seq.feed = .pause ∧ runConditions u = true
    · obtain ⟨hp, hc⟩ := hp
      rw [runPause_resumes lost (feed.trans hp) hc]
      exact (changed.trans (Acts.act (.run u (feed.trans hp) hc))).trans (examine_acts _)
    · rw [runPause_stays (fun g => absurd (feed.symm.trans g) hr) fun g => ?_]
      · exact changed
      · exact Bool.eq_false_iff.2 fun hc => hp ⟨feed.symm.trans g, hc⟩

theorem invalidTransition_acts (s : State) : Acts s (latchFault .encoder (notice 1 s.line.p (runPause true (speedCleared s)))) :=
  have paused : Acts s (runPause true (speedCleared s)) := runPause_acts ⟨_, _, _, rfl⟩ fun g => nomatch g
  (paused.upTo (notice_panel 1 s.line.p _)).trans (Acts.act (.latch .encoder _))

/-- With four full windows there are four after the next one (R7). -/
theorem speedWindowEnd_acts (s : State) :
    Acts s (runPause (!fastEnough { s with line := endWindow s.line }) { s with line := endWindow s.line }) := by
  refine runPause_acts ⟨_, _, _, rfl⟩ fun fast run => ?_
  have fast : (s.prog.settings.speedMin : Int) ≤ speed (endWindow s.line) := by simpa [fastEnough] using fast
  obtain ⟨lineRun, windows, -, estop, key, valid⟩ := (runConditions_iff s).1 run
  refine (runConditions_iff _).2 ⟨lineRun, ?_, fast, estop, key, valid⟩
  show min 4 (s.line.fullWindows + 1) = 4
  omega

theorem lineRunChange_acts (active : Bool) (s : State) :
    Acts s (runPause (!active) { s with inputs := { s.inputs with lineRun := active } }) := by
  refine runPause_acts ⟨_, _, _, rfl⟩ fun stays run => ?_
  obtain ⟨-, windows, fast, estop, key, valid⟩ := (runConditions_iff s).1 run
  exact (runConditions_iff _).2 ⟨by simpa using stays, windows, fast, estop, key, valid⟩

/-- A press loads an IDLE station, with its current assignment as the snapshot (R20). -/
theorem press_acts (k : StationIx) (s : State) : Acts s (press k s) := by
  unfold press
  split
  · next a idle _ =>
    refine (Acts.act (.station k _ s (fun h => ?_) ?_)).trans (examine_acts _)
    · exact ⟨fun _ => rfl, nofun, nofun, fun g => absurd (idle.symm.trans (h.pending g)) nofun, h.wait⟩
    · rw [idle]
      exact iff_of_false nofun nofun
  · exact .refl

/-- The four REL outputs off, and every station out of RELEASING (R23, R25). -/
theorem endRels_eq (s : State) :
    allStations.foldl (fun s k => endRel k s) s =
      { s with
        sched := { s.sched with out := { s.sched.out with rel := Vector.replicate 4 none } }
        stations := s.stations.map fun st => if st.state = .releasing then leaveReleasing st else st } := by
  have all {α : Type} (v : Vector α 4) (f : α → α) : vmod (vmod (vmod (vmod v 0 f) 1 f) 2 f) 3 f = v.map f := by
    apply Vector.ext
    intro i hi
    simp only [vmod_getElem, Vector.getElem_map]
    match i, hi with
    | 0, _ | 1, _ | 2, _ | 3, _ => rfl
  have off : s.sched.out.rel.map (fun _ => none) = Vector.replicate 4 (none : Option Nat) :=
    Vector.ext fun i hi => by rw [Vector.getElem_map, Vector.getElem_replicate]
  simp only [allStations, List.foldl_cons, List.foldl_nil, endRel, State.modOut, State.modStation, all, off]

/-- ESTOP active: the feed OFF, the REL pulses ended one after another, and then every output off (R25, R38, R124). -/
theorem stopAll_acts (s : State) : Acts s (stopAll s) := by
  have ended : Acts s (allStations.foldl (fun s k => endRel k s) (s.setFeed .off)) :=
    (Acts.act (.off s)).trans (Acts.foldl (fun t k => .act (.relEnd k t)) _ _)
  rw [endRels_eq] at ended
  unfold stopAll
  rw [endRels_eq]
  exact (ended.trans (Acts.act (.stop _ rfl fun k => Vector.getElem_replicate ..))).upTo rfl

theorem droppedFor_acts (a : SlotAction) (s : State) (tag : Nat) : Acts s (droppedFor a s tag) := by
  unfold droppedFor
  split
  · exact (Acts.act (.latch .undiverted s)).trans (becomeUndiverted_acts _ _)
  · exact expire_acts _ _ s
  · exact reasonArrives_acts _ _ s

theorem dropPassed_acts (fuel : Nat) (s : State) : Acts s (dropPassed fuel s) := by
  induction fuel generalizing s with
  | zero => exact .refl
  | succ n ih =>
    unfold dropPassed
    split
    · exact ((Acts.foldl (droppedFor_acts _) _ _).after ((removeSlot_panel _ _).trans (notice_panel _ _ _))).trans (ih _)
    · exact .refl

theorem releaseStop_acts (s : State) : Acts s (releaseStop s) :=
  ((Acts.act (.stopEnds s)).trans (dropPassed_acts _ _)).trans (Acts.foldl (fun t b => startHeld_acts b t) _ _)

theorem keyChange_acts (x : KeyPos) (s : State) :
    let u := { s with inputs := { s.inputs with key := x } }
    Acts s (if x = .setup then u.setFeed .off else u) := by
  dsimp only
  split
  · exact (Acts.act (.off s)).trans (Acts.act (.key x (s.setFeed .off) fun _ => rfl))
  · next h => exact Acts.act (.key x s fun g => absurd g h)

theorem turnOff_acts (c : OutChannel) (t : Nat) (s : State) : Acts s ((s.reachTime t).modOut (turnOff · c)) :=
  (Acts.act (.pulseEnd c (s.reachTime t))).after rfl

/-- A slot fires with ESTOP inactive alone (R124). -/
theorem stop_of_nextFire {s : State} {y : Slot} (h : nextFire s = some y) : s.inputs.estop = false := by
  unfold nextFire at h
  split at h
  · cases h
  · next stop => exact Bool.eq_false_iff.2 stop

theorem fireSlot_acts {s : State} (stop : s.inputs.estop = false) (y : Slot) : Acts s (fireSlot y s) := by
  have rel : (s.pulsed y.drive).rel = s.sched.out.rel := by cases y.drive <;> rfl
  rw [fireSlot_eq]
  exact (Acts.act (.pulse (fun _ => s.pulsed y.drive) s stop rel)).upTo rfl

theorem fireReject_acts {s : State} (stop : s.inputs.estop = false) (y : Slot) : Acts s (fireReject y s) := by
  refine (fireSlot_acts stop y).trans (Acts.foldl (fun t tag => ?_) _ _)
  split
  · exact complete_acts _ _ _ t
  · exact .refl

theorem countDropOf_acts (d : Drive) (r : Piece) (s : State) : Acts s (countDropOf d r s) := by
  unfold countDropOf
  split
  · unfold countDrop
    dsimp only
    split
    · exact (requestRelease_acts _ _).after rfl
    · exact Acts.still rfl
  · exact .refl

theorem fireDrop_acts {s : State} (stop : s.inputs.estop = false) (y : Slot) : Acts s (fireDrop y s) := by
  refine (fireSlot_acts stop y).trans (Acts.foldl (fun t tag => ?_) _ _)
  split
  · exact (countDropOf_acts _ _ t).trans (complete_acts _ _ _ _)
  · exact .refl

/-! ### Supply, store and requests, as acts -/

theorem storeEntry_panel (s : State) (r : StoreRecord) (ws : List StoreWrite) :
    { s with prog := { storeEntry s.prog r with queue := ws } }.panel = s.panel := by
  cases r <;> rfl

theorem failSupply_acts (s : State) : Acts s (failSupply s) := by
  refine (Acts.act (.supplyOff s)).upTo ?_
  unfold failSupply
  cases s.prog.queue with
  | nil => rfl
  | cons w ws => cases h : w.record <;> simp only [h] <;> rfl

theorem switchOn_acts (smp : PowerSamples) (s : State) : Acts s (switchOn smp s) := by
  obtain ⟨u, hu, -⟩ := resetEyes_eq (poweredUp smp s)
  rw [switchOn_eq, hu]
  exact Acts.act (.reset rfl rfl rfl rfl)

theorem restartAll_acts (s : State) : Acts s (restartAll s) := by
  unfold restartAll
  dsimp only
  obtain ⟨u, hu, -⟩ := resetEyes_eq
    { s with
      stations := Vector.replicate 4 Station.initial
      seq := Sequencer.initial s.line.p
      track := TrackStore.initial
      sched := Scheduler.initial
      lot := LotUnit.initial
      prog := { s.prog with staged := Vector.replicate 32 none, inFlight := Vector.replicate 32 0 }
      log := CompletionLog.initial
      latch := FaultLatch.clear
      due := []
      heldExpiry := [] }
  rw [hu]
  exact Acts.act (.reset rfl rfl rfl rfl)

/-- FEED on, from OFF to HELD, RUN or PAUSE (R36). -/
theorem turnFeedOn_acts (s : State) : Acts s (turnFeedOn s).1 := by
  unfold turnFeedOn
  split
  · exact .refl
  · next h =>
    obtain ⟨stop, key⟩ : s.inputs.estop = false ∧ s.inputs.key = .run := by
      cases he : s.inputs.estop <;> cases hk : s.inputs.key <;> simp [he, hk] at h ⊢
    dsimp only
    split
    · exact .refl
    · split
      · next hf => exact Acts.act (.held s stop key hf)
      · next hf =>
        have paused : Acts s (s.setFeed .pause) := Acts.act (.pause s (.inr ⟨stop, key, Bool.eq_false_iff.2 hf⟩))
        split
        · next hc => exact (paused.trans (Acts.act (.run (s.setFeed .pause) rfl hc))).trans (examine_acts _)
        · exact paused

theorem feedOwner_acts (body : List Byte) (s : State) : Acts s (feedOwner body s).1 := by
  unfold feedOwner
  split
  · exact Acts.act (.off s)
  · exact turnFeedOn_acts s
  · exact .refl

/-- An assignment leaves the state of the station and its snapshot alone (R27). -/
theorem assignStation_keeps (a : Option Assignment) (st : Station) :
    ∃ current next, (assignStation a st).1 = { st with current := current, next := next } := by
  unfold assignStation
  split <;> exact ⟨_, _, rfl⟩

/-- A next assignment in effect leaves the rest of the station alone (R23, R32). -/
theorem applyNext_keeps (st : Station) : ∃ current next, applyNext st = { st with current := current, next := next } := by
  unfold applyNext
  split <;> exact ⟨_, _, rfl⟩

theorem StationRight.assigned {st : Station} (h : StationRight st) (current : Option Assignment) (next : NextAssignment) :
    StationRight { st with current := current, next := next } :=
  ⟨h.loaded, h.idle, h.releasing, h.pending, h.wait⟩

theorem carryAssign_acts (k : StationIx) (a : Option Assignment) (s : State) : Acts s (carryAssign k a s).1 := by
  obtain ⟨current, next, h⟩ := assignStation_keeps a s.stations[k]
  show Acts s (s.modStation k fun _ => (assignStation a s.stations[k]).1)
  rw [h]
  exact Acts.act (.station k _ s (fun g => g.assigned current next) Iff.rfl)

theorem assignOwner_acts (body : List Byte) (s : State) : Acts s (assignOwner body s).1 := by
  unfold assignOwner
  dsimp only
  split
  · exact .refl
  · split
    · exact carryAssign_acts _ _ s
    · split
      · split
        · exact carryAssign_acts _ _ s
        · exact .refl
      · exact .refl

/-- Outside RELEASING no disable is pending (R19). -/
theorem StationRight.notPending {st : Station} (h : StationRight st) (hs : st.state ≠ .releasing) : st.disablePending = false :=
  Bool.eq_false_iff.2 fun g => hs (h.pending g)

theorem disableStation_right {st : Station} (h : StationRight st) : StationRight (disableStation st) := by
  unfold disableStation
  split
  · next hs => exact ⟨nofun, nofun, nofun, fun g => absurd g (by simp [h.notPending, hs]), h.wait⟩
  · next hs => exact ⟨nofun, nofun, nofun, fun g => absurd g (by simp [h.notPending, hs]), h.wait⟩
  · next hs => exact ⟨h.loaded, h.idle, h.releasing, fun _ => hs, h.wait⟩
  · exact h

theorem disableStation_releasing (st : Station) : (disableStation st).state = .releasing ↔ st.state = .releasing := by
  unfold disableStation
  split <;> simp [*]

theorem enableStation_right {st : Station} (h : StationRight st) : StationRight (enableStation st) := by
  unfold enableStation
  split
  · next hs =>
    have free : ¬st.disablePending = true := by simp [h.notPending, hs]
    split
    · next loaded => exact ⟨fun _ => loaded, nofun, nofun, fun g => absurd g free, h.wait⟩
    · next empty => exact ⟨nofun, fun _ => by simpa using empty, nofun, fun g => absurd g free, h.wait⟩
  · exact ⟨h.loaded, h.idle, h.releasing, nofun, h.wait⟩
  · exact h
  · exact h

theorem enableStation_releasing (st : Station) : (enableStation st).state = .releasing ↔ st.state = .releasing := by
  unfold enableStation
  split
  · split <;> simp [*]
  all_goals simp [*]

theorem doEnable_acts (k : StationIx) (s : State) : Acts s (doEnable k s).1 := by
  have enabled : Acts s (s.modStation k enableStation) :=
    Acts.act (.station k _ s enableStation_right (enableStation_releasing _))
  unfold doEnable
  dsimp only [enableReply]
  split
  · exact enabled.trans (examine_acts _)
  · exact enabled

theorem doClear_acts (k : StationIx) (s : State) : Acts s (doClear k s).1 := by
  unfold doClear
  split
  · next disabled =>
    refine Acts.act (.station k _ s (fun h => ?_) ?_)
    · split
      · obtain ⟨current, next, he⟩ := applyNext_keeps { s.stations[k] with snapshot := none }
        rw [he]
        exact StationRight.assigned (st := { s.stations[k] with snapshot := none })
          ⟨fun g => absurd (disabled.symm.trans g) nofun, fun _ => rfl, fun _ => rfl, h.pending, h.wait⟩ current next
      · exact h
    · split
      · obtain ⟨current, next, he⟩ := applyNext_keeps { s.stations[k] with snapshot := none }
        rw [he]
      · exact Iff.rfl
  · exact .refl

/-- DISABLE, ENABLE and CLEAR keep the station record right (R30 to R32). -/
theorem enableOwner_acts (body : List Byte) (s : State) : Acts s (enableOwner body s).1 := by
  unfold enableOwner
  split
  · exact .refl
  · split
    · exact Acts.act (.station _ _ s disableStation_right (disableStation_releasing _))
    · exact doEnable_acts _ s
    · exact doClear_acts _ s
    · exact .refl

theorem acknowledge_acts (s : State) : Acts s (acknowledge s) := by
  unfold acknowledge
  split
  · have acked := Acts.act (.acknowledged s)
    unfold releaseHeld
    dsimp only
    split
    · next hf =>
      rw [if_pos hf] at acked
      split
      · next hc => exact (acked.trans (Acts.act (.run _ rfl hc))).trans (examine_acts _)
      · exact acked
    · next hf =>
      rw [if_neg hf] at acked
      exact acked
  · exact .refl

theorem leaveBin_acts (s : State) (b : Bin) : Acts s (leaveBin s b) := by
  unfold leaveBin
  split
  · exact .refl
  · split
    · exact .refl
    · dsimp only
      split
      · exact (unbindLot_acts _ s).upTo (requestSummary_panel _ _)
      · exact unbindLot_acts _ s

theorem storeAsked_panel (c : LineSettings) (replies : Bool) (s : State) : (storeAsked c replies s).panel = s.panel := rfl

/-- A settings record is put in force with the feed OFF (R153). -/
theorem settingsWriteOwner_acts (body : List Byte) (s : State) : Acts s (settingsWriteOwner body s).1 := by
  unfold settingsWriteOwner
  split
  · exact .refl
  · split
    · exact .refl
    · next free =>
      have off : s.seq.feed = .off := by
        by_contra h
        exact free (.inl h)
      split
      · exact .refl
      · next c _ =>
        obtain ⟨u, -, hput⟩ := putSettings_eq c (!s.link.quiet) s
        have put : Acts s (inForce c u s) := (Acts.act (.settings c true s off)).upTo rfl
        dsimp only
        rw [hput]
        split
        · have left : Acts s (allBins.foldl leaveBin (inForce c u s)) := put.trans (Acts.foldl leaveBin_acts allBins _)
          exact (left.trans (examine_acts _)).upTo (storeAsked_panel _ _ _)
        · exact put.upTo rfl

theorem programWriteOwner_acts (body : List Byte) (s : State) : Acts s (programWriteOwner body s).1 := by
  unfold programWriteOwner
  split
  · exact .refl
  · split
    · exact .refl
    · split
      · exact .refl
      · split
        · exact applyProgram_acts _ _ _ s
        · exact Acts.still rfl

theorem lotOpenOwner_acts (body : List Byte) (s : State) : Acts s (lotOpenOwner body s).1 := by
  unfold lotOpenOwner
  dsimp only
  split
  · exact .refl
  · split
    · exact .refl
    · split
      · exact .refl
      · split
        · exact .refl
        · exact Acts.still rfl

theorem closeLot_acts (i : LotSlot) (s : State) : Acts s (closeLot i s) := by
  unfold closeLot
  dsimp only
  split
  · exact (endClose_acts i (work := id) (fun _ => .refl) _).after rfl
  · exact Acts.still rfl

theorem lotCloseOwner_acts (body : List Byte) (s : State) : Acts s (lotCloseOwner body s).1 := by
  unfold lotCloseOwner
  split
  · exact .refl
  · dsimp only
    split
    · exact closeLot_acts _ s
    · exact .refl

theorem purgeAll_acts (tags : List Nat) (s : State) : Acts s (purgeAll tags s) :=
  Acts.foldl (fun t tag => complete_acts tag _ _ t) tags s

theorem purgeOwner_acts (body : List Byte) (s : State) : Acts s (purgeOwner body s).1 := by
  unfold purgeOwner
  split
  · unfold purgeByTag
    split
    · exact .refl
    · split
      · exact .refl
      · exact purgeAll_acts _ s
  · split
    · exact .refl
    · exact purgeAll_acts _ s

theorem logTakeOwner_acts (body : List Byte) (s : State) : Acts s (logTakeOwner body s).1 :=
  (fillLog_acts _ _).after rfl

/-- The requests that read change nothing. -/
theorem readOwners_still (body : List Byte) (s : State) :
    (stationReadOwner body s).1 = s ∧ (lotReadOwner body s).1 = s ∧ (programReadOwner body s).1 = s ∧
      (pieceReadOwner body s).1 = s ∧ (logPeekOwner body s).1 = s := by
  refine ⟨?_, ?_, ?_, ?_, ?_⟩
  · unfold stationReadOwner; split <;> rfl
  · unfold lotReadOwner; split <;> rfl
  · unfold programReadOwner; split <;> rfl
  · unfold pieceReadOwner; split <;> rfl
  · unfold logPeekOwner; dsimp only; split <;> rfl

theorem Acts.of_eq {s t : State} (h : t = s) : Acts s t := h ▸ .refl

theorem Acts.ite {p : Prop} [Decidable p] {f g : State → State × Answer} {s : State} (hf : Acts s (f s).1)
    (hg : Acts s (g s).1) : Acts s ((if p then f else g) s).1 := by
  split
  · exact hf
  · exact hg

/-- What the owner of a request does, in the order of the request table (R171). -/
theorem ownerOf_acts (code : Byte) (body : List Byte) (s : State) : Acts s (ownerOf code body s).1 := by
  obtain ⟨stationRead, lotRead, programRead, pieceRead, logPeek⟩ := readOwners_still body s
  unfold ownerOf
  refine .ite (feedOwner_acts body s) <| .ite (assignOwner_acts body s) <| .ite (enableOwner_acts body s) <|
    .ite (.of_eq stationRead) <| .ite (lotOpenOwner_acts body s) <| .ite (lotCloseOwner_acts body s) <|
    .ite (.of_eq lotRead) <| .ite (programWriteOwner_acts body s) <| .ite (.of_eq programRead) <|
    .ite (settingsWriteOwner_acts body s) <| .ite .refl <| .ite (.of_eq pieceRead) <| .ite (purgeOwner_acts body s) <|
    .ite (.of_eq logPeek) <| .ite (logTakeOwner_acts body s) <| .ite (acknowledge_acts s) <| .ite .refl <|
    .ite (.still rfl) <| .ite (.still rfl) <| .ite (restartAll_acts s) .refl

theorem handleFrame_acts (addr code : Byte) (body : List Byte) (s : State) : Acts s (handleFrame addr code body s) := by
  have carried : Acts s (carryOut code body (ownerOf code body) s).1 := by
    unfold carryOut
    split
    · exact .refl
    · split
      · exact .refl
      · exact ownerOf_acts code body s
  unfold handleFrame
  split
  · split
    · exact carried
    · exact .refl
  · split
    · split
      · exact .refl
      · exact carried.upTo (owe_panel _ _ _)
    · exact .refl

theorem receiveChar_acts (s : State) (c : Byte) : Acts s (receiveChar s c) := by
  have buffered (t : State) : Acts t (takeBuffer t) := by
    unfold takeBuffer
    split
    · split
      · exact handleFrame_acts _ _ _ t
      · exact .refl
    · exact .refl
  unfold receiveChar
  dsimp only
  split
  · exact (buffered _).after rfl
  · exact Acts.still rfl

theorem receiveChars_acts (s : State) (cs : List Byte) : Acts s (receiveChars s cs) := Acts.foldl receiveChar_acts cs s

theorem takeFrame_acts (addr code : Byte) (body : List Byte) (s : State) : Acts s (takeFrame addr code body s) := by
  unfold takeFrame
  split
  · exact .refl
  · split
    · exact receiveChars_acts s _
    · split
      · exact Acts.still rfl
      · exact (handleFrame_acts _ _ _ _).after rfl

/-! ### Every command is a run of acts -/

/-- What a command does to the panel is a run of acts. -/
theorem exec_acts {c : Instr} {s t : State} (h : exec c s = .next t) : Acts s t := by
  have frame {addr code : Byte} {body : List Byte}
      (g : (.next (takeFrame addr code body s) : Host.Outcome State Fault Refusal) = .next t) :
      Acts s t := by
    cases g
    exact takeFrame_acts addr code body s
  cases c with
  | powerOn smp =>
    cases h
    split
    · exact (failSupply_acts s).trans (switchOn_acts smp _)
    · exact switchOn_acts smp s
  | countedEdge ch =>
    simp only [exec, execCountedEdge] at h
    refine whenPowered_acts ?_ h
    split
    · exact (afterForward_acts _).after (countEdge_panel ch s)
    · exact (afterReverse_acts _).after (countEdge_panel ch s)
  | invalidTransition =>
    simp only [exec, execInvalidTransition] at h
    exact whenPowered_acts (invalidTransition_acts s) h
  | speedWindowEnd =>
    simp only [exec, execSpeedWindowEnd] at h
    exact whenPowered_acts (speedWindowEnd_acts s) h
  | eyeDark e =>
    simp only [exec, execEyeDark] at h
    exact whenPowered_acts (goDark_acts e s) h
  | eyeLight e =>
    simp only [exec, execEyeLight] at h
    exact whenPowered_acts (goLight_acts e s) h
  | eyeAccept e =>
    simp only [exec, execEyeAccept] at h
    refine whenPowered_acts ?_ h
    split
    · exact (acceptEye_acts e _).after rfl
    · exact .refl
  | eyeBlocked e =>
    simp only [exec, execEyeBlocked] at h
    refine whenPowered_acts ?_ h
    split
    · exact (blockEye_acts e _).after rfl
    · exact .refl
  | loadPress k =>
    simp only [exec, execLoadPress] at h
    refine whenPowered_acts ?_ h
    split
    · exact .refl
    · exact (press_acts k _).after rfl
  | relPulseEnd k =>
    simp only [exec, execRelPulseEnd] at h
    refine whenPowered_acts ?_ h
    split
    · next e _ => exact (Acts.act (.relEnd k (s.reachTime e))).after rfl
    · exact .refl
  | pulseEnd c =>
    simp only [exec, execPulseEnd] at h
    refine whenPowered_acts ?_ h
    split
    · exact .refl
    · split
      · exact (turnOff_acts _ _ s).trans (startHeld_acts _ _)
      · exact turnOff_acts _ _ s
  | estopActive =>
    simp only [exec, execEstopActive] at h
    refine whenPowered_acts ?_ h
    split
    · exact .refl
    · exact stopAll_acts s
  | estopInactive =>
    simp only [exec, execEstopInactive] at h
    refine whenPowered_acts ?_ h
    split
    · exact releaseStop_acts s
    · exact .refl
  | keyChange key =>
    simp only [exec, execKeyChange] at h
    exact whenPowered_acts (keyChange_acts key s) h
  | lineRunChange active =>
    simp only [exec, execLineRunChange] at h
    exact whenPowered_acts (lineRunChange_acts active s) h
  | grantStep =>
    simp only [exec, execGrantStep] at h
    refine whenPowered_acts ?_ h
    split
    · exact (examine_acts _).after rfl
    · exact .refl
  | windowExpiry stage =>
    simp only [exec, execWindowExpiry] at h
    refine whenPowered_acts ?_ h
    split
    · exact (expireOrHold_acts _ _ _).after rfl
    · exact .refl
  | foldSlotFire =>
    simp only [exec, execFoldSlotFire] at h
    refine whenPowered_acts ?_ h
    split
    · next hy =>
      split
      · exact fireSlot_acts (stop_of_nextFire hy) _
      · exact .refl
    · exact .refl
  | rejectSlotFire =>
    simp only [exec, execRejectSlotFire] at h
    refine whenPowered_acts ?_ h
    split
    · next hy =>
      split
      · exact fireReject_acts (stop_of_nextFire hy) _
      · exact .refl
    · exact .refl
  | dropSlotFire =>
    simp only [exec, execDropSlotFire] at h
    refine whenPowered_acts ?_ h
    split
    · next hy =>
      split
      · exact fireDrop_acts (stop_of_nextFire hy) _
      · exact .refl
    · exact .refl
  | idleUnbind slot =>
    simp only [exec, execIdleUnbind] at h
    refine whenPowered_acts ?_ h
    split
    · exact ((unbindLot_acts _ _).trans (examine_acts _)).after rfl
    · exact .refl
  | storeWriteEnd =>
    simp only [exec, execStoreWriteEnd] at h
    refine whenPowered_acts ?_ h
    split
    · exact .refl
    · split
      · exact Acts.still (storeEntry_panel s _ _)
      · exact Acts.still (storeEntry_panel s _ _)
  | reply =>
    simp only [exec, execReply] at h
    exact whenPowered_acts (Acts.still (sendReply_panel s)) h
  | lineQuiet chars =>
    simp only [exec, execLineQuiet] at h
    exact whenPowered_acts ((receiveChars_acts s chars).upTo rfl) h
  | frameDiscarded f =>
    simp only [exec, execFrameDiscarded] at h
    exact whenPowered_acts (receiveChars_acts s f) h
  | unknownRequest addr code body =>
    cases h
    split
    · exact .refl
    · exact takeFrame_acts addr code body s
  | loadButtonRelease k =>
    simp only [exec, execLoadButtonRelease] at h
    exact whenPowered_acts (Acts.still rfl) h
  | powerFail =>
    simp only [exec, execPowerFail] at h
    exact whenPowered_acts (failSupply_acts s) h
  | parityOrFramingError chars =>
    simp only [exec, execParityOrFramingError] at h
    refine whenPowered_acts ?_ h
    split
    · exact (receiveChars_acts s _).upTo rfl
    · exact .refl
  | lengthAbove240 addr code len =>
    simp only [exec, execLengthAbove240] at h
    refine whenPowered_acts ?_ h
    split
    · exact receiveChars_acts s _
    · exact .refl
  | _ => exact frame h

/-- Every step is a run of acts. -/
theorem step_acts {s t : State} (h : step s = .next t) : Acts s t := by
  unfold step at h
  split at h
  · cases h
    unfold idleTick
    split
    · exact Acts.still rfl
    · exact .refl
  · exact (exec_acts h).after rfl

end Sys2Proof.Machine

namespace Sys2Proof.Machine

open Sys2Proof

/-! ### What the acts keep of the stop, the feed, the latch and the stations -/

/-- What every act keeps is kept by a run of acts. -/
theorem Acts.keep {P : State → Prop} (hP : ∀ {s t}, Act s t → P s → P t) {s t : State} (h : Acts s t) (hs : P s) : P t := by
  induction h with
  | refl => exact hs
  | tail _ act ih => exact hP act ih

/-- A test of the table of blocking conditions that names a condition is passed by exactly when it fails. -/
theorem ite_eq_none {p : Prop} [Decidable p] {x y : Blocking} (hx : x ≠ .none) :
    (if p then x else y) = .none ↔ ¬p ∧ y = .none := by
  split
  · next hp => exact iff_of_false hx fun h => h.1 hp
  · next hp => exact (and_iff_right hp).symm

/-- The run conditions and the blocking condition agree but for a fault that holds the feed (R35, R40). -/
theorem blocking_none_iff (s : State) : blocking s = .none ↔ runConditions s = true ∧ faultHolds s = false := by
  have key : ¬s.inputs.key = .setup ↔ s.inputs.key = .run := by cases s.inputs.key <;> decide
  simp only [blocking, ite_eq_none, runConditions, key, ne_eq, reduceCtorEq, not_false_eq_true, Bool.not_eq_true,
    Bool.not_eq_false, Bool.and_eq_true, Bool.not_eq_true', decide_eq_true_eq, and_true]
  tauto

theorem runConditions_of_panel {s t : State} (h : t.panel = s.panel) : runConditions t = runConditions s := by
  obtain ⟨_, hist, windows, _, key, lineRun, stop, _, _, settings, valid, _⟩ := Panel.mk.inj h
  rw [Bool.eq_iff_iff, runConditions_iff, runConditions_iff, speed, speed, hist, windows, key, lineRun, stop, settings, valid]

theorem faultHolds_of_panel {s t : State} (h : t.panel = s.panel) : faultHolds t = faultHolds s := by
  obtain ⟨_, _, _, _, _, _, _, _, _, settings, _, latch⟩ := Panel.mk.inj h
  rw [faultHolds, faultHolds, settings, latch]

/-! #### The stop -/

/-- A latch request leaves a feed that is OFF as it is (R39). -/
theorem heldByFault_off (mode : FaultMode) : heldByFault mode .off = .off := by cases mode <;> rfl

/-- A table of channels that are all off, with one of them turned off. -/
theorem vmod_replicate_none {n : Nat} (i : Fin n) :
    vmod (Vector.replicate n (none : Option Nat)) i (fun _ => none) = Vector.replicate n none :=
  Vector.ext fun j hj => by rw [vmod_getElem, Vector.getElem_replicate, ite_self]

theorem turnOff_allOff (c : OutChannel) : turnOff Outputs.allOff c = Outputs.allOff := by
  cases c <;> simp only [turnOff, Outputs.allOff, vmod_replicate_none]

theorem turnOff_rel (o : Outputs) (c : OutChannel) : (turnOff o c).rel = o.rel := by cases c <;> rfl

/-- While ESTOP is active no act brings the feed on or an output on (R25, R124). -/
theorem Act.stopHolds {s t : State} (act : Act s t) (h : StopHolds s) : StopHolds t := by
  have inactive {u : State} (stop : u.inputs.estop = false) : StopHolds u := fun active => nomatch stop.symm.trans active
  -- in any feed state but OFF the stop is inactive
  have feeding (on : s.seq.feed ≠ .off) : s.inputs.estop = false := Bool.eq_false_iff.2 fun active => on (h active).1
  cases act with
  | still hp =>
    obtain ⟨_, _, _, _, _, _, stop, feed, out, _, _, _⟩ := Panel.mk.inj hp
    intro active
    rw [feed, out]
    exact h (stop.symm.trans active)
  | latch r =>
    intro active
    obtain ⟨off, out⟩ := h active
    refine ⟨?_, out⟩
    show heldByFault _ s.seq.feed = .off
    rw [off, heldByFault_off]
  | pulse f _ stop _ => exact inactive stop
  | pulseEnd c =>
    intro active
    obtain ⟨off, out⟩ := h active
    refine ⟨off, ?_⟩
    show turnOff s.sched.out c = _
    rw [out, turnOff_allOff]
  | station => exact h
  | grant k _ run _ => exact inactive (feeding fun off => nomatch run.symm.trans off)
  | relEnd k =>
    intro active
    obtain ⟨off, out⟩ := h active
    refine ⟨off, ?_⟩
    show { s.sched.out with rel := vmod s.sched.out.rel k fun _ => none } = Outputs.allOff
    rw [out]
    simp only [Outputs.allOff, vmod_replicate_none]
  | off => exact fun active => ⟨rfl, (h active).2⟩
  | pause _ hp => exact inactive (hp.elim (fun run => feeding fun off => nomatch run.symm.trans off) And.left)
  | run _ paused _ => exact inactive (feeding fun off => nomatch paused.symm.trans off)
  | held _ stop => exact inactive stop
  | acknowledged =>
    intro active
    obtain ⟨off, out⟩ := h active
    refine ⟨?_, out⟩
    show (if s.seq.feed = .held then FeedState.pause else s.seq.feed) = .off
    rw [off]
    rfl
  | conditions hc =>
    obtain ⟨_, _, _, hp⟩ := hc
    obtain ⟨_, _, _, _, _, _, stop, feed, out, _, _, _⟩ := Panel.mk.inj hp
    intro active
    rw [feed, out]
    exact h (stop.symm.trans active)
  | stop _ off => exact fun _ => ⟨off, rfl⟩
  | stopEnds => exact inactive rfl
  | key => exact h
  | settings => exact h
  | reset _ off out => exact fun _ => ⟨off, out⟩
  | supplyOff => exact fun active => ⟨(h active).1, rfl⟩

/-! #### The feed -/

/-- With the feed OFF nothing is asked of the rest. -/
theorem FeedRight.of_off {s : State} (off : s.seq.feed = .off) : FeedRight s where
  runsUnblocked run := nomatch run.symm.trans off
  onNeedsKey on := absurd off on
  heldByFault held := nomatch held.symm.trans off
  faultStops _ := .inl off

/-- In RUN or PAUSE no fault holds the feed (R39). -/
theorem FeedRight.noFault {s : State} (h : FeedRight s) (off : s.seq.feed ≠ .off) (held : s.seq.feed ≠ .held) :
    faultHolds s = false := Bool.eq_false_iff.2 fun hf => (h.faultStops hf).elim off held

/-- In PAUSE with ESTOP inactive and KEY at RUN all is right when no fault holds the feed. -/
theorem FeedRight.of_pause {s : State} (paused : s.seq.feed = .pause) (stop : s.inputs.estop = false)
    (key : s.inputs.key = .run) (free : faultHolds s = false) : FeedRight s where
  runsUnblocked run := nomatch run.symm.trans paused
  onNeedsKey _ := ⟨stop, key⟩
  heldByFault held := nomatch held.symm.trans paused
  faultStops hf := nomatch free.symm.trans hf

/-- In RUN all is right when the run conditions hold and no fault holds the feed. -/
theorem FeedRight.of_run {s : State} (run : s.seq.feed = .run) (conditions : runConditions s = true)
    (free : faultHolds s = false) : FeedRight s where
  runsUnblocked _ := (blocking_none_iff s).2 ⟨conditions, free⟩
  onNeedsKey _ := by
    obtain ⟨_, _, _, stop, key, _⟩ := (runConditions_iff s).1 conditions
    exact ⟨stop, key⟩
  heldByFault held := nomatch held.symm.trans run
  faultStops hf := nomatch free.symm.trans hf

/-- In HELD all is right when a fault holds the feed, with ESTOP inactive and KEY at RUN. -/
theorem FeedRight.of_held {s : State} (held : s.seq.feed = .held) (stop : s.inputs.estop = false)
    (key : s.inputs.key = .run) (fault : faultHolds s = true) : FeedRight s where
  runsUnblocked run := nomatch run.symm.trans held
  onNeedsKey _ := ⟨stop, key⟩
  heldByFault _ := fault
  faultStops _ := .inr held

/-- What the feed reads of the state is the feed state, ESTOP, KEY, the run conditions while it is in RUN, and whether a fault
holds it. -/
theorem FeedRight.congr {s t : State} (h : FeedRight s) (feed : t.seq.feed = s.seq.feed) (stop : t.inputs.estop = s.inputs.estop)
    (key : t.inputs.key = s.inputs.key) (fault : faultHolds t = faultHolds s)
    (run : s.seq.feed = .run → runConditions s = true → runConditions t = true) : FeedRight t where
  runsUnblocked hr := by
    obtain ⟨conditions, free⟩ := (blocking_none_iff s).1 (h.runsUnblocked (feed.symm.trans hr))
    exact (blocking_none_iff t).2 ⟨run (feed.symm.trans hr) conditions, fault.trans free⟩
  onNeedsKey on := by
    rw [stop, key]
    exact h.onNeedsKey fun off => on (feed.trans off)
  heldByFault held := fault.trans (h.heldByFault (feed.symm.trans held))
  faultStops hf := by
    rw [feed]
    exact h.faultStops (fault.symm.trans hf)

/-- A latch request holds a feed in RUN or PAUSE in fault mode HOLD, and holds nothing in CONTINUE (R39, R40). -/
theorem FeedRight.latched {s : State} (h : FeedRight s) (r : FaultReason) : FeedRight (latchFault r s) := by
  have latched : (s.latch.take r).latched = true := by
    unfold FaultLatch.take
    split
    · next hl => exact hl
    · rfl
  have fault : faultHolds (latchFault r s) = decide (s.prog.settings.faultMode = .hold) := by
    show ((s.latch.take r).latched && decide (s.prog.settings.faultMode = .hold)) = _
    rw [latched, Bool.true_and]
  have feed : (latchFault r s).seq.feed = Machine.heldByFault s.prog.settings.faultMode s.seq.feed := rfl
  cases hm : s.prog.settings.faultMode with
  | carryOn =>
    have free : faultHolds s = false := by simp [faultHolds, hm]
    exact h.congr (by rw [feed, hm]; rfl) rfl rfl (by rw [fault, hm, free]; rfl) fun _ => id
  | hold =>
    rw [hm] at feed fault
    by_cases off : s.seq.feed = .off
    · exact .of_off (by rw [feed, off]; rfl)
    · obtain ⟨stop, key⟩ := h.onNeedsKey off
      have held : Machine.heldByFault .hold s.seq.feed = .held := by
        cases hf : s.seq.feed with
        | off => exact absurd hf off
        | _ => rfl
      exact .of_held (feed.trans held) stop key fault

/-- Every act keeps the feed state right (R35 to R40). -/
theorem Act.feedRight {s t : State} (act : Act s t) (h : FeedRight s) : FeedRight t := by
  cases act with
  | still hp =>
    obtain ⟨_, _, _, _, key, _, stop, feed, _, _, _, _⟩ := Panel.mk.inj hp
    exact h.congr feed stop key (faultHolds_of_panel hp) fun _ hr => (runConditions_of_panel hp).trans hr
  | latch r => exact h.latched r
  | pulse => exact h.congr rfl rfl rfl rfl fun _ => id
  | pulseEnd => exact h.congr rfl rfl rfl rfl fun _ => id
  | station => exact h.congr rfl rfl rfl rfl fun _ => id
  | grant => exact h.congr rfl rfl rfl rfl fun _ => id
  | relEnd => exact h.congr rfl rfl rfl rfl fun _ => id
  | off => exact .of_off rfl
  | pause _ hp =>
    obtain ⟨stop, key, free⟩ : s.inputs.estop = false ∧ s.inputs.key = .run ∧ faultHolds s = false := by
      refine hp.elim (fun run => ?_) id
      obtain ⟨stop, key⟩ := h.onNeedsKey fun off => nomatch run.symm.trans off
      exact ⟨stop, key, h.noFault (fun off => nomatch run.symm.trans off) fun held => nomatch run.symm.trans held⟩
    exact .of_pause rfl stop key free
  | run _ paused conditions =>
    have free := h.noFault (fun off => nomatch paused.symm.trans off) fun held => nomatch paused.symm.trans held
    exact .of_run rfl conditions free
  | held _ stop key fault => exact .of_held rfl stop key fault
  | acknowledged =>
    by_cases held : s.seq.feed = .held
    · obtain ⟨stop, key⟩ := h.onNeedsKey fun off => nomatch held.symm.trans off
      exact .of_pause (if_pos held) stop key rfl
    · by_cases off : s.seq.feed = .off
      · exact .of_off ((if_neg held).trans off)
      · exact h.congr (if_neg held) rfl rfl (h.noFault off held).symm fun _ => id
  | conditions hc run =>
    obtain ⟨_, _, _, hp⟩ := hc
    obtain ⟨_, _, _, _, key, _, stop, feed, _, settings, _, latch⟩ := Panel.mk.inj hp
    have fault : faultHolds t = faultHolds s := by
      rw [faultHolds, faultHolds, settings, latch]
      rfl
    exact h.congr feed stop key fault run
  | stop _ off => exact .of_off off
  | stopEnds =>
    by_cases off : s.seq.feed = .off
    · exact .of_off off
    · obtain ⟨stop, _⟩ := h.onNeedsKey off
      refine h.congr rfl stop.symm rfl rfl fun _ hr => ?_
      obtain ⟨lineRun, windows, fast, -, key, valid⟩ := (runConditions_iff s).1 hr
      exact (runConditions_iff _).2 ⟨lineRun, windows, fast, rfl, key, valid⟩
  | key x _ setup =>
    by_cases off : s.seq.feed = .off
    · exact .of_off off
    · obtain ⟨_, key⟩ := h.onNeedsKey off
      have : x = .run := by
        cases x with
        | setup => exact absurd (setup rfl) off
        | run => rfl
      subst this
      refine h.congr rfl rfl key.symm rfl fun _ hr => ?_
      obtain ⟨lineRun, windows, fast, stop, -, valid⟩ := (runConditions_iff s).1 hr
      exact (runConditions_iff _).2 ⟨lineRun, windows, fast, stop, rfl, valid⟩
  | settings _ _ _ off => exact .of_off off
  | reset _ off => exact .of_off off
  | supplyOff => exact h.congr rfl rfl rfl rfl fun _ => id

/-! #### The latch -/

theorem reasonBit_ne_zero (r : FaultReason) : reasonBit r ≠ 0#7 := by cases r <;> decide

/-- A set with further reasons in it holds the reasons that it held. -/
theorem and_of_or {a c : ReasonSet} (b : ReasonSet) (h : a &&& c = c) : (a ||| b) &&& c = c := by grind

/-- A latch request keeps the first reason, and the set, as R163 gives. -/
theorem LatchRight.take {l : FaultLatch} (h : LatchRight l) (r : FaultReason) : LatchRight (l.take r) := by
  unfold FaultLatch.take
  split
  · next latched =>
    refine ⟨h.firstIff, iff_of_false (fun none => ?_) (by simp [latched]), fun q hq => ?_⟩
    · have : l.seen = 0#7 := (BitVec.or_eq_zero_iff.1 none).1
      exact absurd (h.seenIff.1 this) (by simp [latched])
    · exact and_of_or (reasonBit r) (h.firstSeen q hq)
  · refine ⟨rfl, iff_of_false (reasonBit_ne_zero r) nofun, fun q hq => ?_⟩
    cases hq
    exact BitVec.and_self

theorem latchRight_clear : LatchRight FaultLatch.clear := ⟨rfl, iff_of_true rfl rfl, nofun⟩

/-- Every act keeps the latch right (R163). -/
theorem Act.latchRight {s t : State} (act : Act s t) (h : LatchRight s.latch) : LatchRight t.latch := by
  cases act with
  | still hp =>
    obtain ⟨_, _, _, _, _, _, _, _, _, _, _, latch⟩ := Panel.mk.inj hp
    exact latch ▸ h
  | latch r => exact h.take r
  | acknowledged => exact latchRight_clear
  | conditions hc =>
    obtain ⟨_, _, _, hp⟩ := hc
    obtain ⟨_, _, _, _, _, _, _, _, _, _, _, latch⟩ := Panel.mk.inj hp
    exact latch ▸ h
  | reset _ _ _ latch => exact latch ▸ latchRight_clear
  | _ => exact h

/-- Settles O56: a step is a run of acts (`step_acts`), and every act keeps the stop, the feed and the latch right. -/
theorem stepKeepsTheStopTheFeedAndTheLatch : Obligations.StepKeepsTheStopTheFeedAndTheLatch := by
  intro s t h
  have acts := step_acts h
  exact ⟨acts.keep Act.stopHolds, acts.keep Act.feedRight, acts.keep (P := fun s => LatchRight s.latch) Act.latchRight⟩

/-! #### The stations -/

theorem stationRight_initial : StationRight Station.initial := ⟨nofun, fun _ => rfl, fun _ => rfl, nofun, by decide⟩

/-- A station that leaves RELEASING is IDLE or DISABLED, with no disable pending (R23). -/
theorem leaveReleasing_right {st : Station} (h : StationRight st) (hs : st.state = .releasing) :
    StationRight (leaveReleasing st) ∧ (leaveReleasing st).state ≠ .releasing := by
  have empty := h.releasing hs
  unfold leaveReleasing
  split
  · obtain ⟨current, next, he⟩ := applyNext_keeps { st with state := .disabled, disablePending := false }
    rw [he]
    exact ⟨⟨nofun, nofun, nofun, nofun, h.wait⟩, nofun⟩
  · next free =>
    obtain ⟨current, next, he⟩ := applyNext_keeps { st with state := .idle }
    rw [he]
    exact ⟨⟨nofun, fun _ => empty, nofun, fun g => absurd g free, h.wait⟩, nofun⟩

/-- Station k is right in s when the others are as they were in t, and a REL output matches its station. -/
theorem StationsRight.update {s t : State} (h : StationsRight s) (k : StationIx) (powered : t.powered = s.powered)
    (others : ∀ j, k ≠ j → t.stations[j] = s.stations[j] ∧ t.sched.out.rel[j] = s.sched.out.rel[j])
    (right : StationRight t.stations[k])
    (rel : s.powered = true → (t.stations[k].state = .releasing ↔ t.sched.out.rel[k].isSome)) : StationsRight t := by
  intro j
  by_cases hj : k = j
  · subst hj
    exact ⟨right, fun hp => rel (powered.symm.trans hp)⟩
  · obtain ⟨same, out⟩ := others j hj
    rw [same, out, powered]
    exact h j

theorem StationsRight.congr {s t : State} (h : StationsRight s) (powered : t.powered = s.powered)
    (stations : t.stations = s.stations) (rel : t.sched.out.rel = s.sched.out.rel) : StationsRight t := by
  intro k
  rw [powered, stations, rel]
  exact h k

/-- Every act keeps the station records right, and a station RELEASING exactly while its REL output is on (R19, R22, R23). -/
theorem Act.stationsRight {s t : State} (act : Act s t) (h : StationsRight s) : StationsRight t := by
  cases act with
  | still hp =>
    obtain ⟨powered, _, _, stations, _, _, _, _, out, _, _, _⟩ := Panel.mk.inj hp
    exact h.congr powered stations (congrArg Outputs.rel out)
  | pulse f _ _ rel => exact h.congr rfl rfl rel
  | pulseEnd c => exact h.congr rfl rfl (turnOff_rel _ c)
  | station k f _ right rel =>
    have same : (s.modStation k f).stations[k] = f s.stations[k] := vmod_get_same ..
    refine h.update k rfl (fun j hj => ⟨vmod_get_other _ _ hj, rfl⟩) ?_ fun hp => ?_
    · rw [same]
      exact right (h k).1
    · rw [same, rel]
      exact (h k).2 hp
  | grant k _ _ loaded =>
    have same : (stationGranted k s).stations[k] =
      { s.stations[k] with state := .releasing, snapshot := none, waitCount := 0, waitReason := .none } := vmod_get_same ..
    have on : (stationGranted k s).sched.out.rel[k] = some (s.line.now + s.prog.settings.wRel) := vmod_get_same ..
    refine h.update k rfl (fun j hj => ⟨vmod_get_other _ _ hj, vmod_get_other _ _ hj⟩) ?_ fun _ => ?_
    · rw [same]
      exact ⟨nofun, nofun, fun _ => rfl, fun _ => rfl, Nat.zero_le _⟩
    · rw [same, on]
      exact iff_of_true rfl rfl
  | relEnd k =>
    have same : (endRel k s).stations[k] =
      if s.stations[k].state = .releasing then leaveReleasing s.stations[k] else s.stations[k] := vmod_get_same ..
    have off : (endRel k s).sched.out.rel[k] = none := vmod_get_same ..
    refine h.update k rfl (fun j hj => ⟨vmod_get_other _ _ hj, vmod_get_other _ _ hj⟩) ?_ fun _ => ?_
    · rw [same]
      split
      · next hs => exact (leaveReleasing_right (h k).1 hs).1
      · exact (h k).1
    · rw [same, off]
      refine iff_of_false ?_ nofun
      split
      · next hs => exact (leaveReleasing_right (h k).1 hs).2
      · next hs => exact hs
  | conditions hc =>
    obtain ⟨_, _, _, hp⟩ := hc
    obtain ⟨powered, _, _, stations, _, _, _, _, out, _, _, _⟩ := Panel.mk.inj hp
    exact h.congr powered stations (congrArg Outputs.rel out)
  | stop _ _ rel =>
    have off : Outputs.allOff.rel = s.sched.out.rel :=
      Vector.ext fun i hi => (Vector.getElem_replicate ..).trans (rel ⟨i, hi⟩).symm
    exact h.congr rfl rfl off
  | reset stations _ out _ =>
    intro k
    have idle : t.stations[k] = Station.initial := by
      rw [stations]
      exact Vector.getElem_replicate ..
    have off : t.sched.out.rel[k] = none := by
      rw [out]
      exact Vector.getElem_replicate ..
    rw [idle, off]
    exact ⟨stationRight_initial, fun _ => iff_of_false nofun nofun⟩
  | supplyOff => exact fun k => ⟨(h k).1, nofun⟩
  | _ => exact h.congr rfl rfl rfl

/-- Settles O57: a step is a run of acts (`step_acts`), and every act keeps the stations right. -/
theorem stepKeepsTheStations : Obligations.StepKeepsTheStations :=
  fun _ _ hs h => (step_acts h).keep Act.stationsRight hs

end Sys2Proof.Machine

namespace Sys2Proof.Machine

open Sys2Proof

/-! ### One station changed -/

/-- A change of a station is what it does to the record that stands there. -/
theorem modStation_congr {s : State} {k : StationIx} {f g : Station → Station} (h : f s.stations[k] = g s.stations[k]) :
    s.modStation k f = s.modStation k g := by
  rw [State.modStation, State.modStation, vmod, vmod, h]

theorem modStation_same {s : State} {k : StationIx} {f : Station → Station} (h : f s.stations[k] = s.stations[k]) :
    s.modStation k f = s := by
  rw [State.modStation, vmod, h, Fin.getElem_fin, Vector.set_getElem_self]

/-- A station that leaves RELEASING, as R23 gives. -/
theorem leaveReleasing_eq (x : Station) : leaveReleasing x = leftReleasing x := by
  obtain ⟨state, current, next, snapshot, disablePending, waitCount, waitReason⟩ := x
  cases disablePending <;> cases next <;> rfl

/-! ### The panel inputs (R20, R37, R38) -/

/-- A press on an IDLE station with an assignment (R20). -/
theorem press_loads {k : StationIx} {s : State} {a : Assignment} (idle : s.stations[k].state = .idle)
    (current : s.stations[k].current = some a) :
    press k s = examine (s.modStation k fun x => { x with state := .loaded, snapshot := some a, waitReason := .none }) := by
  simp only [press, idle, current]

/-- Every other press is ignored (R20). -/
theorem press_ignored {k : StationIx} {s : State} (h : s.stations[k].state ≠ .idle ∨ s.stations[k].current = none) :
    press k s = s := by
  unfold press
  split
  · next idle current => exact absurd current (by rw [h.resolve_left (not_not.2 idle)]; nofun)
  · rfl

section
variable {s : State} (h : s.powered = true)
include h

theorem exec_loadPress (k : StationIx) :
    exec (.loadPress k) s = .next (if s.inputs.buttons[k] then s else press k (s.setButton k true)) := by
  simp only [exec, execLoadPress, whenPowered_on h]

theorem exec_keyChange (key : KeyPos) :
    exec (.keyChange key) s =
      .next
        (if key = .setup then { s with inputs := { s.inputs with key := key } }.setFeed .off
        else { s with inputs := { s.inputs with key := key } }) := by
  simp only [exec, execKeyChange, whenPowered_on h]

theorem exec_lineRunChange (active : Bool) :
    exec (.lineRunChange active) s =
      .next (runPause (!active) { s with inputs := { s.inputs with lineRun := active } }) := by
  simp only [exec, execLineRunChange, whenPowered_on h]

theorem exec_relPulseEnd_off {k : StationIx} (off : s.sched.out.rel[k] = none) : exec (.relPulseEnd k) s = .next s := by
  simp only [exec, execRelPulseEnd, whenPowered_on h, off]

theorem exec_relPulseEnd_on {k : StationIx} {t : Nat} (on : s.sched.out.rel[k] = some t) :
    exec (.relPulseEnd k) s = .next (endRel k (s.reachTime t)) := by
  simp only [exec, execRelPulseEnd, whenPowered_on h, on]

end

/-- Settles O44: a press by the station's state (`press_loads`, `press_ignored`), and LINE RUN by R37 (`runPause`). -/
theorem panelInputsAct : Obligations.PanelInputsAct := by
  intro s hp
  refine ⟨fun k => ⟨fun on => ?_, fun off => ⟨fun a idle current => ?_, fun ignored => ?_⟩, ?_⟩, ?_, ?_,
    fun active => ⟨fun run lost => ?_, fun paused ready => ?_, fun stays waits => ?_⟩⟩
  · rw [exec_loadPress hp, if_pos on]
  · rw [exec_loadPress hp, if_neg (by simp [off]), press_loads (s := s.setButton k true) idle current]
    rfl
  · rw [exec_loadPress hp, if_neg (by simp [off]), press_ignored (s := s.setButton k true) ignored]
    rfl
  · simp only [exec, execLoadButtonRelease, whenPowered_on hp]
    rfl
  · rw [exec_keyChange hp, if_pos rfl]
    rfl
  · rw [exec_keyChange hp, if_neg nofun]
  · rw [exec_lineRunChange hp, lost, Bool.not_false, runPause_lost]
    exact run
  · rw [exec_lineRunChange hp]
    exact congrArg _ (runPause_resumes _ paused ready)
  · rw [exec_lineRunChange hp, runPause_stays]
    · exact fun run => by simpa using fun lost => stays ⟨run, lost⟩
    · exact fun paused => Bool.eq_false_iff.2 fun ready => waits ⟨paused, ready⟩

/-! ### The ends of the pulses (R23, R113, R115) -/

theorem startRelease_eq (b : Bin) (s : State) : startRelease b s = s.releaseStarted b := by
  unfold startRelease State.releaseStarted
  simp only [retrigger_eq, vmod]
  cases h : s.lot.bins[b] <;> simp [State.modOut, State.setHeld, State.modLot, vmod, h]

/-- The end of a REL pulse (R23). -/
theorem endRel_eq (k : StationIx) (s : State) :
    endRel k s =
      { s with
        sched := { s.sched with out := { s.sched.out with rel := s.sched.out.rel.set k none } }
        stations :=
          if s.stations[k].state = .releasing then s.stations.set k (leftReleasing s.stations[k]) else s.stations } := by
  unfold endRel
  split
  · next hs =>
    rw [← leaveReleasing_eq]
    simp only [State.modStation, State.modOut, vmod, hs, if_true]
  · next hs =>
    rw [modStation_same (by exact if_neg hs)]
    rfl

theorem pulseOf_turnOff_same (o : Outputs) (c : OutChannel) : pulseOf (turnOff o c) c = none := by
  cases c with
  | pf w => exact vmod_get_same ..
  | bf b => exact vmod_get_same ..
  | sr b => exact vmod_get_same ..
  | _ => rfl

/-- A channel turned off leaves the others as they are. -/
theorem pulseOf_turnOff_other (o : Outputs) {c d : OutChannel} (h : d ≠ c) : pulseOf (turnOff o c) d = pulseOf o d := by
  cases c with
  | pf w =>
    cases d with
    | pf v => exact vmod_get_other _ _ fun e => h (e ▸ rfl)
    | _ => rfl
  | bf b =>
    cases d with
    | bf v => exact vmod_get_other _ _ fun e => h (e ▸ rfl)
    | _ => rfl
  | sr b =>
    cases d with
    | sr v => exact vmod_get_other _ _ fun e => h (e ▸ rfl)
    | _ => rfl
  | xf =>
    cases d with
    | xf => exact absurd rfl h
    | _ => rfl
  | rj =>
    cases d with
    | rj => exact absurd rfl h
    | _ => rfl

/-- The state once channel c has been turned off at the end t of its pulse (R113; log 1). -/
def State.ended (s : State) (c : OutChannel) (t : Nat) : State :=
  { s with line := { s.line with now := max s.line.now t }, sched := { s.sched with out := turnOff s.sched.out c } }

theorem exec_pulseEnd_bf {s : State} (hp : s.powered = true) {b : Bin} {t : Nat}
    (h : pulseOf s.sched.out (.bf b) = some t) : exec (.pulseEnd (.bf b)) s = .next (startHeld b (s.ended (.bf b) t)) := by
  simp only [exec, execPulseEnd, whenPowered_on hp, h]
  rfl

theorem exec_pulseEnd_other {s : State} (hp : s.powered = true) {c : OutChannel} {t : Nat}
    (h : pulseOf s.sched.out c = some t) (hc : ∀ b, c ≠ .bf b) : exec (.pulseEnd c) s = .next (s.ended c t) := by
  simp only [exec, execPulseEnd, whenPowered_on hp, h]
  cases c with
  | bf b => exact absurd rfl (hc b)
  | _ => rfl

/-- A release held for a bin starts when its flap closes with ESTOP inactive (R115). -/
theorem startHeld_starts {b : Bin} {s : State} (held : s.sched.held[b] = true) (stop : s.inputs.estop = false)
    (closed : s.sched.out.bf[b] = none) : startHeld b s = s.releaseStarted b := by
  rw [startHeld, if_pos (by simp [held, stop, closed]), startRelease_eq]

theorem startHeld_waits {b : Bin} {s : State} (h : s.sched.held[b] = false ∨ s.inputs.estop = true) : startHeld b s = s := by
  rw [startHeld, if_neg]
  rcases h with h | h <;> simp [h]

/-- Settles O45: a REL pulse by `endRel_eq`, any other by its channel, with the held release of R115 for a BF channel. -/
theorem pulseEndsTurnTheirChannelsOff : Obligations.PulseEndsTurnTheirChannelsOff := by
  intro s hp
  refine ⟨fun k => ⟨fun off => ?_, fun t on => ?_⟩, fun c => ⟨fun off => ?_, fun t on => ⟨?_, ?_, ?_⟩⟩⟩
  · exact exec_relPulseEnd_off hp off
  · exact (exec_relPulseEnd_on hp on).trans (congrArg _ (endRel_eq k (s.reachTime t)))
  · simp only [exec, execPulseEnd, whenPowered_on hp, off]
  · exact ⟨pulseOf_turnOff_same _ c, turnOff_rel _ c, fun d hd => pulseOf_turnOff_other _ hd⟩
  · rintro b rfl held stop
    rw [exec_pulseEnd_bf hp on]
    exact congrArg _ (startHeld_starts (s := s.ended (.bf b) t) held stop (pulseOf_turnOff_same _ (.bf b)))
  · intro waits
    by_cases hc : ∃ b, c = .bf b
    · obtain ⟨b, rfl⟩ := hc
      rw [exec_pulseEnd_bf hp on]
      exact congrArg _ (startHeld_waits (s := s.ended (.bf b) t) (waits b rfl))
    · exact exec_pulseEnd_other hp on fun b hb => hc ⟨b, hb⟩

/-! ### ESTOP active (R25, R38, R124) -/

/-- The slots that were due at this edge are marked, and no firing is due any longer (R124; log 27). -/
theorem markDue_eq (s : State) :
    markDue s =
      { s with
        sched :=
          { s.sched with
            slots := s.sched.slots.map fun y =>
              if Due.fire y.place ∈ s.due ∧ 0 ≤ posDiff s.line.p y.pos then { y with passed := true } else y }
        due := s.due.filter fun d => !isFire d } := by
  simp only [markDue, State.setSlots, atOrPast, Bool.and_eq_true, List.contains_iff_mem, decide_eq_true_eq]

/-- Settles O46: the four REL pulses end together (`endRels_eq`), and the due slots are marked (`markDue_eq`). -/
theorem estopActiveStopsEverything : Obligations.EstopActiveStopsEverything := by
  intro s hp
  refine ⟨fun active => ?_, fun inactive => ⟨stopAll s, ?_, fun k => ?_, ?_⟩⟩
  · simp only [exec, execEstopActive, whenPowered_on hp, if_pos active]
  · simp only [exec, execEstopActive, whenPowered_on hp, inactive, Bool.false_eq_true, if_false]
  · rw [stopAll, endRels_eq]
    refine (Vector.getElem_map ..).trans ?_
    simp only [leaveReleasing_eq]
    rfl
  · rw [stopAll, endRels_eq, markDue_eq]
    have fires : (fun d => !isFire d) = fun d : Due =>
        match d with
        | .firing => false
        | .fire _ => false
        | _ => true := by
      funext d
      cases d <;> rfl
    rw [fires]
    rfl

end Sys2Proof.Machine

namespace Sys2Proof.Machine

open Sys2Proof

/-! ### Tables searched from the front -/

/-- The first index with a property, in a table searched from its front. -/
theorem find?_finRange {n : Nat} {p : Fin n → Bool} {i : Fin n} (hi : p i = true) (h : ∀ j, j < i → p j = false) :
    (List.finRange n).find? p = some i := by
  refine List.find?_eq_some_iff_getElem.2 ⟨hi, i.val, by simp, by simp, fun j hj => ?_⟩
  rw [List.getElem_finRange, h _ (by exact hj)]
  rfl

theorem allLotSlots_eq : allLotSlots = List.finRange 8 := by decide

/-- A slot that is FREE or holds another id is passed by (R128). -/
theorem lotTest_false {l : Lot} {id : Nat} (h : l.state = .free ∨ l.id ≠ id) :
    (decide (l.state ≠ .free) && l.id == id) = false := by
  rcases h with h | h <;> simp [h]

/-- A lot id names the first slot not FREE that holds it (R128). -/
theorem lotOf?_first {s : State} {id : Nat} {i : LotSlot} (used : s.lot.lots[i].state ≠ .free) (hid : s.lot.lots[i].id = id)
    (first : ∀ j : LotSlot, j < i → s.lot.lots[j].state = .free ∨ s.lot.lots[j].id ≠ id) : s.lotOf? id = some i := by
  rw [State.lotOf?, allLotSlots_eq]
  refine find?_finRange ?_ fun j hj => lotTest_false (first j hj)
  rw [Bool.and_eq_true]
  exact ⟨decide_eq_true used, beq_iff_eq.2 hid⟩

/-- With ids that stand once, a lot id names the slot not FREE that holds it (R128). -/
theorem lotOf?_distinct {s : State} {id : Nat} {i : LotSlot}
    (distinct : ∀ i j : LotSlot, s.lot.lots[i].state ≠ .free → s.lot.lots[j].state ≠ .free →
      s.lot.lots[i].id = s.lot.lots[j].id → i = j)
    (used : s.lot.lots[i].state ≠ .free) (hid : s.lot.lots[i].id = id) : s.lotOf? id = some i := by
  refine lotOf?_first used hid fun j hj => ?_
  by_cases free : s.lot.lots[j].state = .free
  · exact .inl free
  · exact .inr fun g => absurd (distinct j i free used (g.trans hid.symm)) (ne_of_lt hj)

theorem lotOf?_none {s : State} {id : Nat} (h : ∀ i : LotSlot, s.lot.lots[i].state = .free ∨ s.lot.lots[i].id ≠ id) :
    s.lotOf? id = none :=
  List.find?_eq_none.2 fun i _ => Bool.eq_false_iff.1 (lotTest_false (h i))

/-! ### The numbers of a body -/

theorem stationOf_some {n : Nat} {k : StationIx} (h : n = k.val + 1) : stationOf n = some k := by
  subst h
  exact dif_pos ⟨by omega, by omega⟩

theorem stationOf_none {n : Nat} (h : n = 0 ∨ 4 < n) : stationOf n = none := dif_neg (by omega)

theorem programOf_some {n : Nat} {ix : ProgramIx} (h : n = ix.val) : programOf n = some ix := by
  subst h
  exact dif_pos ix.isLt

theorem programOf_none {n : Nat} (h : 32 ≤ n) : programOf n = none := dif_neg (by omega)

theorem rd8_first (a : Byte) (l : List Byte) : rd8 (a :: l) 0 = a.toNat := rfl

theorem rd8_second (a b : Byte) (l : List Byte) : rd8 (a :: b :: l) 1 = b.toNat := rfl

theorem rd16_first (a b : Byte) (l : List Byte) : rd16 (a :: b :: l) 0 = a.toNat + 256 * b.toNat := rfl

theorem rd16_third (a b c d : Byte) (l : List Byte) : rd16 (a :: b :: c :: d :: l) 2 = c.toNat + 256 * d.toNat := rfl

/-- Two characters that are not both 0 are not the number 0. -/
theorem word_ne_zero {lo hi : Byte} (h : ¬(lo = 0 ∧ hi = 0)) : ¬lo.toNat + 256 * hi.toNat = 0 := fun g =>
  h ⟨BitVec.eq_of_toNat_eq (show lo.toNat = 0 by omega), BitVec.eq_of_toNat_eq (show hi.toNat = 0 by omega)⟩

/-! ### ASSIGN (R26, R27) -/

/-- A station with a new assignment: in effect at once while it is IDLE or DISABLED, and otherwise its next one (R27). -/
def assigned (a : Option Assignment) (x : Station) : Station :=
  if x.state = .idle ∨ x.state = .disabled then { x with current := a, next := .absent }
  else { x with next := a.elim .clear .pair }

theorem assignStation_eq (a : Option Assignment) (x : Station) :
    assignStation a x = (assigned a x, if x.state = .idle ∨ x.state = .disabled then 1 else 2) := by
  unfold assignStation assigned
  cases x.state <;> rfl

theorem carryAssign_eq (k : StationIx) (a : Option Assignment) (s : State) :
    carryAssign k a s =
      (s.modStation k (assigned a),
        .reply [if s.stations[k].state = .idle ∨ s.stations[k].state = .disabled then 1 else 2]) := by
  have same : s.modStation k (fun _ => assigned a s.stations[k]) = s.modStation k (assigned a) := modStation_congr rfl
  simp only [carryAssign, assignStation_eq, same]

section
variable {s : State} {addr st pr lo hi : Byte} (h : Takes s addr)
include h

theorem assign_refused {why : RefuseReason} 
    (ho : assignOwner [st, pr, lo, hi] (s.received addr 0x11 [st, pr, lo, hi]) =
      (s.received addr 0x11 [st, pr, lo, hi], .refuse why)) :
    exec (.assign addr [st, pr, lo, hi]) s = .next (s.turnedAway addr 0x11 [st, pr, lo, hi] why) :=
  congrArg Host.Outcome.next (takeFrame_refuse (code := 0x11) (body := [st, pr, lo, hi]) h (by simp) rfl rfl ho)

theorem assign_accepted {k : StationIx} {a : Option Assignment}
    (ho : assignOwner [st, pr, lo, hi] (s.received addr 0x11 [st, pr, lo, hi]) =
      carryAssign k a (s.received addr 0x11 [st, pr, lo, hi])) :
    exec (.assign addr [st, pr, lo, hi]) s =
      .next
        (((s.received addr 0x11 [st, pr, lo, hi]).modStation k (assigned a)).answered addr 0x11
          [if s.stations[k].state = .idle ∨ s.stations[k].state = .disabled then 1 else 2]) :=
  congrArg Host.Outcome.next
    (takeFrame_reply (code := 0x11) (body := [st, pr, lo, hi]) h (by simp) rfl rfl (ho.trans (carryAssign_eq k a _)))

end

theorem assignOwner_badStation {st pr lo hi : Byte} (bad : st.toNat = 0 ∨ 4 < st.toNat) (s : State) :
    assignOwner [st, pr, lo, hi] s = (s, .refuse .badIndex) := by
  simp only [assignOwner, rd8_first, stationOf_none bad]

theorem assignOwner_clears {st pr : Byte} {k : StationIx} (hk : st.toNat = k.val + 1) (s : State) :
    assignOwner [st, pr, 0, 0] s = carryAssign k none s := by
  simp only [assignOwner, rd8_first, stationOf_some hk]
  rfl

section
variable {st pr lo hi : Byte} {k : StationIx} {s : State} (hk : st.toNat = k.val + 1) (named : ¬(lo = 0 ∧ hi = 0))
include hk named

/-- A program or a lot id that names nothing is refused (R26). -/
theorem assignOwner_badName (bad : 32 ≤ pr.toNat ∨ s.lotOf? (lo.toNat + 256 * hi.toNat) = none) :
    assignOwner [st, pr, lo, hi] s = (s, .refuse .badIndex) := by
  simp only [assignOwner, rd8_first, rd8_second, rd16_third, stationOf_some hk, word_ne_zero named, if_false]
  rcases bad with bad | bad
  · rw [programOf_none bad]
  · rw [bad]
    cases programOf pr.toNat <;> rfl

/-- A lot that is CLOSING is refused, and one that is OPEN assigned (R26, R27). -/
theorem assignOwner_named {ix : ProgramIx} {i : LotSlot} (hix : pr.toNat = ix.val)
    (found : s.lotOf? (lo.toNat + 256 * hi.toNat) = some i) :
    assignOwner [st, pr, lo, hi] s =
      if s.lot.lots[i].state = .opened then
        carryAssign k (some { program := ix, lotId := lo.toNat + 256 * hi.toNat }) s
      else (s, .refuse .wrongState) := by
  simp only [assignOwner, rd8_first, rd8_second, rd16_third, stationOf_some hk, word_ne_zero named, if_false,
    programOf_some hix, found]

end

/-- Settles O15: the checks of R26 in their order, and then `carryAssign_eq`. -/
theorem assignActsByTheStationState : Obligations.AssignActsByTheStationState := by
  intro addr st pr lo hi s h distinct
  refine ⟨fun bad => assign_refused h (assignOwner_badStation bad _), fun k hk => ⟨?_, fun named => ⟨fun bad => ?_,
    fun ix i hix hid => ⟨fun closing => ?_, fun opened => ?_⟩⟩⟩⟩
  · rintro rfl rfl
    exact assign_accepted h (a := none) (assignOwner_clears hk _)
  · exact assign_refused h (assignOwner_badName hk named (bad.imp_right fun free => lotOf?_none free))
  · refine assign_refused h ?_
    have used : s.lot.lots[i].state ≠ .free := by rw [closing]; nofun
    rw [assignOwner_named hk named hix (lotOf?_distinct (s := s.received addr 0x11 [st, pr, lo, hi]) distinct used hid)]
    exact if_neg fun opened : s.lot.lots[i].state = .opened => nomatch closing.symm.trans opened
  · refine assign_accepted h (a := some { program := ix, lotId := lo.toNat + 256 * hi.toNat }) ?_
    have used : s.lot.lots[i].state ≠ .free := by rw [opened]; nofun
    rw [assignOwner_named hk named hix (lotOf?_distinct (s := s.received addr 0x11 [st, pr, lo, hi]) distinct used hid)]
    exact if_pos opened

/-! ### STATION ENABLE (R29 to R32) -/

section
variable {s : State} {addr : Byte} (h : Takes s addr) {st act : Byte}
include h

/-- A STATION ENABLE that its owner refuses; its three rows act by the body (log 20). -/
theorem stationEnable_refused {why : RefuseReason}
    (ho : enableOwner [st, act] (s.received addr 0x12 [st, act]) = (s.received addr 0x12 [st, act], .refuse why)) :
    Host.Outcome.next (φ := Fault) (ρ := Refusal) (takeFrame addr 0x12 [st, act] s) =
      .next (s.turnedAway addr 0x12 [st, act] why) :=
  congrArg _ (takeFrame_refuse (code := 0x12) (body := [st, act]) h (by simp) rfl rfl ho)

theorem stationEnable_replies {t : State} {reply : List Byte}
    (ho : enableOwner [st, act] (s.received addr 0x12 [st, act]) = (t, .reply reply)) :
    Host.Outcome.next (φ := Fault) (ρ := Refusal) (takeFrame addr 0x12 [st, act] s) = .next (t.answered addr 0x12 reply) :=
  congrArg _ (takeFrame_reply (code := 0x12) (body := [st, act]) h (by simp) rfl rfl ho)

end

theorem enableOwner_badIndex {st act : Byte} (bad : st.toNat = 0 ∨ 4 < st.toNat) (s : State) :
    enableOwner [st, act] s = (s, .refuse .badIndex) := by
  simp only [enableOwner, rd8_first, stationOf_none bad]

section
variable {st : Byte} {k : StationIx} (hk : st.toNat = k.val + 1) (s : State)
include hk

theorem enableOwner_badValue {act : Byte} (ha : 2 < act.toNat) : enableOwner [st, act] s = (s, .refuse .badValue) := by
  obtain ⟨n, hn⟩ : ∃ n, act.toNat = n + 3 := ⟨act.toNat - 3, by omega⟩
  simp only [enableOwner, rd8_first, rd8_second, stationOf_some hk, hn]

theorem enableOwner_disable : enableOwner [st, 0] s = doDisable k s := by
  simp only [enableOwner, rd8_first, stationOf_some hk]
  rfl

theorem enableOwner_enable : enableOwner [st, 1] s = doEnable k s := by
  simp only [enableOwner, rd8_first, stationOf_some hk]
  rfl

theorem enableOwner_clear : enableOwner [st, 2] s = doClear k s := by
  simp only [enableOwner, rd8_first, stationOf_some hk]
  rfl

end

/-- The reply of a request that has changed station k (R30). -/
theorem enableReply_modStation (k : StationIx) (f : Station → Station) (s : State) :
    enableReply k (s.modStation k f) = (s.modStation k f, .reply [stationCode (f s.stations[k]).state]) := by
  have same : (s.modStation k f).stations[k] = f s.stations[k] := vmod_get_same ..
  rw [enableReply, same]

section
variable {k : StationIx} {s : State}

/-- DISABLE does to the station what it does to one of its state (R30). -/
theorem doDisable_eq {g : Station → Station} {code : Byte} (h : disableStation s.stations[k] = g s.stations[k])
    (hc : stationCode (g s.stations[k]).state = code) : doDisable k s = (s.modStation k g, .reply [code]) := by
  rw [doDisable, modStation_congr h, enableReply_modStation, hc]

/-- ENABLE of a station that it does not load does to it what it does to one of its state (R31). -/
theorem doEnable_eq {g : Station → Station} {code : Byte} (h : enableStation s.stations[k] = g s.stations[k])
    (hc : stationCode (g s.stations[k]).state = code)
    (stays : s.stations[k].state = .disabled → ¬s.stations[k].snapshot.isSome = true) :
    doEnable k s = (s.modStation k g, .reply [code]) := by
  have loads : ¬(decide (s.stations[k].state = .disabled) && s.stations[k].snapshot.isSome) = true := by
    rw [Bool.and_eq_true, decide_eq_true_eq]
    exact fun g => stays g.1 g.2
  rw [doEnable, if_neg loads, modStation_congr h, enableReply_modStation, hc]

/-- ENABLE of a DISABLED station with a snapshot loads it, and the stations are examined (R31, R45). -/
theorem doEnable_loads (disabled : s.stations[k].state = .disabled) (snapshot : s.stations[k].snapshot.isSome = true) :
    doEnable k s = enableReply k (examine (s.modStation k fun x => { x with state := .loaded })) := by
  have loads : (decide (s.stations[k].state = .disabled) && s.stations[k].snapshot.isSome) = true := by
    rw [disabled, snapshot]
    rfl
  have enabled : enableStation s.stations[k] = { s.stations[k] with state := .loaded } := by
    simp only [enableStation, disabled, snapshot, if_true]
  rw [doEnable, if_pos loads, modStation_congr (g := fun x => { x with state := .loaded }) enabled]

end

/-- Settles O16: the checks of R29, and then the action by the station's state. -/
theorem stationEnableActsByTheStationState : Obligations.StationEnableActsByTheStationState := by
  intro addr st s h
  refine ⟨fun act ha => stationEnable_refused h ?_,
    fun bad => ⟨stationEnable_refused h (enableOwner_badIndex bad _), stationEnable_refused h (enableOwner_badIndex bad _),
      stationEnable_refused h (enableOwner_badIndex bad _)⟩,
    fun k hk => ⟨?_, ?_⟩⟩
  · split
    · next good => exact enableOwner_badValue (k := ⟨st.toNat - 1, by omega⟩) (Nat.sub_add_cancel good.1).symm _ ha
    · next bad => exact enableOwner_badIndex (by omega) _
  · let r := s.received addr 0x12 [st, 0]
    have disabled {g : Station → Station} {code : Byte} (hg : disableStation s.stations[k] = g s.stations[k])
        (hc : stationCode (g s.stations[k]).state = code) :=
      stationEnable_replies h ((enableOwner_disable hk r).trans (doDisable_eq (s := r) (k := k) hg hc))
    split
    · next hs => exact disabled (by simp only [disableStation, hs]) rfl
    · next hs => exact disabled (by simp only [disableStation, hs]) rfl
    · next hs => exact disabled (by simp only [disableStation, hs]) (by rw [hs]; rfl)
    · next hs =>
      have same : (s.told addr 0x12 [st, 0] [0]) = (r.modStation k id).answered addr 0x12 [0] := by
        rw [modStation_same rfl]
        rfl
      rw [same]
      exact disabled (by simp only [disableStation, hs, id]) (by rw [id, hs]; rfl)
  · let r := s.received addr 0x12 [st, 1]
    have enabled {g : Station → Station} {code : Byte} (hg : enableStation s.stations[k] = g s.stations[k])
        (hc : stationCode (g s.stations[k]).state = code)
        (stays : s.stations[k].state = .disabled → ¬s.stations[k].snapshot.isSome = true) :=
      stationEnable_replies h ((enableOwner_enable hk r).trans (doEnable_eq (s := r) (k := k) hg hc stays))
    have told (code : Byte) : (s.told addr 0x12 [st, 1] [code]) = (r.modStation k id).answered addr 0x12 [code] := by
      rw [modStation_same rfl]
      rfl
    split
    · next hs =>
      split
      · next snapshot => exact stationEnable_replies h ((enableOwner_enable hk r).trans (doEnable_loads hs snapshot))
      · next empty => exact enabled (by simp only [enableStation, hs, if_neg empty]) rfl fun _ => empty
    · next hs => exact enabled (by simp only [enableStation, hs]) (by rw [hs]; rfl) fun g => nomatch hs.symm.trans g
    · next hs =>
      rw [told]
      exact enabled (by simp only [enableStation, hs, id]) (by rw [id, hs]; rfl) fun g => nomatch hs.symm.trans g
    · next hs =>
      rw [told]
      exact enabled (by simp only [enableStation, hs, id]) (by rw [id, hs]; rfl) fun g => nomatch hs.symm.trans g

/-- A DISABLED station after a CLEAR (R32). -/
def cleared (x : Station) : Station := if x.snapshot.isSome then applyNext { x with snapshot := none } else x

/-- CLEAR does to a DISABLED station what it does to one of its snapshot and next assignment (R32). -/
theorem doClear_eq {k : StationIx} {s : State} {g : Station → Station} (disabled : s.stations[k].state = .disabled)
    (h : cleared s.stations[k] = g s.stations[k]) (hg : (g s.stations[k]).state = .disabled) :
    doClear k s = (s.modStation k g, .reply [0]) := by
  have carried : doClear k s = enableReply k (s.modStation k cleared) := if_pos disabled
  rw [carried, modStation_congr h, enableReply_modStation, hg]
  rfl

/-- Settles O17: CLEAR by the state of the station, its snapshot and its next assignment. -/
theorem clearRemovesTheSnapshotOfADisabledStation : Obligations.ClearRemovesTheSnapshotOfADisabledStation := by
  intro addr st k s h hk
  let r := s.received addr 0x12 [st, 2]
  refine ⟨fun on => stationEnable_refused h ((enableOwner_clear hk r).trans (if_neg on)), fun disabled empty => ?_,
    fun disabled snapshot => stationEnable_replies h ((enableOwner_clear hk r).trans (doClear_eq disabled ?_ ?_))⟩
  · have told : (s.told addr 0x12 [st, 2] [0]) = (r.modStation k id).answered addr 0x12 [0] := by
      rw [modStation_same rfl]
      rfl
    rw [told]
    refine stationEnable_replies h ((enableOwner_clear hk r).trans (doClear_eq (g := id) disabled (if_neg ?_) disabled))
    rw [show r.stations[k].snapshot = none from empty]
    nofun
  · exact (if_pos (Option.isSome_iff_ne_none.2 snapshot)).trans rfl
  · split
    · exact disabled
    · exact disabled
    · exact disabled

/-! ### The requests that read (R33, R72, R141, R150, R154, R161, R165) -/

/-- A read request is answered on the state with its frame in the buffer, which it leaves as it is. -/
theorem takeFrame_told {s : State} {addr code : Byte} {body reply : List Byte} (h : Takes s addr) (hb : body.length ≤ 240)
    (hc : knownCodes.contains code = true) (hl : lengthFits code body.length = true)
    (ho : ownerOf code body (s.received addr code body) = (s.received addr code body, .reply reply)) :
    Host.Outcome.next (φ := Fault) (ρ := Refusal) (takeFrame addr code body s) = .next (s.told addr code body reply) :=
  congrArg _ (takeFrame_reply h hb hc hl ho)

theorem takeFrame_turnedAway {s : State} {addr code : Byte} {body : List Byte} {why : RefuseReason} (h : Takes s addr)
    (hb : body.length ≤ 240) (hc : knownCodes.contains code = true) (hl : lengthFits code body.length = true)
    (ho : ownerOf code body (s.received addr code body) = (s.received addr code body, .refuse why)) :
    Host.Outcome.next (φ := Fault) (ρ := Refusal) (takeFrame addr code body s) = .next (s.turnedAway addr code body why) :=
  congrArg _ (takeFrame_refuse h hb hc hl ho)

theorem stationReadOwner_some {b : Byte} {k : StationIx} (h : b.toNat = k.val + 1) (s : State) :
    stationReadOwner [b] s = (s, .reply (stationBytes s k)) := by
  simp only [stationReadOwner, rd8_first, stationOf_some h]

theorem stationReadOwner_none {b : Byte} (h : b.toNat = 0 ∨ 4 < b.toNat) (s : State) :
    stationReadOwner [b] s = (s, .refuse .badIndex) := by
  simp only [stationReadOwner, rd8_first, stationOf_none h]

theorem lotReadOwner_some {lo hi : Byte} {i : LotSlot} {s : State} (h : s.lotOf? (lo.toNat + 256 * hi.toNat) = some i) :
    lotReadOwner [lo, hi] s = (s, .reply (lotBytes i s.lot.lots[i])) := by
  simp only [lotReadOwner, rd16_first, h]

theorem lotReadOwner_none {lo hi : Byte} {s : State} (h : s.lotOf? (lo.toNat + 256 * hi.toNat) = none) :
    lotReadOwner [lo, hi] s = (s, .refuse .badIndex) := by
  simp only [lotReadOwner, rd16_first, h]

theorem programReadOwner_some {b : Byte} {ix : ProgramIx} (h : b.toNat = ix.val) (s : State) :
    programReadOwner [b] s = (s, .reply (programReadBytes s ix)) := by
  simp only [programReadOwner, rd8_first, programOf_some h]

theorem programReadOwner_none {b : Byte} (h : 32 ≤ b.toNat) (s : State) :
    programReadOwner [b] s = (s, .refuse .badIndex) := by
  simp only [programReadOwner, rd8_first, programOf_none h]

theorem pieceReadOwner_some {lo hi : Byte} {r : Piece} {s : State} (h : s.piece? (lo.toNat + 256 * hi.toNat) = some r) :
    pieceReadOwner [lo, hi] s = (s, .reply (pieceBytes s r)) := by
  simp only [pieceReadOwner, rd16_first, h]

theorem pieceReadOwner_none {lo hi : Byte} {s : State} (h : s.piece? (lo.toNat + 256 * hi.toNat) = none) :
    pieceReadOwner [lo, hi] s = (s, .refuse .badIndex) := by
  simp only [pieceReadOwner, rd16_first, h]

/-- A tag that no record in use holds names none. -/
theorem piece?_none {s : State} {tag : Nat} (h : ∀ r ∈ s.track.pool, r.tag ≠ tag) : s.piece? tag = none :=
  List.find?_eq_none.2 fun r hr => by simpa using h r hr

theorem logPeekOwner_within {n : Byte} (h1 : 1 ≤ n.toNat) (h8 : n.toNat ≤ 8) (s : State) :
    logPeekOwner [n] s =
      (s, .reply ([b8 s.log.entries.length, boolByte s.log.dropped] ++
        (s.log.entries.take n.toNat).flatMap entryBytes)) := by
  have fits : within 1 8 n.toNat = true := by simp [within, h1, h8]
  simp only [logPeekOwner, rd8_first, fits, if_true]

theorem logPeekOwner_outside {n : Byte} (h : n.toNat = 0 ∨ 8 < n.toNat) (s : State) :
    logPeekOwner [n] s = (s, .refuse .badValue) := by
  have misfits : within 1 8 n.toNat = false := by
    rw [within, Bool.and_eq_false_iff, decide_eq_false_iff_not, decide_eq_false_iff_not]
    omega
  simp only [logPeekOwner, rd8_first, misfits, Bool.false_eq_true, if_false]

/-- Settles O18, request by request: each owner finds what the body names, or refuses it, on an unchanged state. -/
theorem readRequestsReplyAndChangeNothing : Obligations.ReadRequestsReplyAndChangeNothing := by
  intro addr s h
  refine ⟨fun b k hk => ?_, fun lo hi i used hid first => ?_, fun b ix hix => ?_, ?_, fun lo hi r hr => ?_,
    fun n h1 h8 => ?_, ?_, fun b bad => ?_, fun lo hi none => ?_, fun b bad => ?_, fun lo hi none => ?_, fun n bad => ?_⟩
  · exact takeFrame_told (code := 0x13) h (by simp) rfl rfl (stationReadOwner_some hk _)
  · exact takeFrame_told (code := 0x22) h (by simp) rfl rfl (lotReadOwner_some (lotOf?_first used hid first))
  · exact takeFrame_told (code := 0x31) h (by simp) rfl rfl (programReadOwner_some hix _)
  · exact takeFrame_told (code := 0x33) h (by simp) rfl rfl rfl
  · exact takeFrame_told (code := 0x40) h (by simp) rfl rfl (pieceReadOwner_some hr)
  · exact takeFrame_told (code := 0x50) h (by simp) rfl rfl (logPeekOwner_within h1 h8 _)
  · exact takeFrame_told (code := 0x53) h (by simp) rfl rfl rfl
  · exact takeFrame_turnedAway (code := 0x13) h (by simp) rfl rfl (stationReadOwner_none bad _)
  · exact takeFrame_turnedAway (code := 0x22) h (by simp) rfl rfl (lotReadOwner_none (lotOf?_none none))
  · exact takeFrame_turnedAway (code := 0x31) h (by simp) rfl rfl (programReadOwner_none bad _)
  · exact takeFrame_turnedAway (code := 0x40) h (by simp) rfl rfl (pieceReadOwner_none (piece?_none none))
  · exact takeFrame_turnedAway (code := 0x50) h (by simp) rfl rfl (logPeekOwner_outside bad _)

/-! ### RESTART (R179) -/

/-- The state after RESTART but for its eyes (R34, R75, R127, R143, R148, R166, R179). -/
def restarted (s : State) : State :=
  { s with
    stations := Vector.replicate 4 Station.initial
    seq := Sequencer.initial s.line.p
    track := TrackStore.initial
    sched := Scheduler.initial
    lot := LotUnit.initial
    prog :=
      { s.prog with
        staged := Vector.replicate 32 none, inFlight := Vector.replicate 32 0
        queue := s.prog.queue.map fun w => { w with replies := false } }
    log := CompletionLog.initial
    latch := FaultLatch.clear
    link := { s.link with owed := none }
    due := []
    heldExpiry := [] }

/-- RESTART takes every eye up afresh, and the rest as `restarted` says (R18, R179). -/
theorem restartAll_eq (s : State) :
    ∃ u, restartAll s = { restarted s with eyes := u } ∧
      ∀ e, u[eyeIx e] = eyeTakenUp s.prog.settings.lanes s.line e (s.eye e) := by
  obtain ⟨u, hu, hget⟩ := resetEyes_eq
    { s with
      stations := Vector.replicate 4 Station.initial
      seq := Sequencer.initial s.line.p
      track := TrackStore.initial
      sched := Scheduler.initial
      lot := LotUnit.initial
      prog := { s.prog with staged := Vector.replicate 32 none, inFlight := Vector.replicate 32 0 }
      log := CompletionLog.initial
      latch := FaultLatch.clear
      due := []
      heldExpiry := [] }
  refine ⟨u, ?_, hget⟩
  rw [restartAll, hu]
  rfl

theorem restartAll_link (s : State) : (restartAll s).link = { s.link with owed := none } := by
  obtain ⟨u, hu, -⟩ := restartAll_eq s
  rw [hu]
  rfl

/-- A RESTART that is heard is carried out, and answered with an empty body if it was addressed (R172, R179). -/
theorem exec_restart {addr : Byte} {s : State} (h : TakesAny s addr) :
    exec (.restart addr []) s =
      .next
        { restartAll (s.received addr 0x62 []) with
          link :=
            { s.link with
              rx := .skipping, buffer := frameBytes addr 0x62 []
              owed := if addr = 0 ∨ s.link.quiet = true then none
                else some { code := 0x62, body := [], awaitsStore := false } } } := by
  have link := restartAll_link (s.received addr 0x62 [])
  have carried : carryOut 0x62 [] (ownerOf 0x62 []) (s.received addr 0x62 []) =
      (restartAll (s.received addr 0x62 []), .reply []) :=
    carryOut_fits _ _ rfl rfl
  have taken : takeFrame addr 0x62 [] s =
      if addr = 0 then restartAll (s.received addr 0x62 [])
      else (restartAll (s.received addr 0x62 [])).answered addr 0x62 [] := by
    obtain ⟨hears, zero | addressed⟩ := h
    · subst zero
      rw [takeFrame_broadcast hears 0x62 [] (by simp) rfl, carried, if_pos rfl]
    · rw [takeFrame_takes ⟨hears, addressed⟩ 0x62 [] (by simp), carried, if_neg addressed.1]
      exact owe_reply _ _ _ _ addressed.1
  refine (congrArg Host.Outcome.next taken).trans (congrArg _ ?_)
  generalize restartAll (s.received addr 0x62 []) = t at link
  have quiet : t.link.quiet = s.link.quiet := by rw [link]; rfl
  have unanswered : t = { t with link := { s.link with rx := .skipping, buffer := frameBytes addr 0x62 [], owed := none } } :=
    congrArg (fun l => { t with link := l }) link
  rw [State.answered, quiet]
  by_cases zero : addr = 0
  · rw [if_pos zero, if_pos (.inl zero)]
    exact unanswered
  · rw [if_neg zero]
    split
    · exact unanswered
    · rw [link]
      rfl

/-- An eye taken up at its input keeps its level, and a dark one of an enabled lane begins an interval (R10, R18). -/
theorem eyeTakenUp_spec (lanes : LaneSet) (l : LineUnit) (e : Eye) (x : EyeRec) :
    (eyeTakenUp lanes l e x).dark = x.dark ∧ (eyeTakenUp lanes l e x).darkTravel = 0 ∧
      (eyeTakenUp lanes l e x).state =
        (if eyeEnabled lanes e = true ∧ x.dark = true then (if l.dir = .forward then .pending else .dropped) else .light) ∧
      ((eyeTakenUp lanes l e x).state = .pending → (eyeTakenUp lanes l e x).cLead = l.p) := by
  unfold eyeTakenUp
  by_cases dark : eyeEnabled lanes e = true ∧ x.dark = true
  · by_cases forward : l.dir = .forward
    · simp only [if_pos dark, if_pos forward, true_and, implies_true]
    · simp only [if_pos dark, if_neg forward, true_and]
      exact nofun
  · simp only [if_neg dark, true_and]
    exact nofun

/-- Settles O13: the values of `restarted`, with every eye taken up afresh (`restartAll_eq`). -/
theorem restartResetsEveryBlock : Obligations.RestartResetsEveryBlock := by
  intro addr s h
  obtain ⟨u, hu, hget⟩ := restartAll_eq (s.received addr 0x62 [])
  have hx := exec_restart h
  rw [hu] at hx
  refine ⟨_, hx, rfl, rfl, rfl, rfl, rfl, rfl, rfl, fun e => ?_, rfl, rfl, rfl, rfl, rfl, rfl, rfl⟩
  have taken := eyeTakenUp_spec s.prog.settings.lanes s.line e (s.eye e)
  have he : u[eyeIx e] = eyeTakenUp s.prog.settings.lanes s.line e (s.eye e) := hget e
  rw [← he] at taken
  exact taken

end Sys2Proof.Machine

namespace Sys2Proof.Machine

open Sys2Proof

/-! ### The state after reset (R34, R59, R75, R127, R143, R166) -/

theorem reset_lots (i : LotSlot) : State.reset.lot.lots[i] = Lot.free := Vector.getElem_replicate ..

theorem reset_bins (b : Bin) : State.reset.lot.bins[b] = none := Vector.getElem_replicate ..

theorem reset_stations (k : StationIx) : State.reset.stations[k] = Station.initial := Vector.getElem_replicate ..

theorem reset_lanes (w : Lane) : State.reset.track.entryLists[w] = [] ∧ State.reset.track.exitLists[w] = [] :=
  ⟨Vector.getElem_replicate .., Vector.getElem_replicate ..⟩

theorem reset_zone (z : Zone) : State.reset.track.zone z = [] := by cases z <;> rfl

theorem reset_pool : State.reset.track.pool = [] := rfl

theorem reset_order : State.reset.log.order = [] := rfl

theorem reset_noRecord (r : Piece) : r ∉ State.reset.track.pool := reset_pool ▸ List.not_mem_nil

theorem reset_noTag {p : Piece → Prop} : ¬ ∃ r ∈ State.reset.track.pool, p r := fun ⟨r, hr, _⟩ => reset_noRecord r hr

/-- With every slot FREE, every bin free and no record in use the accounts agree. -/
theorem accountsRight_reset : AccountsRight State.reset where
  conserved i used := absurd (congrArg Lot.state (reset_lots i)) used
  inFlight i := congrArg Lot.inFlight (reset_lots i)
  programs ix := show (Vector.replicate 32 0)[ix] = 0 from Vector.getElem_replicate ..
  ids r hr := absurd hr (reset_noRecord r)
  bound i h := absurd (congrArg Lot.inFlight (reset_lots i)) (Nat.pos_iff_ne_zero.1 h)
  agree i b := by rw [reset_lots, reset_bins]; exact iff_of_false (Option.some_ne_none b).symm (Option.some_ne_none i).symm
  free i _ := reset_lots i
  usable i b h := absurd ((congrArg Lot.bin (reset_lots i)).symm.trans h) (Option.some_ne_none b).symm
  distinct i _ used := absurd (congrArg Lot.state (reset_lots i)) used
  closed i h := LotState.noConfusion ((congrArg Lot.state (reset_lots i)).symm.trans h)
  waiting _ h := absurd (reset_order ▸ h) List.not_mem_nil
  pieces _ := iff_of_false (by rw [reset_order]; exact List.not_mem_nil) reset_noTag
  summary i h := Bool.noConfusion ((congrArg Lot.summaryPending (reset_lots i)).symm.trans h)
  orderNodup := List.nodup_nil

theorem zonesRight_reset : ZonesRight State.reset.track where
  holds z tag := by rw [reset_zone]; exact iff_of_false List.not_mem_nil reset_noTag
  nodup z := by rw [reset_zone]; exact List.nodup_nil
  entry w tag := by rw [(reset_lanes w).1]; exact iff_of_false List.not_mem_nil reset_noTag
  exit w tag := by rw [(reset_lanes w).2]; exact iff_of_false List.not_mem_nil reset_noTag
  lanesNodup w := by rw [(reset_lanes w).1, (reset_lanes w).2]; exact ⟨List.nodup_nil, List.nodup_nil⟩
  done r hr := absurd hr (reset_noRecord r)

theorem zonesOrdered_reset : ZonesOrdered State.reset where
  zones z := by rw [reset_zone]; exact List.Pairwise.nil
  entry w := by rw [(reset_lanes w).1]; exact List.Pairwise.nil
  exit w := by rw [(reset_lanes w).2]; exact List.Pairwise.nil

theorem stationsRight_reset : StationsRight State.reset := by
  intro k
  have off : State.reset.sched.out.rel[k] = none := Vector.getElem_replicate ..
  rw [reset_stations, off]
  exact ⟨stationRight_initial, fun _ => iff_of_false StationState.noConfusion Bool.noConfusion⟩

theorem numbersRun_reset : NumbersRun State.reset :=
  have empty : State.reset.log.entries = [] := rfl
  ⟨trivial, Nat.zero_le _, fun _ he => absurd (empty ▸ he) List.not_mem_nil⟩

/-- POWER_ON on an empty store, with the samples of log 6. -/
theorem switchOn_reset :
    exec
        (.powerOn
          { encA := false, encB := false, dark := Vector.replicate 9 false, buttons := Vector.replicate 4 false, key := .setup,
            lineRun := false, estop := false, address := 1, rate := .r19200 })
        { State.reset with powered := false } = .next State.reset := by
  refine congrArg Host.Outcome.next ?_
  decide +kernel

/-- Settles O60: the state after reset is what POWER_ON makes with the samples of log 6, and each invariant holds of the empty
tables. -/
theorem resetMeetsTheInvariants : Obligations.ResetMeetsTheInvariants := by
  have slots : State.reset.sched.slots = [] := rfl
  have queue : State.reset.prog.queue = [] := rfl
  refine ⟨rfl, rfl, rfl, rfl, switchOn_reset, Nat.zero_le _, absurd reset_order, numbersRun_reset,
    ⟨Nat.zero_le _, Nat.zero_le _⟩, fun stop => Bool.noConfusion stop, .of_off rfl, latchRight_clear, stationsRight_reset,
    ⟨Nat.zero_le _, List.nodup_nil, fun r hr => absurd hr (reset_noRecord r), Nat.le_refl _, Nat.le_of_ble_eq_true rfl⟩,
    zonesRight_reset, zonesOrdered_reset,
    ⟨List.Pairwise.nil, List.nodup_nil, fun y hy => absurd (slots ▸ hy) List.not_mem_nil⟩, accountsRight_reset,
    fun quiet => Bool.noConfusion quiet⟩

end Sys2Proof.Machine

namespace Sys2Proof.Machine

open Sys2Proof

/-! ### The grant of a bound lot (R22, R24, R56, R59, R63) -/

theorem satCount_eq (n : Nat) : satCount n = min 65535 (n + 1) := by
  unfold satCount
  split <;> omega

theorem satWait_eq (n : Nat) : satWait n = min 15 (n + 1) := by
  unfold satWait
  split <;> omega

/-- What the grant of station k does to the wait count of station j (R24). -/
def waitMore (k : StationIx) (s : State) (j : StationIx) : State :=
  if j ≠ k ∧ s.stations[j].state = .loaded then s.modStation j fun st => { st with waitCount := satWait st.waitCount } else s

/-- The station j after the grant of station k (R24). -/
def waitedStation (k j : StationIx) (st : Station) : Station :=
  if j ≠ k ∧ st.state = .loaded then { st with waitCount := min 15 (st.waitCount + 1) } else st

theorem waitMore_eq (k j : StationIx) (s : State) :
    waitMore k s j = { s with stations := vmod s.stations j (waitedStation k j) } := by
  unfold waitMore waitedStation
  by_cases h : j ≠ k ∧ s.stations[j].state = .loaded
  · rw [if_pos h, State.modStation, vmod, vmod, if_pos h, satWait_eq]
  · rw [if_neg h, vmod, if_neg h]
    exact congrArg (fun v => { s with stations := v }) (Vector.set_getElem_self _).symm

/-- The wait counts are changed once for each station of a list without repetition. -/
theorem foldl_waitMore (k : StationIx) {l : List StationIx} (once : l.Nodup) (s : State) :
    ∃ v, l.foldl (waitMore k) s = { s with stations := v } ∧
      ∀ j : StationIx, v[j] = if j ∈ l then waitedStation k j s.stations[j] else s.stations[j] := by
  induction l generalizing s with
  | nil => exact ⟨s.stations, rfl, fun j => (if_neg List.not_mem_nil).symm⟩
  | cons i l ih =>
    obtain ⟨fresh, once⟩ := List.nodup_cons.1 once
    obtain ⟨v, hv, hget⟩ := ih once { s with stations := vmod s.stations i (waitedStation k i) }
    refine ⟨v, by rw [List.foldl_cons, waitMore_eq, hv], fun j => ?_⟩
    rw [hget]
    dsimp only
    by_cases hj : i = j
    · subst hj
      rw [if_neg fresh, if_pos List.mem_cons_self, vmod_get_same]
    · rw [vmod_get_other _ _ hj]
      simp only [List.mem_cons, Ne.symm hj, false_or]

/-- The grant of a bound lot before the wait counts of the other stations. -/
def grantedAlone (k : StationIx) (a : Assignment) (pr : ProgramRec) (i : LotSlot) (s : State) : State :=
  let taken := takeRecord .feed (fedRecord s k a pr i) s
  let tail : Tail := { pos := posAdd (eNew s k) pr.nominal, lotId := a.lotId, tag := taken.1 }
  { s with
    track := taken.2.track
    stations := vmod s.stations k fun st =>
      { st with state := .releasing, snapshot := none, waitCount := 0, waitReason := .none }
    sched :=
      { s.sched with
        out := { s.sched.out with rel := vmod s.sched.out.rel k fun _ => some (s.line.now + s.prog.settings.wRel) } }
    lot :=
      { s.lot with
        lots := vmod s.lot.lots i fun l =>
          { l with released := satCount l.released, inFlight := satCount l.inFlight, lastUse := s.line.p } }
    prog := { s.prog with inFlight := vmod s.prog.inFlight a.program (· + 1) }
    seq :=
      { s.seq with
        tails :=
          allLanes.foldl (fun v w => if hasLane (footprintOf pr.width k) w then vmod v w (fun _ => some tail) else v)
            s.seq.tails } }

/-- With its lot bound a grant is `grantedAlone`, and then the wait counts of the others. -/
theorem grant_bound (k : StationIx) (a : Assignment) (pr : ProgramRec) {i : LotSlot} {s : State}
    (h : s.lot.lots[i].bin.isSome) : grant k a pr i s = allStations.foldl (waitMore k) (grantedAlone k a pr i s) := by
  have unchanged : (if s.lot.lots[i].bin.isNone then bindLot i s else s) = s :=
    if_neg (by rw [Option.isNone_iff_eq_none]; exact Option.ne_none_iff_isSome.2 h)
  unfold grant
  dsimp only
  rw [unchanged]
  rfl

/-- What taking the record of a grant does to the Track Store (R59, R63, R66, R67). -/
theorem grant_track (k : StationIx) (a : Assignment) (pr : ProgramRec) (i : LotSlot) {s : State} (pool : PoolRight s.track) :
    let tag := (takeRecord .feed (fedRecord s k a pr i) s).1
    let t := (takeRecord .feed (fedRecord s k a pr i) s).2.track
    GivesTag s.track tag ∧ Joined tag .feed (footprintOf pr.width k) s.track t ∧
      t.pool = s.track.pool ++ [fedRecord s k a pr i tag s.track.takeCounter] ∧
      t =
        { s.track with
          pool := t.pool, feedZone := t.feedZone, entryLists := t.entryLists, tagCounter := tagAfter tag 1
          takeCounter := s.track.takeCounter + 1#32 } := by
  dsimp only
  obtain ⟨gives, joined⟩ := takeRecord_joined .feed (fedRecord s k a pr i) s (fun _ _ => rfl) pool.counter pool.size
  refine ⟨gives, joined, takeRecord_pool .feed _ s, ?_⟩
  have next : nextTag (takeRecord .feed (fedRecord s k a pr i) s).1 =
      tagAfter (takeRecord .feed (fedRecord s k a pr i) s).1 1 :=
    nextTag_eq _ (freeTag_range s.track.pool Config.poolSize s.track.tagCounter pool.counter)
  rw [← next]
  rfl

/-- The grant of a bound lot does what R22, R24, R56 and R63 say. -/
theorem grant_granted (k : StationIx) (a : Assignment) (pr : ProgramRec) {i : LotSlot} {s : State} (pool : PoolRight s.track)
    (h : s.lot.lots[i].bin.isSome) : ∃ tag, Granted k a pr i s (grant k a pr i s) tag (eNew s k) := by
  obtain ⟨v, hv, hget⟩ := foldl_waitMore k (show allStations.Nodup by decide) (grantedAlone k a pr i s)
  obtain ⟨gives, joined, record, track⟩ := grant_track k a pr i pool
  rw [grant_bound k a pr h, hv]
  simp only [mem_allStations, if_true] at hget
  refine ⟨(takeRecord .feed (fedRecord s k a pr i) s).1, rfl, gives, record, joined, track, fun w => ?_, ?_,
    fun j hj => ?_, ?_⟩
  · exact foldl_lanes_get (fun w => hasLane (footprintOf pr.width k) w) _ s.seq.tails w
  · rw [hget, waitedStation, if_neg (fun g => g.1 rfl)]
    exact vmod_get_same ..
  · rw [hget, show (grantedAlone k a pr i s).stations[j] = s.stations[j] from vmod_get_other _ _ (Ne.symm hj), waitedStation]
    simp only [hj, ne_eq, not_false_eq_true, true_and]
  · rw [← satCount_eq, ← satCount_eq]
    rfl

/-! ### The binding at a grant (R132, R133, R138) -/

/-- A grant whose lot is bound on the way is the grant after the binding, which leaves what the piece's prediction reads. -/
theorem grant_after_bindLot (k : StationIx) (a : Assignment) (pr : ProgramRec) {i : LotSlot} {s u : State}
    (free : s.lot.lots[i].bin = none) (binds : bindLot i s = u) (bound : u.lot.lots[i].bin.isSome) :
    grant k a pr i s = grant k a pr i u := by
  have kept : Kept s u := binds ▸ bindLot_kept i s
  have entry : eNew s k = eNew u k := by
    unfold eNew lead vEff
    rw [kept.line, kept.settings]
  have first : (if s.lot.lots[i].bin.isNone then bindLot i s else s) = u := (if_pos (by rw [free]; rfl)).trans binds
  have still : (if u.lot.lots[i].bin.isNone then bindLot i u else u) = u :=
    if_neg (by rw [Option.isNone_iff_eq_none]; exact Option.ne_none_iff_isSome.2 bound)
  unfold grant
  dsimp only
  rw [first, still, entry]

theorem bindTo_bound (i : LotSlot) (b : Bin) (s : State) : (bindTo i b s).lot.lots[i].bin.isSome :=
  (congrArg (fun l : Lot => l.bin.isSome) (vmod_get_same s.lot.lots i fun l => { l with bin := some b })).trans rfl

theorem allBins_eq : allBins = List.finRange 6 := by decide

/-- The free usable bin of lowest number (R132). -/
theorem freeBin?_lowest {s : State} {b : Bin} (usable : b.val < s.prog.settings.binsEnabled) (free : s.lot.bins[b] = none)
    (lowest : ∀ d : Bin, d < b → s.lot.bins[d] ≠ none) : freeBin? s = some b := by
  rw [freeBin?, allBins_eq]
  refine find?_finRange ?_ fun d hd => ?_
  · rw [Bool.and_eq_true, decide_eq_true_eq, Option.isNone_iff_eq_none]
    exact ⟨usable, free⟩
  · rw [Bool.and_eq_false_iff, Option.isNone_eq_false_iff]
    exact .inr (Option.ne_none_iff_isSome.1 (lowest d hd))

theorem freeBin?_none {s : State} (full : ∀ b : Bin, b.val < s.prog.settings.binsEnabled → s.lot.bins[b] ≠ none) :
    freeBin? s = none := by
  refine List.find?_eq_none.2 fun b _ => ?_
  rw [Bool.and_eq_true, decide_eq_true_eq, Option.isNone_iff_eq_none]
  exact fun ⟨usable, free⟩ => full b usable free

/-- The lot in slot i, bound to bin d, may be evicted: it is OPEN with nothing in flight (R133). -/
def MayEvict (s : State) (i : LotSlot) (d : Bin) : Prop :=
  s.lot.bins[d] = some i ∧ s.lot.lots[i].state = .opened ∧ s.lot.lots[i].inFlight = 0

/-- How far behind P the last use of a lot lies (R133). -/
def behind (s : State) (i : LotSlot) : Int := posDiff s.line.p s.lot.lots[i].lastUse

/-- Among the first n bins an eviction takes the one named, or none (R133). -/
def BestOf (s : State) (n : Nat) : Option (LotSlot × Bin) → Prop
  | none => ∀ (i : LotSlot) (d : Bin), d.val < n → ¬MayEvict s i d
  | some (j, b) =>
    b.val < n ∧ MayEvict s j b ∧
      ∀ (i : LotSlot) (d : Bin), d.val < n → MayEvict s i d → behind s i ≤ behind s j ∧ (behind s i = behind s j → b ≤ d)

/-- One bin more in the search of R133. -/
def evictStep (s : State) (best : Option (LotSlot × Bin)) (b : Bin) : Option (LotSlot × Bin) :=
  match s.lot.bins[b] with
  | none => best
  | some i =>
    if decide (s.lot.lots[i].state = .opened) && s.lot.lots[i].inFlight == 0 then
      match best with
      | none => some (i, b)
      | some (j, _) => if behind s j < behind s i then some (i, b) else best
    else best

theorem evictable?_eq (s : State) : evictable? s = allBins.foldl (evictStep s) none := rfl

/-- The bins up to b are those before it and b itself. -/
theorem below_succ {b d : Bin} (h : d.val < b.val + 1) : d.val < b.val ∨ d = b :=
  (Nat.lt_succ_iff_lt_or_eq.1 h).imp_right Fin.ext

/-- A bin whose lot may not be evicted leaves the best of the bins before it. -/
theorem bestOf_pass {s : State} {b : Bin} {best : Option (LotSlot × Bin)} (h : BestOf s b.val best)
    (pass : ∀ i, ¬MayEvict s i b) : BestOf s (b.val + 1) best := by
  have before {d : Bin} {i : LotSlot} (hd : d.val < b.val + 1) (may : MayEvict s i d) : d.val < b.val :=
    (below_succ hd).resolve_right fun g => pass i (g ▸ may)
  cases best with
  | none => exact fun i d hd may => h i d (before hd may) may
  | some jb =>
    obtain ⟨hc, mayc, best⟩ := h
    exact ⟨Nat.lt_succ_of_lt hc, mayc, fun i d hd may => best i d (before hd may) may⟩

/-- A bin whose lot lies further behind than those of the bins before it is the best. -/
theorem bestOf_take {s : State} {b : Bin} {i : LotSlot} (may : MayEvict s i b)
    (further : ∀ (j : LotSlot) (d : Bin), d.val < b.val → MayEvict s j d → behind s j < behind s i) :
    BestOf s (b.val + 1) (some (i, b)) := by
  refine ⟨Nat.lt_succ_self _, may, fun j d hd mayd => ?_⟩
  rcases below_succ hd with before | rfl
  · have less := further j d before mayd
    exact ⟨Int.le_of_lt less, fun g => absurd g (Int.ne_of_lt less)⟩
  · obtain rfl : j = i := Option.some.inj (mayd.1.symm.trans may.1)
    exact ⟨Int.le_refl _, fun _ => Fin.le_refl _⟩

/-- A bin whose lot lies no further behind than the best of the bins before it leaves that best. -/
theorem bestOf_keep {s : State} {b c : Bin} {i j : LotSlot} (h : BestOf s b.val (some (j, c))) (may : MayEvict s i b)
    (near : behind s i ≤ behind s j) : BestOf s (b.val + 1) (some (j, c)) := by
  obtain ⟨hc, mayc, best⟩ := h
  refine ⟨Nat.lt_succ_of_lt hc, mayc, fun o d hd mayd => ?_⟩
  rcases below_succ hd with before | rfl
  · exact best o d before mayd
  · obtain rfl : o = i := Option.some.inj (mayd.1.symm.trans may.1)
    exact ⟨near, fun _ => Nat.le_of_lt hc⟩

theorem bestOf_step {s : State} (b : Bin) {best : Option (LotSlot × Bin)} (h : BestOf s b.val best) :
    BestOf s (b.val + 1) (evictStep s best b) := by
  cases hb : s.lot.bins[b] with
  | none =>
    simp only [evictStep, hb]
    exact bestOf_pass h fun i may => absurd (hb.symm.trans may.1) (Option.some_ne_none i).symm
  | some i =>
    simp only [evictStep, hb, Bool.and_eq_true, decide_eq_true_eq, beq_iff_eq]
    split
    · next free =>
      cases best with
      | none => exact bestOf_take ⟨hb, free⟩ fun j d hd may => absurd may (h j d hd)
      | some jc =>
        obtain ⟨j, c⟩ := jc
        dsimp only
        split
        · next less => exact bestOf_take ⟨hb, free⟩ fun o d hd may => Int.lt_of_le_of_lt (h.2.2 o d hd may).1 less
        · next near => exact bestOf_keep h ⟨hb, free⟩ (Int.not_lt.1 near)
    · next free =>
      exact bestOf_pass h fun j may => free (Option.some.inj (may.1.symm.trans hb) ▸ may.2)

theorem evictable?_best (s : State) : BestOf s 6 (evictable? s) := by
  have start : BestOf s 0 none := fun _ _ none => absurd none (Nat.not_lt_zero _)
  rw [evictable?_eq]
  exact bestOf_step 5 (bestOf_step 4 (bestOf_step 3 (bestOf_step 2 (bestOf_step 1 (bestOf_step 0 start)))))

/-- The bin that R133 describes is the one the search finds. -/
theorem evictable?_of_evicts {s : State} {j : LotSlot} {b : Bin} (h : Evicts s j b) : evictable? s = some (j, b) := by
  obtain ⟨hb, free, further⟩ := h
  have best := evictable?_best s
  cases he : evictable? s with
  | none =>
    rw [he] at best
    exact absurd ⟨hb, free⟩ (best j b b.isLt)
  | some ic =>
    obtain ⟨i, c⟩ := ic
    rw [he] at best
    obtain ⟨-, mayc, best⟩ := best
    obtain ⟨le, first⟩ := best j b b.isLt ⟨hb, free⟩
    obtain ⟨ge, least⟩ := further c i mayc.1 mayc.2
    obtain rfl : c = b := Fin.le_antisymm (first (Int.le_antisymm le ge)) (least (Int.le_antisymm ge le))
    rw [Option.some.inj (mayc.1.symm.trans hb)]

theorem bindLot_lowest {i : LotSlot} {s : State} {b : Bin} (h : freeBin? s = some b) : bindLot i s = bindTo i b s := by
  simp only [bindLot, h]

theorem bindLot_evicts {i j : LotSlot} {s : State} {b : Bin} (full : freeBin? s = none) (evicts : evictable? s = some (j, b))
    (bound : s.lot.lots[j].bin = some b) : bindLot i s = bindTo i b (s.unbound j b) := by
  simp only [bindLot, full, evicts, unbindLot_eq j b s bound]

end Sys2Proof.Machine

namespace Sys2Proof.Machine

open Sys2Proof

/-! ### The check of one LOADED station (R46, R50, R57) -/

theorem checkStation_pass {starving : Bool} {x : Exam} {k : StationIx} (h : x.state.stations[k].state ≠ .loaded) :
    checkStation starving x k = x := by
  unfold checkStation
  dsimp only
  split
  · next loaded _ => exact absurd loaded h
  · rfl

theorem checkAll_pass {starving : Bool} {l : List StationIx} {x : Exam} (h : ∀ k ∈ l, x.state.stations[k].state ≠ .loaded) :
    l.foldl (checkStation starving) x = x := by
  induction l with
  | nil => rfl
  | cons k l ih =>
    rw [List.foldl_cons, checkStation_pass (h k List.mem_cons_self)]
    exact ih fun j hj => h j (List.mem_cons_of_mem _ hj)

/-- Station k with snapshot a is granted in state s, under the program record pr and for the lot slot i, when its turn comes
(R46, R50). -/
structure Grantable (k : StationIx) (a : Assignment) (pr : ProgramRec) (i : LotSlot) (s : State) : Prop where
  loaded : ∀ j : StationIx, s.stations[j].state = .loaded ↔ j = k
  snapshot : s.stations[k].snapshot = some a
  program : s.prog.programs[a.program] = some pr
  lot : openLot? s a.lotId = some i
  passes : failing s k a = none

section
variable {k : StationIx} {a : Assignment} {pr : ProgramRec} {i : LotSlot} {s : State} (h : Grantable k a pr i s)
include h

theorem checkStation_grants (starving : Bool) (last : Option StationIx) :
    checkStation starving ⟨s, 0#4, last⟩ k = ⟨grant k a pr i s, 0#4, some k⟩ := by
  have free (foot : LaneSet) : ¬sharesLane foot 0#4 = true := by simp [sharesLane]
  simp only [checkStation, (h.loaded k).2 rfl, h.snapshot, h.passes, h.program, h.lot, if_neg (free _)]

theorem checkAll_passes {l : List StationIx} (hk : k ∉ l) (starving : Bool) (last : Option StationIx) :
    l.foldl (checkStation starving) ⟨s, 0#4, last⟩ = ⟨s, 0#4, last⟩ :=
  checkAll_pass fun j hj loaded => hk ((h.loaded j).1 loaded ▸ hj)

/-- The checks of stations among which k stands, the only one LOADED, grant k, and after it none is LOADED. -/
theorem checkAll_grants {l : List StationIx} (hk : k ∈ l) (starving : Bool) (last : Option StationIx)
    (none : ∀ j : StationIx, (grant k a pr i s).stations[j].state ≠ .loaded) :
    l.foldl (checkStation starving) ⟨s, 0#4, last⟩ = ⟨grant k a pr i s, 0#4, some k⟩ := by
  obtain ⟨before, after, rfl, fresh⟩ := List.eq_append_cons_of_mem hk
  rw [List.foldl_append, List.foldl_cons, checkAll_passes h fresh, checkStation_grants h, checkAll_pass fun j _ => none j]

end

theorem mem_rotationFrom (rot : Rotation) (start k : StationIx) : k ∈ rotationFrom rot start := by
  revert start k
  cases rot <;> decide

/-- No station is LOADED after the grant of the only one that was (R22). -/
theorem Granted.noneLoaded {k : StationIx} {a : Assignment} {pr : ProgramRec} {i : LotSlot} {s t : State} {tag : Nat} {e : Pos}
    (g : Granted k a pr i s t tag e) (only : ∀ j : StationIx, s.stations[j].state = .loaded → j = k) (j : StationIx) :
    t.stations[j].state ≠ .loaded := by
  by_cases hj : j = k
  · subst hj
    rw [g.granted]
    exact nofun
  · have idle : ¬s.stations[j].state = .loaded := fun loaded => hj (only j loaded)
    rw [g.others j hj, if_neg idle]
    exact idle

/-- An examination that finds one LOADED station, and that one to be granted, grants it and no other (R46, R48). -/
theorem examine_grants {k : StationIx} {a : Assignment} {pr : ProgramRec} {i : LotSlot} {s : State} (run : s.seq.feed = .run)
    (h : Grantable k a pr i (examStart s))
    (none : ∀ j : StationIx, (grant k a pr i (examStart s)).stations[j].state ≠ .loaded) :
    examine s =
      { grant k a pr i (examStart s) with seq := { (grant k a pr i (examStart s)).seq with scanStart := k + 1 } } := by
  have checked : examined s = ⟨grant k a pr i (examStart s), 0#4, some k⟩ := by
    unfold examined
    dsimp only
    generalize hl : allStations.filter (isStarving (examStart s)) = starving
    by_cases hk : k ∈ starving
    · rw [checkAll_grants h hk true _ none]
      exact checkAll_pass fun j _ => none j
    · rw [checkAll_passes h hk]
      refine checkAll_grants h ?_ false _ none
      rw [List.mem_filter]
      exact ⟨mem_rotationFrom _ _ k, by simpa using hk⟩
  rw [examine_in_run run, checked]
  rfl

/-! ### A grant step (R44) -/

theorem agedTail_young {p : Pos} {o : Option Tail} (h : ∀ x, o = some x → posDiff p x.pos ≤ 1000000) : agedTail p o = o := by
  cases o with
  | none => rfl
  | some x => exact if_neg (Int.not_lt.2 (h x rfl))

/-- With every tail near, an examination begins by setting its mark and no more (R43). -/
theorem examStart_young {s : State} (h : ∀ w x, s.seq.tails[(w : Lane)] = some x → posDiff s.line.p x.pos ≤ 1000000) :
    examStart s = { s with seq := { s.seq with mark := s.line.p } } := by
  have tails : (examStart s).seq.tails = s.seq.tails :=
    Vector.ext fun w hw => (ageTails_get _ (⟨w, hw⟩ : Lane)).trans (agedTail_young (h ⟨w, hw⟩))
  exact congrArg (fun v => { s with seq := { s.seq with mark := s.line.p, tails := v } }) tails

theorem openLot?_one {s : State} {id : Nat} {i : LotSlot} (one : OneOpenLot s) (opened : s.lot.lots[i].state = .opened)
    (hid : s.lot.lots[i].id = id) : openLot? s id = some i := by
  rw [openLot?, allLotSlots_eq]
  refine find?_finRange ?_ fun j hj => ?_
  · rw [Bool.and_eq_true, decide_eq_true_eq, beq_iff_eq]
    exact ⟨opened, hid⟩
  · rw [Bool.eq_false_iff, ne_eq, Bool.and_eq_true, decide_eq_true_eq, beq_iff_eq]
    exact fun ⟨hs, hj'⟩ => absurd (one j i hs opened (hj'.trans hid.symm)) (ne_of_lt hj)

theorem exec_grantStep_due {s : State} (hp : s.powered = true) (due : Due.grant ∈ s.due)
    (mark : posDiff s.line.p s.seq.mark = 8) : exec .grantStep s = .next (examine (dropDue .grant s)) := by
  have cond : (s.due.contains .grant && decide (posDiff s.line.p s.seq.mark = Config.grantStepCounts)) = true := by
    rw [Bool.and_eq_true, decide_eq_true_eq]
    exact ⟨List.contains_iff_mem.2 due, mark⟩
  simp only [exec, execGrantStep, whenPowered_on hp, if_pos cond]

/-- The stations after the grant of the only LOADED one (R22, R24). -/
theorem Granted.stations_eq {k : StationIx} {a : Assignment} {pr : ProgramRec} {i : LotSlot} {s t : State} {tag : Nat} {e : Pos}
    (g : Granted k a pr i s t tag e) (only : ∀ j : StationIx, s.stations[j].state = .loaded → j = k) :
    t.stations =
      s.stations.set k
        { s.stations[k] with state := .releasing, snapshot := none, waitCount := 0, waitReason := .none } := by
  refine Vector.ext fun n hn => ?_
  have other := g.others ⟨n, hn⟩
  rw [Vector.getElem_set]
  split
  · next h =>
    subst h
    exact g.granted
  · next h =>
    have ne : (⟨n, hn⟩ : StationIx) ≠ k := fun g => h (congrArg Fin.val g).symm
    exact (other ne).trans (if_neg fun loaded => ne (only _ loaded))

/-- A grant whose binding comes to a tie of the lot with bin b is the grant after that tie (R132, R133). -/
theorem grant_binds (k : StationIx) (a : Assignment) (pr : ProgramRec) {i : LotSlot} {s u : State} {b : Bin}
    (free : s.lot.lots[i].bin = none) (binds : bindLot i s = bindTo i b u) :
    grant k a pr i s = grant k a pr i (bindTo i b u) :=
  grant_after_bindLot k a pr free binds (bindTo_bound i b u)

/-- What an examination reads of the state to grant a station, the mark and the list of events due leave alone (R50). -/
theorem Grantable.marked {k : StationIx} {a : Assignment} {pr : ProgramRec} {i : LotSlot} {s : State} (h : Grantable k a pr i s)
    (l : List Due) (p : Pos) : Grantable k a pr i { s with due := l, seq := { s.seq with mark := p } } where
  loaded := h.loaded
  snapshot := h.snapshot
  program := h.program
  lot := h.lot
  passes := h.passes

/-- Settles O50: `examine_grants` finds the one LOADED station, `grant_granted` says what its grant does, and `bindLot_lowest` and
`bindLot_evicts` what a grant binds on the way. -/
theorem grantReleasesThePiece : Obligations.GrantReleasesThePiece := by
  refine ⟨fun k a pr i s hp pool due mark run young only snapshot program one opened hid bound passes => ?_,
    fun k a pr i s pool => ⟨fun bound => ?_, fun free => ⟨fun b usable hb lowest => ?_, fun full agree j b evicts => ?_⟩⟩⟩
  · have start : examStart (dropDue .grant s) = { dropDue .grant s with seq := { s.seq with mark := s.line.p } } :=
      examStart_young (s := dropDue .grant s) young
    have now : Grantable k a pr i s := ⟨only, snapshot, program, openLot?_one one opened hid, passes⟩
    have grantable : Grantable k a pr i (examStart (dropDue .grant s)) := start ▸ now.marked _ _
    obtain ⟨tag, granted⟩ := grant_granted (s := examStart (dropDue .grant s)) (i := i) k a pr (by rw [start]; exact pool)
      (by rw [start]; exact bound)
    have alone (j : StationIx) := (grantable.loaded j).1
    have exam := examine_grants (s := dropDue .grant s) run grantable (granted.noneLoaded alone)
    have stations := granted.stations_eq alone
    generalize grant k a pr i (examStart (dropDue .grant s)) = t at granted exam stations
    rw [start] at granted stations
    refine ⟨tag, _, (exec_grantStep_due hp due mark).trans (congrArg _ exam), granted.given, granted.record, granted.lists,
      granted.track, granted.tails, ?_⟩
    refine (congrArg (fun v : State => { v with seq := { v.seq with scanStart := k + 1 } }) granted.rest).trans ?_
    rw [stations]
    rfl
  · obtain ⟨tag, granted⟩ := grant_granted k a pr pool bound
    exact ⟨tag, _, granted⟩
  · exact grant_binds k a pr free (bindLot_lowest (freeBin?_lowest usable hb lowest))
  · exact grant_binds k a pr free
      (bindLot_evicts (freeBin?_none full) (evictable?_of_evicts evicts) ((agree j b).2 evicts.1))

end Sys2Proof.Machine

namespace Sys2Proof.Machine

open Sys2Proof

/-! ### What a grant and the examination leave alone -/

/-- The stop and the flaps are as they were, and a release is held for a bin only if it was held before, or has to wait for ESTOP or
for the flap of the bin (R115). -/
structure FlapsKept (s t : State) : Prop where
  inputs : t.inputs = s.inputs
  flaps : t.sched.out.bf = s.sched.out.bf
  held : ∀ b : Bin, t.sched.held[b] = true → s.sched.held[b] = true ∨ s.inputs.estop = true ∨ s.sched.out.bf[b].isSome = true

theorem FlapsKept.trans {s t u : State} (h : FlapsKept s t) (k : FlapsKept t u) : FlapsKept s u where
  inputs := k.inputs.trans h.inputs
  flaps := k.flaps.trans h.flaps
  held b hb := by
    have waits := k.held b hb
    rw [h.inputs, h.flaps] at waits
    exact waits.elim (h.held b) .inr

/-- Operations that leave the inputs and the outputs of the Actuator Scheduler alone. -/
theorem FlapsKept.of_eq {s t : State} (inputs : t.inputs = s.inputs) (flaps : t.sched.out.bf = s.sched.out.bf)
    (held : t.sched.held = s.sched.held) : FlapsKept s t :=
  ⟨inputs, flaps, fun b hb => .inl (by rwa [held] at hb)⟩

theorem FlapsKept.refl (s : State) : FlapsKept s s := .of_eq rfl rfl rfl

theorem unbindLot_flaps (i : LotSlot) (s : State) : FlapsKept s (unbindLot i s) := by
  cases h : s.lot.lots[i].bin with
  | none => simp only [unbindLot, h, FlapsKept.of_eq rfl rfl rfl]
  | some b =>
    rw [unbindLot_eq i b s h]
    refine ⟨by rw [unbound_frame], by rw [unbound_frame], fun d hd => ?_⟩
    rw [(unbound_get s i b d).1] at hd
    split at hd
    · next asked =>
      obtain ⟨rfl, -⟩ := asked
      by_cases waits : releaseWaits s b = true
      · simpa only [releaseWaits, Bool.or_eq_true, or_assoc] using waits
      · rw [releaseGiven, if_neg waits] at hd
        cases hd
    · exact .inl hd

/-- What a grant leaves alone: the Release Sequencer but for the tails, the latch and the slot table, besides the flaps (R56). -/
structure GrantKept (s t : State) : Prop extends FlapsKept s t where
  seq : t.seq = { s.seq with tails := t.seq.tails }
  latch : t.latch = s.latch
  slots : t.sched.slots = s.sched.slots

theorem GrantKept.trans {s t u : State} (h : GrantKept s t) (k : GrantKept t u) : GrantKept s u where
  toFlapsKept := h.toFlapsKept.trans k.toFlapsKept
  seq := by rw [k.seq, h.seq]
  latch := k.latch.trans h.latch
  slots := k.slots.trans h.slots

theorem GrantKept.refl (s : State) : GrantKept s s := ⟨.of_eq rfl rfl rfl, rfl, rfl, rfl⟩

theorem GrantKept.foldl {α : Type} {f : State → α → State} (hf : ∀ s a, GrantKept s (f s a)) (l : List α) (s : State) :
    GrantKept s (l.foldl f s) := by
  induction l generalizing s with
  | nil => exact .refl s
  | cons a l ih => exact (hf s a).trans (ih (f s a))

theorem modStation_grantKept (s : State) (k : StationIx) (f : Station → Station) : GrantKept s (s.modStation k f) :=
  ⟨.of_eq rfl rfl rfl, rfl, rfl, rfl⟩

theorem unbindLot_grantKept (i : LotSlot) (s : State) : GrantKept s (unbindLot i s) := by
  refine ⟨unbindLot_flaps i s, ?_, ?_, ?_⟩
  all_goals
    cases h : s.lot.lots[i].bin with
    | none => simp only [unbindLot, h]
    | some b => rw [unbindLot_eq i b s h, unbound_frame]

theorem bindTo_grantKept (i : LotSlot) (b : Bin) (s : State) : GrantKept s (bindTo i b s) := ⟨.of_eq rfl rfl rfl, rfl, rfl, rfl⟩

theorem bindLot_grantKept (i : LotSlot) (s : State) : GrantKept s (bindLot i s) := by
  unfold bindLot
  split
  · exact bindTo_grantKept _ _ _
  · split
    · exact (unbindLot_grantKept _ _).trans (bindTo_grantKept _ _ _)
    · exact .refl s

theorem grant_grantKept (k : StationIx) (a : Assignment) (pr : ProgramRec) (i : LotSlot) (s : State) :
    GrantKept s (grant k a pr i s) := by
  have bound : GrantKept s (if s.lot.lots[i].bin.isNone then bindLot i s else s) := by
    split
    · exact bindLot_grantKept i s
    · exact .refl s
  unfold grant
  dsimp only
  refine bound.trans (GrantKept.trans ?_ (GrantKept.foldl (fun t j => ?_) _ _))
  · exact ⟨.of_eq rfl rfl rfl, rfl, rfl, rfl⟩
  · split
    · exact modStation_grantKept _ _ _
    · exact .refl t

/-- A station that none of the conditions holds back has a VALID program and an OPEN lot (R50, R51). -/
theorem program_and_lot_of_failing_none {s : State} {k : StationIx} {a : Assignment} (h : failing s k a = none) :
    ∃ pr i, s.prog.programs[a.program] = some pr ∧ openLot? s a.lotId = some i := by
  rw [failing, if_neg (not_not.2 (run_of_failing_none h))] at h
  cases program : s.prog.programs[a.program] with
  | none => simp only [program, reduceCtorEq] at h
  | some pr =>
    cases lot : openLot? s a.lotId with
    | none =>
      simp only [program, lot] at h
      split at h <;> cases h
    | some i => exact ⟨pr, i, rfl, rfl⟩

section
variable {x : Exam} {k : StationIx} {a : Assignment} (loaded : x.state.stations[k].state = .loaded)
  (snapshot : x.state.stations[k].snapshot = some a)
include loaded snapshot

/-- The check of a station with a condition that fails (R46, R57). -/
theorem checkStation_fails {why : WaitReason} (fails : failing x.state k a = some why) (starving : Bool) :
    checkStation starving x k =
      { x with
        state := setWait k why x.state
        blocked :=
          if starving && blocksWith why then
            x.blocked ||| x.state.prog.programs[a.program].elim 0#4 fun pr => footprintOf pr.width k
          else x.blocked } := by
  cases program : x.state.prog.programs[a.program] with
  | none => simp only [checkStation, loaded, snapshot, fails, program, Option.elim_none]
  | some pr => simp only [checkStation, loaded, snapshot, fails, program, Option.elim_some]

section
variable {pr : ProgramRec} {i : LotSlot} (passes : failing x.state k a = none)
  (program : x.state.prog.programs[a.program] = some pr) (lot : openLot? x.state a.lotId = some i) (starving : Bool)
include passes program

/-- The check of a station that shares a lane with a starving one (R57). -/
theorem checkStation_starves (shares : sharesLane (footprintOf pr.width k) x.blocked = true) :
    checkStation starving x k = { x with state := setWait k .starving x.state } := by
  simp only [checkStation, loaded, snapshot, passes, program, shares, if_true]

include lot

/-- The check of a station that nothing holds back (R46, R56). -/
theorem checkStation_grants_lot (free : ¬sharesLane (footprintOf pr.width k) x.blocked = true) :
    checkStation starving x k = { x with state := grant k a pr i x.state, last := some k } := by
  simp only [checkStation, loaded, snapshot, passes, program, lot, if_neg free]

end

end

theorem checkStation_noSnapshot {starving : Bool} {x : Exam} {k : StationIx} (h : x.state.stations[k].snapshot = none) :
    checkStation starving x k = x := by
  unfold checkStation
  dsimp only
  split
  · next snapshot => rw [h] at snapshot; cases snapshot
  · rfl

theorem checkStation_grantKept (starving : Bool) (x : Exam) (k : StationIx) :
    GrantKept x.state (checkStation starving x k).state := by
  by_cases loaded : x.state.stations[k].state = .loaded
  · cases snapshot : x.state.stations[k].snapshot with
    | none => rw [checkStation_noSnapshot snapshot]; exact .refl _
    | some a =>
      cases passes : failing x.state k a with
      | some why => rw [checkStation_fails loaded snapshot passes]; exact modStation_grantKept _ _ _
      | none =>
        obtain ⟨pr, i, program, lot⟩ := program_and_lot_of_failing_none passes
        by_cases shares : sharesLane (footprintOf pr.width k) x.blocked = true
        · rw [checkStation_starves loaded snapshot passes program _ shares]
          exact modStation_grantKept _ _ _
        · rw [checkStation_grants_lot loaded snapshot passes program lot _ shares]
          exact grant_grantKept _ _ _ _ _
  · rw [checkStation_pass loaded]
    exact .refl _

theorem checkAll_grantKept (starving : Bool) (l : List StationIx) (x : Exam) :
    GrantKept x.state (l.foldl (checkStation starving) x).state := by
  induction l generalizing x with
  | nil => exact .refl _
  | cons k l ih => exact (checkStation_grantKept starving x k).trans (ih _)

theorem examined_grantKept (s : State) : GrantKept (examStart s) (examined s).state := by
  unfold examined
  exact (checkAll_grantKept true _ ⟨examStart s, 0#4, none⟩).trans (checkAll_grantKept false _ _)

/-- An examination changes neither the feed state nor the latch nor the slot table (R46). -/
theorem examine_still (s : State) :
    FlapsKept s (examine s) ∧ (examine s).seq.feed = s.seq.feed ∧ (examine s).latch = s.latch ∧
      (examine s).sched.slots = s.sched.slots := by
  by_cases h : s.seq.feed = .run
  · obtain ⟨⟨inputs, flaps, held⟩, seq, latch, slots⟩ := examined_grantKept s
    rw [examine_in_run h]
    have feed : (examined s).state.seq.feed = s.seq.feed := by rw [seq]; rfl
    exact ⟨⟨inputs, flaps, held⟩, feed, latch, slots⟩
  · rw [examine_outside_run h]
    exact ⟨.of_eq rfl rfl rfl, rfl, rfl, rfl⟩

theorem examine_feed (s : State) : (examine s).seq.feed = s.seq.feed := (examine_still s).2.1

end Sys2Proof.Machine

namespace Sys2Proof.Machine

open Sys2Proof

/-! ### Requests carried out on broadcast as well (R172) -/

section
variable {s : State} {addr code : Byte} {body : List Byte} (h : TakesAny s addr) (short : body.length ≤ 240)
  (broadcast : broadcastCode code = true) (known : knownCodes.contains code = true)
  (fits : lengthFits code body.length = true)
include h short broadcast known fits

/-- The meaning of a request that its owner answers with a reply, addressed or broadcast (R172, R173). -/
theorem takeFrame_any_reply {t : State} {reply : List Byte}
    (owner : ownerOf code body (s.received addr code body) = (t, .reply reply)) :
    takeFrame addr code body s = t.answered addr code reply := by
  obtain ⟨hears, rfl | addressed⟩ := h
  · rw [takeFrame_broadcast hears code body short broadcast, carryOut_fits _ _ known fits, owner]
    exact (if_pos (Or.inl rfl)).symm
  · exact takeFrame_reply ⟨hears, addressed⟩ short known fits owner

/-- The meaning of a request that its owner refuses, addressed or broadcast (R172, R173). -/
theorem takeFrame_any_refuse {why : RefuseReason}
    (owner : ownerOf code body (s.received addr code body) = (s.received addr code body, .refuse why)) :
    takeFrame addr code body s = s.turnedAway addr code body why := by
  obtain ⟨hears, rfl | addressed⟩ := h
  · rw [takeFrame_broadcast hears code body short broadcast, carryOut_fits _ _ known fits, owner]
    unfold State.turnedAway State.answered
    exact (if_pos (Or.inl rfl)).symm
  · exact takeFrame_refuse ⟨hears, addressed⟩ short known fits owner

end

/-! ### FEED (R36) -/

theorem turnFeedOn_refused {s : State} (h : s.inputs.estop = true ∨ s.inputs.key = .setup) :
    turnFeedOn s = (s, .refuse .wrongState) :=
  if_pos (by simpa using h)

section
variable {s : State} (stop : s.inputs.estop = false) (key : s.inputs.key = .run)
include stop key

theorem turnFeedOn_stays (on : s.seq.feed ≠ .off) : turnFeedOn s = (s, .reply (feedBytes s)) := by
  simp [turnFeedOn, stop, key, on]

section
variable (off : s.seq.feed = .off)
include off

theorem turnFeedOn_held (fault : faultHolds s = true) :
    turnFeedOn s = (s.setFeed .held, .reply [3, blockingCode (blocking s)]) := by
  simp only [turnFeedOn, stop, key, off, fault]
  rfl

theorem turnFeedOn_waits (fault : faultHolds s = false) (conditions : runConditions s = false) :
    turnFeedOn s = (s.setFeed .pause, .reply [2, blockingCode (blocking s)]) := by
  simp only [turnFeedOn, stop, key, off, fault, conditions]
  rfl

/-- In RUN nothing blocks the feed, and the examination leaves it so (R36, R40). -/
theorem turnFeedOn_runs (fault : faultHolds s = false) (conditions : runConditions s = true) :
    turnFeedOn s = (examine (s.setFeed .run), .reply [1, 0]) := by
  have feed : (examine (s.setFeed .run)).seq.feed = .run := examine_feed _
  have unblocked : blocking (examine (s.setFeed .run)) = .none := by
    have kept := examine_kept (s.setFeed .run)
    have latch := (examine_still (s.setFeed .run)).2.2.1
    rw [← (blocking_none_iff s).2 ⟨conditions, fault⟩]
    simp only [blocking, fastEnough, faultHolds, kept.inputs, kept.line, kept.settings, kept.valid, latch]
    rfl
  have on : turnFeedOn s = (examine (s.setFeed .run), .reply (feedBytes (examine (s.setFeed .run)))) := by
    simp only [turnFeedOn, stop, key, off, fault, conditions]
    rfl
  rw [on, feedBytes, feed, unblocked]
  rfl

end

end

theorem feedOwner_badValue {v : Byte} (off : v ≠ 0) (on : v ≠ 1) (s : State) :
    feedOwner [v] s = (s, .refuse .badValue) := by
  unfold feedOwner
  split
  · next h => exact absurd (BitVec.eq_of_toNat_eq (y := 0) h) off
  · next h => exact absurd (BitVec.eq_of_toNat_eq (y := 1) h) on
  · rfl

section
variable {s : State} {addr v : Byte} (h : TakesAny s addr)
include h

theorem feed_replies {t : State} {reply : List Byte} (owner : feedOwner [v] (s.received addr 0x10 [v]) = (t, .reply reply)) :
    exec (.feedOn addr [v]) s = .next (t.answered addr 0x10 reply) ∧
      exec (.feedOff addr [v]) s = .next (t.answered addr 0x10 reply) := by
  have taken := takeFrame_any_reply (code := 0x10) h (by simp) rfl rfl rfl owner
  exact ⟨congrArg _ taken, congrArg _ taken⟩

theorem feed_refused {why : RefuseReason}
    (owner : feedOwner [v] (s.received addr 0x10 [v]) = (s.received addr 0x10 [v], .refuse why)) :
    exec (.feedOn addr [v]) s = .next (s.turnedAway addr 0x10 [v] why) :=
  congrArg _ (takeFrame_any_refuse (code := 0x10) h (by simp) rfl rfl rfl owner)

end

/-- Settles O14: the cases of `turnFeedOn`, on the state with the frame in the buffer, which they do not read. -/
theorem feedActsByTheFeedState : Obligations.FeedActsByTheFeedState := by
  intro addr s h
  refine ⟨fun closed => ?_, fun stop key => ⟨fun on => ?_, fun off fault => ?_, fun off fault waits => ?_,
    fun off fault ready => ?_⟩, ?_, fun v off on => ?_⟩
  · exact feed_refused h (turnFeedOn_refused (s := s.received addr 0x10 [1]) closed)
  · exact (feed_replies (v := 1) h (turnFeedOn_stays (s := s.received addr 0x10 [1]) stop key on)).1
  · exact (feed_replies (v := 1) h (turnFeedOn_held (s := s.received addr 0x10 [1]) stop key off fault)).1
  · exact (feed_replies (v := 1) h (turnFeedOn_waits (s := s.received addr 0x10 [1]) stop key off fault waits)).1
  · exact (feed_replies (v := 1) h (turnFeedOn_runs (s := s.received addr 0x10 [1]) stop key off fault ready)).1
  · exact (feed_replies h (show feedOwner [0] (s.received addr 0x10 [0]) = _ from rfl)).2
  · exact feed_refused h (feedOwner_badValue off on _)

/-! ### FAULT ACK (R39, R164) -/

theorem releaseHeld_other {s : State} (h : s.seq.feed ≠ .held) : releaseHeld s = s := if_neg h

theorem releaseHeld_held {s : State} (h : s.seq.feed = .held) :
    releaseHeld s = if runConditions s then examine (s.setFeed .run) else s.setFeed .pause :=
  if_pos h

/-- FAULT ACK replies the latch as it stood and the feed state after (R164, R176). -/
theorem exec_faultAck {addr : Byte} {s t : State} (h : TakesAny s addr) (acked : acknowledge (s.received addr 0x52 []) = t) :
    exec (.faultAck addr []) s =
      .next
        (t.answered addr 0x52
          ([if s.latch.latched then 1 else 0, faultCode s.latch.first, s.latch.seen.setWidth 8] ++
            [feedCode t.seq.feed])) := by
  subst acked
  exact congrArg Host.Outcome.next (takeFrame_any_reply h (show ([] : List Byte).length ≤ 240 by simp) rfl rfl rfl rfl)

/-- Settles O29: the acknowledgement by the flag, the feed state and the run conditions. -/
theorem faultAckClearsTheLatch : Obligations.FaultAckClearsTheLatch := by
  intro addr s h
  have clears (latched : s.latch.latched = true) : acknowledge (s.received addr 0x52 []) =
      releaseHeld { s.received addr 0x52 [] with latch := { latched := false, first := none, seen := 0#7 } } :=
    if_pos latched
  refine ⟨fun unlatched => ?_, fun latched => ⟨fun other => ?_, fun held waits => ?_, fun held ready => ?_⟩⟩
  · have nothing : acknowledge (s.received addr 0x52 []) = s.received addr 0x52 [] :=
      if_neg (show ¬s.latch.latched = true by simp [unlatched])
    exact exec_faultAck h nothing
  · exact exec_faultAck h ((clears latched).trans (releaseHeld_other other))
  · have paused := (clears latched).trans (releaseHeld_held held)
    rw [if_neg (by exact Bool.eq_false_iff.1 waits)] at paused
    exact exec_faultAck h paused
  · have runs := (clears latched).trans (releaseHeld_held held)
    rw [if_pos (by exact ready)] at runs
    have acked := exec_faultAck h runs
    rwa [examine_feed] at acked

end Sys2Proof.Machine

namespace Sys2Proof.Machine

open Sys2Proof

/-! ### Notices and latch requests (R39, R156, R160, R163) -/

/-- A latch request by the flag (R163). -/
theorem take_eq (l : FaultLatch) (r : FaultReason) :
    l.take r =
      { latched := true, first := if l.latched then l.first else some r
        seen := if l.latched then l.seen ||| reasonBit r else reasonBit r } := by
  obtain ⟨latched, first, seen⟩ := l
  cases latched <;> rfl

theorem heldByFault_eq (mode : FaultMode) (feed : FeedState) :
    heldByFault mode feed = if mode = .hold ∧ (feed = .run ∨ feed = .pause) then .held else feed := by
  cases mode <;> cases feed <;> rfl

/-- Settles O28: `notice_of_room`, `notice_of_full` and `latchFault_eq`, with the latch and the feed by `take_eq` and
`heldByFault_eq`. -/
theorem noticesAndLatchRequests : Obligations.NoticesAndLatchRequests := by
  refine ⟨fun code pos s => ⟨fun room => ?_, fun full => ?_⟩, fun r s => ?_⟩
  · exact notice_of_room room code pos
  · exact notice_of_full (by omega) code pos
  · rw [latchFault_eq, take_eq, heldByFault_eq]
    exact ⟨by cases r <;> rfl, rfl, rfl, rfl, rfl, rfl⟩

/-! ### The grant step outside RUN (R43, R44, R46) -/

theorem exec_grantStep_notDue {s : State} (hp : s.powered = true) (due : Due.grant ∉ s.due) : exec .grantStep s = .next s := by
  simp only [exec, execGrantStep, whenPowered_on hp]
  rw [if_neg]
  simpa using fun h => absurd h due

/-- The stations after an examination outside RUN (R46). -/
theorem feedStateGiven_get (v : Vector Station 4) (k : StationIx) :
    (v.map fun x => if x.state = .loaded then { x with waitReason := .feedState } else x)[k] =
      if v[k].state = .loaded then { v[k] with waitReason := .feedState } else v[k] :=
  Vector.getElem_map ..

theorem agedTail_eq (p : Pos) (o : Option Tail) :
    agedTail p o = match o with
      | some x => if 1000000 < posDiff p x.pos then none else some x
      | none => none := by
  cases o <;> rfl

/-- Settles O48: the examination outside RUN (`examine_outside_run`). -/
theorem grantStepOutsideRunOnlyGivesTheReason : Obligations.GrantStepOutsideRunOnlyGivesTheReason := by
  refine fun s hp => ⟨exec_grantStep_notDue hp, fun due mark outside => ⟨_, exec_grantStep_due hp due mark, ?_⟩⟩
  rw [examine_outside_run (s := dropDue .grant s) outside]
  exact ⟨feedStateGiven_get s.stations, fun w => (ageTails_get (dropDue .grant s) w).trans (agedTail_eq _ _), rfl⟩

/-! ### The seven grant conditions (R50 to R55) -/

/-- A lane of one set is missing from another. -/
theorem lanes_missing_iff (a b : LaneSet) :
    a &&& ~~~b ≠ 0#4 ↔ ∃ w, hasLane a w = true ∧ hasLane b w = false := by
  have some_ := someOpen_iff a b
  simpa only [someOpen, decide_eq_true_eq, laneOpen_iff] using some_

theorem openLot?_none {s : State} {id : Nat} (h : ∀ i : LotSlot, s.lot.lots[i].state ≠ .opened ∨ s.lot.lots[i].id ≠ id) :
    openLot? s id = none := by
  refine List.find?_eq_none.2 fun i _ => ?_
  rw [Bool.and_eq_true, decide_eq_true_eq, beq_iff_eq]
  exact fun ⟨opened, hid⟩ => (h i).elim (absurd opened) (absurd hid)

theorem freeBin?_eq_none {s : State} :
    freeBin? s = none ↔ ∀ b : Bin, b.val < s.prog.settings.binsEnabled → s.lot.bins[b] ≠ none := by
  refine ⟨fun h b usable => ?_, freeBin?_none⟩
  have taken := List.find?_eq_none.1 h b (mem_allBins b)
  rw [Bool.and_eq_true, decide_eq_true_eq, Option.isNone_iff_eq_none] at taken
  exact fun free => taken ⟨usable, free⟩

/-- No lot can be evicted when every bound lot is not OPEN or has pieces in flight (R133). -/
theorem evictable?_eq_none {s : State} :
    evictable? s = none ↔
      ∀ (b : Bin) (j : LotSlot), s.lot.bins[b] = some j → s.lot.lots[j].state ≠ .opened ∨ 0 < s.lot.lots[j].inFlight := by
  have best := evictable?_best s
  constructor
  · intro h b j hb
    rw [h] at best
    by_contra may
    rw [not_or, not_not, Nat.pos_iff_ne_zero, not_not] at may
    exact best j b b.isLt ⟨hb, may⟩
  · intro h
    cases he : evictable? s with
    | none => rfl
    | some jb =>
      rw [he] at best
      obtain ⟨-, ⟨hb, opened, idle⟩, -⟩ := best
      exact (h _ _ hb).elim (absurd opened) fun busy => absurd idle (Nat.ne_of_gt busy)

/-- The lot of slot i is unbound, and neither a free usable bin nor an eviction gives it one (R52). -/
def NoBin (s : State) (i : LotSlot) : Prop :=
  s.lot.lots[i].bin = none ∧ (∀ b : Bin, b.val < s.prog.settings.binsEnabled → s.lot.bins[b] ≠ none) ∧
    ∀ (b : Bin) (j : LotSlot), s.lot.bins[b] = some j → s.lot.lots[j].state ≠ .opened ∨ 0 < s.lot.lots[j].inFlight

/-- Every footprint lane leaves the gap of the program to the predicted entry e (R54). -/
def LaneGap (s : State) (foot : LaneSet) (gap : Nat) (e : Pos) : Prop :=
  ∀ w, hasLane foot w = true → ∀ x, s.seq.tails[w] = some x → (gap : Int) ≤ posDiff e x.pos

/-- Every enabled lane whose tail is of another lot leaves the lot gap to the predicted entry e (R55). -/
def LotGap (s : State) (id : Nat) (e : Pos) : Prop :=
  ∀ w, hasLane s.prog.settings.lanes w = true → ∀ x, s.seq.tails[w] = some x →
    x.lotId = id ∨ (s.prog.settings.lotGap : Int) ≤ posDiff e x.pos

theorem noBin_iff (s : State) (i : LotSlot) :
    (s.lot.lots[i].bin.isNone && (freeBin? s).isNone && (evictable? s).isNone) = true ↔ NoBin s i := by
  simp only [Bool.and_eq_true, Option.isNone_iff_eq_none, freeBin?_eq_none, evictable?_eq_none, NoBin, and_assoc]

/-- A property of the tail of some lane of a set fails. -/
theorem not_all_lanes_iff (foot : LaneSet) (p : Lane → Bool) :
    (!allLanes.all fun w => !hasLane foot w || p w) = true ↔ ¬∀ w, hasLane foot w = true → p w = true := by
  rw [Bool.not_eq_true', ← Bool.not_eq_true]
  simp only [List.all_eq_true, mem_allLanes, forall_const, Bool.or_eq_true, Bool.not_eq_true', ← Bool.not_eq_true,
    ← imp_iff_not_or]

theorem laneGap_fails_iff (s : State) (foot : LaneSet) (gap : Nat) (e : Pos) :
    (!allLanes.all fun w => !hasLane foot w || laneGapHolds s e gap w) = true ↔ ¬LaneGap s foot gap e := by
  rw [not_all_lanes_iff]
  refine not_congr (forall₂_congr fun w _ => ?_)
  unfold laneGapHolds
  cases s.seq.tails[w] <;> simp

theorem lotGap_fails_iff (s : State) (id : Nat) (e : Pos) :
    (!allLanes.all fun w => !hasLane s.prog.settings.lanes w || lotGapHolds s e id w) = true ↔ ¬LotGap s id e := by
  rw [not_all_lanes_iff]
  refine not_congr (forall₂_congr fun w _ => ?_)
  unfold lotGapHolds
  cases s.seq.tails[w] <;> simp

theorem failing_feedState {s : State} (outside : s.seq.feed ≠ .run) (k : StationIx) (a : Assignment) :
    failing s k a = some .feedState :=
  if_pos outside

section
variable {s : State} (run : s.seq.feed = .run) (k : StationIx) {a : Assignment}
include run

theorem failing_program (empty : s.prog.programs[a.program] = none) : failing s k a = some .program := by
  rw [failing, if_neg (not_not.2 run)]
  simp only [empty]

variable {pr : ProgramRec} (program : s.prog.programs[a.program] = some pr)
include program

theorem failing_lane (missing : ∃ w, hasLane (footprintOf pr.width k) w = true ∧ hasLane s.prog.settings.lanes w = false) :
    failing s k a = some .lane := by
  rw [failing, if_neg (not_not.2 run)]
  simp only [program, if_pos ((lanes_missing_iff _ _).2 missing)]

variable (lanes : ∀ w, hasLane (footprintOf pr.width k) w = true → hasLane s.prog.settings.lanes w = true)
include lanes

theorem failing_lot (closed : openLot? s a.lotId = none) : failing s k a = some .lot := by
  have enabled := mt (lanes_missing_iff (footprintOf pr.width k) s.prog.settings.lanes).1
    fun ⟨w, foot, missing⟩ => Bool.eq_false_iff.1 missing (lanes w foot)
  rw [failing, if_neg (not_not.2 run)]
  simp only [program, if_neg enabled, closed]

/-- The last four conditions, once the lot is open (R52 to R55). -/
theorem failing_of_lot {i : LotSlot} (lot : openLot? s a.lotId = some i) :
    let laneGap := LaneGap s (footprintOf pr.width k) pr.gapMin (eNew s k)
    let lotGap := LotGap s a.lotId (eNew s k)
    (NoBin s i → failing s k a = some .bin) ∧
      (¬NoBin s i →
        (62 < s.track.pool.length → failing s k a = some .pool) ∧
          (s.track.pool.length ≤ 62 →
            (¬laneGap → failing s k a = some .laneGap) ∧
              (laneGap → ¬lotGap → failing s k a = some .lotGap) ∧ (laneGap → lotGap → failing s k a = none))) := by
  have enabled := mt (lanes_missing_iff (footprintOf pr.width k) s.prog.settings.lanes).1
    fun ⟨w, foot, missing⟩ => Bool.eq_false_iff.1 missing (lanes w foot)
  have pool : s.freeRecords < 2 ↔ 62 < s.track.pool.length := by
    show 64 - s.track.pool.length < 2 ↔ _
    omega
  rw [failing, if_neg (not_not.2 run)]
  simp only [program, if_neg enabled, lot]
  refine ⟨fun bin => if_pos ((noBin_iff s i).2 bin), fun bin => ?_⟩
  rw [if_neg (mt (noBin_iff s i).1 bin)]
  refine ⟨fun full => if_pos (pool.2 full), fun room => ?_⟩
  rw [if_neg (mt pool.1 (Nat.not_lt.2 room))]
  refine ⟨fun lane => if_pos ((laneGap_fails_iff ..).2 lane), fun lane lotGap => ?_, fun lane lotGap => ?_⟩
  · rw [if_neg (mt (laneGap_fails_iff ..).1 (not_not.2 lane)), if_pos ((lotGap_fails_iff ..).2 lotGap)]
  · rw [if_neg (mt (laneGap_fails_iff ..).1 (not_not.2 lane)), if_neg (mt (lotGap_fails_iff ..).1 (not_not.2 lotGap))]

end

/-! ### The checks of an examination (R46 to R48, R57) -/

/-- The reasons with which a starving station blocks its footprint (R57). -/
theorem blocksWith_iff (why : WaitReason) : blocksWith why = true ↔ why ∈ [WaitReason.bin, .pool, .laneGap, .lotGap] := by
  cases why <;> decide

theorem openLot?_names {s : State} {id : Nat} {i : LotSlot} (names : NamesOpenLot s id i) : openLot? s id = some i := by
  obtain ⟨opened, hid, first⟩ := names
  rw [openLot?, allLotSlots_eq]
  refine find?_finRange (Bool.and_eq_true_iff.2 ⟨decide_eq_true opened, beq_iff_eq.2 hid⟩) fun j hj => ?_
  rw [Bool.eq_false_iff, ne_eq, Bool.and_eq_true, decide_eq_true_eq, beq_iff_eq]
  exact fun ⟨hs, hj'⟩ => (first j hj).elim (absurd hs) (absurd hj')

/-- The check of the model is that of the statements. -/
theorem checkStation_checked (starving : Bool) (k : StationIx) (x : Exam) : Checked starving k x (checkStation starving x k) where
  passed h := h.elim checkStation_pass checkStation_noSnapshot
  waits a why loaded snapshot fails := by
    rw [checkStation_fails loaded snapshot fails]
    refine ⟨rfl, rfl, ?_⟩
    simp only [Bool.and_eq_true, blocksWith_iff]
    cases x.state.prog.programs[a.program] with
    | none => simp only [Option.elim_none, BitVec.or_zero]
    | some pr => rfl
  holds a pr i loaded snapshot passes program names := by
    have lot := openLot?_names names
    refine ⟨fun shares => ?_, fun free => ?_⟩
    · exact checkStation_starves loaded snapshot passes program starving (decide_eq_true shares)
    · exact checkStation_grants_lot loaded snapshot passes program lot starving (by simpa [sharesLane] using free)

theorem Checks.append {l m : List (StationIx × Bool)} {x y z : Exam} (h : Checks l x y) (g : Checks m y z) :
    Checks (l ++ m) x z := by
  induction h with
  | done => exact g
  | next k starving rest x y z checked _ ih => exact .next k starving _ x y _ checked (ih g)

theorem checkAll_checks (starving : Bool) (l : List StationIx) (x : Exam) :
    Checks (l.map fun k => (k, starving)) x (l.foldl (checkStation starving) x) := by
  induction l generalizing x with
  | nil => exact .done x
  | cons k l ih => exact .next k starving _ x _ _ (checkStation_checked starving k x) (ih _)

/-- A station is starving as R57 has it. -/
theorem isStarving_eq (s : State) (k : StationIx) :
    isStarving s k =
      decide (s.stations[k].state = .loaded ∧ 0 < s.prog.settings.starveLimit ∧
        s.prog.settings.starveLimit ≤ s.stations[k].waitCount) := by
  rw [isStarving, Bool.decide_and, Bool.decide_and, Bool.and_assoc]

/-- The aged tails are determined lane by lane (R43). -/
theorem examStart_of_tails {s : State} {tails : Vector (Option Tail) 4}
    (aged : ∀ w : Lane, tails[w] =
      match s.seq.tails[w] with
      | some x => if 1000000 < posDiff s.line.p x.pos then none else some x
      | none => none) :
    examStart s = { s with seq := { s.seq with mark := s.line.p, tails := tails } } := by
  have same : (examStart s).seq.tails = tails :=
    Vector.ext fun w hw =>
      ((ageTails_get _ (⟨w, hw⟩ : Lane)).trans (agedTail_eq _ _)).trans (aged ⟨w, hw⟩).symm
  exact congrArg (fun v => { s with seq := { s.seq with mark := s.line.p, tails := v } }) same

/-- The stations that are checked after the starving ones (R57). -/
theorem others_eq (p : StationIx → Bool) (l : List StationIx) :
    (l.filter fun k => !(allStations.filter p).contains k) = l.filter fun k => !p k := by
  refine List.filter_congr fun k _ => ?_
  rw [Bool.eq_iff_iff]
  simp [mem_allStations]

/-- The checks of an examination in RUN, the starving stations first, and the scan start after them (R46 to R48, R57). -/
theorem examine_checks {s : State} (run : s.seq.feed = .run) :
    let u := examStart s
    let others := (rotationFrom s.prog.settings.rotation s.seq.scanStart).filter fun k => !isStarving u k
    ∃ x : Exam,
      Checks (((allStations.filter (isStarving u)).map fun k => (k, true)) ++ others.map fun k => (k, false))
        ⟨u, 0#4, none⟩ x ∧
      examine s = { x.state with seq := { x.state.seq with scanStart := scanAfter s.seq.scanStart x.last } } := by
  refine ⟨examined s, ?_, ?_⟩
  · rw [← others_eq]
    exact (checkAll_checks true _ _).append (checkAll_checks false _ _)
  · have scan : (examined s).state.seq.scanStart = s.seq.scanStart := by
      rw [(examined_grantKept s).seq]
      rfl
    rw [examine_in_run run, scan]

/-- Settles O49: the conditions one by one (`failing_program` to `failing_of_lot`), the examination outside RUN
(`examine_outside_run`) and in RUN (`examine_checks`). -/
theorem firstFailingConditionIsTheReason : Obligations.FirstFailingConditionIsTheReason := by
  refine ⟨fun k a s one => ⟨fun outside => failing_feedState outside k a, fun run => ⟨failing_program run k, fun pr program =>
    ⟨failing_lane run k program, fun lanes => ⟨fun closed => failing_lot run k program lanes (openLot?_none closed),
      fun i opened hid => failing_of_lot run k program lanes (openLot?_one one opened hid)⟩⟩⟩⟩,
    fun tails s aged => ⟨fun outside => ?_, fun run => ?_⟩⟩
  · have start : (ageTails s).seq.tails = tails :=
      Vector.ext fun w hw => ((ageTails_get s (⟨w, hw⟩ : Lane)).trans (agedTail_eq _ _)).trans (aged ⟨w, hw⟩).symm
    refine ⟨_, feedStateGiven_get s.stations, ?_⟩
    rw [examine_outside_run outside, start]
  · obtain ⟨x, checks, result⟩ := examine_checks run
    rw [examStart_of_tails aged] at checks
    refine ⟨x, ?_, ?_⟩
    · simp only [← isStarving_eq]
      exact checks
    · rw [result]
      cases x.last <;> rfl

end Sys2Proof.Machine

namespace Sys2Proof.Machine

open Sys2Proof

/-! ### What the consequences of a dropped slot leave of a release of the stop (R125, R126) -/

/-- The number of slots marked passed under stop (R124). -/
def passedCount (l : List Slot) : Nat := l.countP (·.passed)

/-- What an act under way at the release of the stop leaves: the flaps, a feed that is OFF, and no slot marked that was not (R38,
R115, R125). -/
structure StopKept (s t : State) : Prop extends FlapsKept s t where
  feed : s.seq.feed = .off → t.seq.feed = .off
  passed : passedCount t.sched.slots ≤ passedCount s.sched.slots

theorem StopKept.trans {s t u : State} (h : StopKept s t) (k : StopKept t u) : StopKept s u where
  toFlapsKept := h.toFlapsKept.trans k.toFlapsKept
  feed off := k.feed (h.feed off)
  passed := k.passed.trans h.passed

/-- What `StopKept` reads of a state. -/
def State.stopView (s : State) : Inputs × Scheduler × FeedState := (s.inputs, s.sched, s.seq.feed)

/-- An act that leaves the inputs, the Actuator Scheduler and the feed state alone. -/
theorem StopKept.still {s t : State} (same : t.stopView = s.stopView) : StopKept s t := by
  simp only [State.stopView, Prod.mk.injEq] at same
  obtain ⟨inputs, sched, feed⟩ := same
  exact ⟨.of_eq inputs (by rw [sched]) (by rw [sched]), feed.trans, by rw [sched]⟩

/-- An act that starts from a state of the same view. -/
theorem StopKept.after {s t u : State} (h : StopKept t u) (same : t.stopView = s.stopView) : StopKept s u :=
  (StopKept.still same).trans h

theorem StopKept.refl (s : State) : StopKept s s := .still rfl

theorem StopKept.foldl {α : Type} {f : State → α → State} (hf : ∀ s a, StopKept s (f s a)) (l : List α) (s : State) :
    StopKept s (l.foldl f s) := by
  induction l generalizing s with
  | nil => exact .refl s
  | cons a l ih => exact (hf s a).trans (ih (f s a))

/-! ### The log, the latch and the examination -/

theorem notice_stopKept (code : Nat) (pos : Pos) (s : State) : StopKept s (notice code pos s) := by
  unfold notice
  split
  · exact .still rfl
  · exact .still rfl

/-- A latch request leaves a feed that is OFF as it is (R39). -/
theorem latchFault_stopKept (r : FaultReason) (s : State) : StopKept s (latchFault r s) := by
  refine ⟨.of_eq rfl rfl rfl, fun off => ?_, Nat.le_refl _⟩
  rw [latchFault_eq, off]
  exact heldByFault_off _

theorem examine_stopKept (s : State) : StopKept s (examine s) := by
  obtain ⟨flaps, feed, -, slots⟩ := examine_still s
  exact ⟨flaps, feed.trans, by rw [slots]⟩

theorem unbindLot_stopKept (i : LotSlot) (s : State) : StopKept s (unbindLot i s) := by
  have kept := unbindLot_grantKept i s
  exact ⟨kept.toFlapsKept, (congrArg Sequencer.feed kept.seq).trans, by rw [kept.slots]⟩

/-! ### The slot table -/

theorem passedCount_filterMap {f : Slot → Option Slot} (h : ∀ y z, f y = some z → z.passed = y.passed) (l : List Slot) :
    passedCount (l.filterMap f) ≤ passedCount l := by
  unfold passedCount
  induction l with
  | nil => exact Nat.le_refl _
  | cons y l ih =>
    cases hf : f y with
    | none =>
      rw [List.filterMap_cons_none hf]
      rw [List.countP_cons]
      exact Nat.le_add_right_of_le ih
    | some z =>
      rw [List.filterMap_cons_some hf, List.countP_cons, List.countP_cons, h y z hf]
      omega

/-- A cancellation takes a slot out of the table or a tag out of a slot (R118). -/
theorem cancelSlot_stopKept (tag place : Nat) (s : State) : StopKept s (cancelSlot tag place s) := by
  refine ⟨.of_eq rfl rfl rfl, id, passedCount_filterMap (fun y z hz => ?_) _⟩
  split at hz
  · unfold withdraw at hz
    split at hz
    · dsimp only at hz
      split at hz
      · cases hz
      · cases hz
        rfl
    · cases hz
      rfl
  · cases hz
    rfl

theorem cancelSlots_stopKept (tag : Nat) (places : List Nat) (s : State) : StopKept s (cancelSlots tag places s) :=
  StopKept.foldl (f := fun s pl => cancelSlot tag pl s) (fun s pl => cancelSlot_stopKept tag pl s) places s

/-- A slot is made unmarked (R117). -/
theorem makeSlot_stopKept {pos : Pos} {a : SlotAction} {d : Drive} {tag : Nat} {s t : State}
    (h : makeSlot pos a d tag s = some t) : StopKept s t := by
  obtain ⟨place, rfl⟩ := makeSlot_some h
  refine ⟨.of_eq rfl rfl rfl, id, ?_⟩
  dsimp only
  rw [passedCount, (insertSlot_perm _ _ _).countP_eq, List.countP_cons_of_neg (by simp)]
  exact Nat.le_refl _

/-! ### Completions (R69, R70) -/

theorem applyStaged_stopKept (ix : ProgramIx) (s : State) : StopKept s (applyStaged ix s) := by
  unfold applyStaged
  split
  · split
    · exact (examine_stopKept _).after rfl
    · exact .refl s
  · exact .refl s

theorem stagedIfDone_stopKept (r : Piece) (s : State) : StopKept s (stagedIfDone r s) := by
  unfold stagedIfDone
  split
  · exact applyStaged_stopKept _ s
  · exact .refl s

theorem requestSummary_stopKept (i : LotSlot) (s : State) : StopKept s (requestSummary i s) := by
  unfold requestSummary
  split
  · exact .still rfl
  · exact .still rfl

theorem closeAndApply_stopKept (r : Piece) (s : State) : StopKept s (closeAndApply r s) := by
  have closes (i : LotSlot) : StopKept s (endClose i (stagedIfDone r) s) := by
    unfold endClose
    split
    · exact (((unbindLot_stopKept i s).trans (stagedIfDone_stopKept r _)).trans (examine_stopKept _)).trans
        (requestSummary_stopKept i _)
    · exact (stagedIfDone_stopKept r s).trans (requestSummary_stopKept i _)
  unfold closeAndApply
  split
  · split
    · exact closes _
    · exact stagedIfDone_stopKept r s
  · exact stagedIfDone_stopKept r s

theorem countPiece_stopView (r : Piece) (k : CompletionKind) (s : State) : (countPiece r k s).stopView = s.stopView := by
  unfold countPiece
  rcases r.lot with _ | l <;> rcases r.program with _ | ix <;> rfl

theorem requestPiece_stopKept (tag : Nat) (s : State) : StopKept s (requestPiece tag s) := by
  have written : StopKept s (writePiece tag s) := by
    unfold writePiece
    split
    · next r _ =>
      split
      · next c _ =>
        have counted : StopKept s ((countPiece r c.kind (appendEntry (.piece (pieceEntry r c)) s)).freePiece tag) :=
          .still (countPiece_stopView r c.kind _)
        exact (counted.trans (closeAndApply_stopKept r _)).trans (examine_stopKept _)
      · exact .refl s
    · exact .refl s
  unfold requestPiece
  split
  · exact written
  · exact .still rfl

theorem complete_stopKept (tag : Nat) (k : CompletionKind) (st : Option Stage) (s : State) :
    StopKept s (complete tag k st s) := by
  unfold complete
  split
  · split
    · exact .refl s
    · next r _ _ =>
      have completed :
          (s.modPiece tag fun r => { r with completion := some { kind := k, stage := st, pos := s.line.p } }).stopView =
            s.stopView :=
        rfl
      exact ((cancelSlots_stopKept tag r.actions _).after completed).trans ((requestPiece_stopKept _ _).after rfl)
  · exact .refl s

theorem expire_stopKept (st : Stage) (tag : Nat) (s : State) : StopKept s (expire st tag s) :=
  (latchFault_stopKept .lost s).trans (complete_stopKept _ _ _ _)

theorem becomeUndiverted_stopKept (tag : Nat) (s : State) : StopKept s (becomeUndiverted tag s) := by
  have expires (u : State) : StopKept u (expireOrHold .fold tag u) := by
    unfold expireOrHold
    split
    · split
      · exact .still rfl
      · exact expire_stopKept _ _ u
    · exact .refl u
  unfold becomeUndiverted
  dsimp only
  split
  · split
    · exact (expires _).after rfl
    · exact .still rfl
  · exact .still rfl

/-! ### The reject plan (R104 to R106) -/

theorem rejectPlan_stopKept (tag : Nat) (s : State) : StopKept s (rejectPlan tag s) := by
  unfold rejectPlan
  split
  · split
    · exact .refl s
    · dsimp only
      split
      · exact (latchFault_stopKept .undiverted s).trans (becomeUndiverted_stopKept _ _)
      · split
        · next made => exact makeSlot_stopKept made
        · exact ((latchFault_stopKept .noSlot (takeReason tag .slotFull s)).trans (complete_stopKept _ _ _ _)).after rfl
  · exact .refl s

theorem reasonArrives_stopKept (tag : Nat) (why : RejectReason) (s : State) : StopKept s (reasonArrives tag why s) := by
  have away (u : State) : StopKept u (planAway tag u) := by
    unfold planAway
    split
    · exact (cancelSlots_stopKept _ _ u).trans (rejectPlan_stopKept _ _)
    · exact .refl u
  unfold reasonArrives
  split
  · split
    · exact .refl s
    · dsimp only
      split
      · exact (away (takeReason tag why s)).after rfl
      · exact .still rfl
  · exact .refl s

/-! ### A marked slot dropped (R125, R126) -/

theorem droppedFor_stopKept (a : SlotAction) (s : State) (tag : Nat) : StopKept s (droppedFor a s tag) := by
  unfold droppedFor
  split
  · exact (latchFault_stopKept .undiverted s).trans (becomeUndiverted_stopKept _ _)
  · exact expire_stopKept _ _ s
  · exact reasonArrives_stopKept _ _ s

theorem droppedFor_kept (a : SlotAction) (s : State) (tag : Nat) : KeptGrowing s (droppedFor a s tag) := by
  unfold droppedFor
  split
  · exact (latchFault_kept .undiverted s).growing.trans (becomeUndiverted_kept _ _)
  · exact (expire_kept _ _ s).growing
  · exact reasonArrives_kept _ _ s

theorem dropSlot_kept (y : Slot) (s : State) : KeptGrowing s (dropSlot y s) :=
  ((notice_kept _ _ s).trans (removeSlot_kept y _)).growing.trans (KeptGrowing.foldl _ (droppedFor_kept y.action) _ _)

theorem removeSlot_slots (y : Slot) (s : State) :
    (removeSlot y s).sched.slots = s.sched.slots.filter fun z => z.place ≠ y.place := by
  rw [removeSlot_eq]
  rfl

theorem passedCount_le_length (l : List Slot) : passedCount l ≤ l.length := List.countP_le_length

theorem passedCount_split {y : Slot} (marked : y.passed = true) (before after : List Slot) :
    passedCount (before ++ y :: after) = passedCount before + (passedCount after + 1) := by
  rw [passedCount, List.countP_append, List.countP_cons_of_pos marked]
  rfl

/-- The slots without one of them that is marked have fewer marked among them. -/
theorem passedCount_without {y : Slot} {l : List Slot} (hy : y ∈ l) (marked : y.passed = true) :
    passedCount (l.filter fun z => z.place ≠ y.place) + 1 ≤ passedCount l := by
  obtain ⟨before, after, rfl⟩ := List.append_of_mem hy
  have kept (m : List Slot) : passedCount (m.filter fun z => z.place ≠ y.place) ≤ passedCount m :=
    List.filter_sublist.countP_le
  rw [passedCount_split marked, List.filter_append, List.filter_cons_of_neg (by simp), passedCount, List.countP_append]
  have := kept before
  have := kept after
  unfold passedCount at *
  omega

/-- A marked slot that is dropped leaves fewer marked slots (R125). -/
theorem dropSlot_stopKept {y : Slot} {s : State} (hy : y ∈ s.sched.slots) (marked : y.passed = true) :
    StopKept s (dropSlot y s) ∧ passedCount (dropSlot y s).sched.slots + 1 ≤ passedCount s.sched.slots := by
  have noticed := notice_stopKept (droppedCode y.action) y.pos s
  have slots : (notice (droppedCode y.action) y.pos s).sched.slots = s.sched.slots := by
    unfold notice
    split <;> rfl
  have fewer : passedCount (removeSlot y (notice (droppedCode y.action) y.pos s)).sched.slots + 1 ≤
      passedCount s.sched.slots := by
    rw [removeSlot_slots, slots]
    exact passedCount_without hy marked
  have removed : StopKept s (removeSlot y (notice (droppedCode y.action) y.pos s)) := by
    refine noticed.trans ?_
    rw [removeSlot_eq]
    exact ⟨.of_eq rfl rfl rfl, id, List.filter_sublist.countP_le⟩
  have dropped := StopKept.foldl (droppedFor_stopKept y.action) y.tags (removeSlot y (notice (droppedCode y.action) y.pos s))
  exact ⟨removed.trans dropped, (Nat.succ_le_succ dropped.passed).trans fewer⟩

end Sys2Proof.Machine

namespace Sys2Proof.Machine

open Sys2Proof

/-! ### The marked slots dropped one after another (R125) -/

theorem passedCount_eq_zero (l : List Slot) : passedCount l = 0 ↔ ∀ y ∈ l, y.passed = false := by
  simp only [passedCount, List.countP_eq_zero, Bool.not_eq_true]

theorem dropPassed_none {s : State} (h : ∀ y ∈ s.sched.slots, y.passed = false) (fuel : Nat) : dropPassed fuel s = s := by
  have none_ : s.sched.slots.find? (·.passed) = none := List.find?_eq_none.2 fun y hy => by simp [h y hy]
  cases fuel with
  | zero => rfl
  | succ n => simp only [dropPassed, none_]

theorem dropPassed_some {y : Slot} {s : State} (h : s.sched.slots.find? (·.passed) = some y) (fuel : Nat) :
    dropPassed (fuel + 1) s = dropPassed fuel (dropSlot y s) := by
  simp only [dropPassed, h]

/-- A marked slot is found, or there is none. -/
theorem find?_passed (l : List Slot) :
    (∀ y ∈ l, y.passed = false) ∨ ∃ y, l.find? (·.passed) = some y ∧ y ∈ l ∧ y.passed = true := by
  cases h : l.find? (·.passed) with
  | none => exact .inl fun y hy => Bool.eq_false_iff.2 (List.find?_eq_none.1 h y hy)
  | some y => exact .inr ⟨y, rfl, List.mem_of_find?_eq_some h, List.find?_some h⟩

/-- With as many turns as slots are marked, one turn more changes nothing. -/
theorem dropPassed_succ {fuel : Nat} {s : State} (enough : passedCount s.sched.slots ≤ fuel) :
    dropPassed (fuel + 1) s = dropPassed fuel s := by
  induction fuel generalizing s with
  | zero =>
    have unmarked := (passedCount_eq_zero _).1 (Nat.le_zero.1 enough)
    rw [dropPassed_none unmarked, dropPassed_none unmarked]
  | succ n ih =>
    rcases find?_passed s.sched.slots with unmarked | ⟨y, found, hy, marked⟩
    · rw [dropPassed_none unmarked, dropPassed_none unmarked]
    · have fewer := (dropSlot_stopKept hy marked).2
      rw [dropPassed_some found, dropPassed_some found, ih (by omega)]

/-- With as many turns as slots are marked, none is marked in the end (R125). -/
theorem dropPassed_unmarks {fuel : Nat} {s : State} (enough : passedCount s.sched.slots ≤ fuel) :
    passedCount (dropPassed fuel s).sched.slots = 0 := by
  induction fuel generalizing s with
  | zero => exact Nat.le_zero.1 enough
  | succ n ih =>
    rcases find?_passed s.sched.slots with unmarked | ⟨y, found, hy, marked⟩
    · rw [dropPassed_none unmarked]
      exact (passedCount_eq_zero _).2 unmarked
    · have fewer := (dropSlot_stopKept hy marked).2
      rw [dropPassed_some found]
      exact ih (by omega)

theorem dropPassed_keeps (fuel : Nat) (s : State) : StopKept s (dropPassed fuel s) ∧ KeptGrowing s (dropPassed fuel s) := by
  induction fuel generalizing s with
  | zero => exact ⟨.refl s, .refl s⟩
  | succ n ih =>
    rcases find?_passed s.sched.slots with unmarked | ⟨y, found, hy, marked⟩
    · rw [dropPassed_none unmarked]
      exact ⟨.refl s, .refl s⟩
    · rw [dropPassed_some found]
      exact ⟨(dropSlot_stopKept hy marked).1.trans (ih _).1, (dropSlot_kept y s).trans (ih _).2⟩

/-! ### The held releases started (R115, R137) -/

/-- A release held for bin b starts: its flap is closed (R115). -/
abbrev Startable (s : State) (b : Bin) : Prop := s.sched.held[b] = true ∧ s.sched.out.bf[b] = none

/-- The held releases of a list of bins whose flap is closed have started, and nothing else has changed (R115, R137). -/
structure StartedFor (l : List Bin) (s t : State) : Prop where
  held : ∀ b : Bin, t.sched.held[b] = if b ∈ l then s.sched.held[b] && s.sched.out.bf[b].isSome else s.sched.held[b]
  pulse : ∀ b : Bin, t.sched.out.sr[b] =
    if b ∈ l ∧ Startable s b then some (max (s.sched.out.sr[b].getD 0) (s.line.now + s.prog.settings.wSr))
    else s.sched.out.sr[b]
  lots : ∀ i : LotSlot, t.lot.lots[i] =
    if ∃ b : Bin, b ∈ l ∧ Startable s b ∧ s.lot.bins[b] = some i then { s.lot.lots[i] with stackCount := 0 }
    else s.lot.lots[i]
  rest : t =
    { s with
      sched := { s.sched with held := t.sched.held, out := { s.sched.out with sr := t.sched.out.sr } }
      lot := { s.lot with lots := t.lot.lots } }

theorem StartedFor.nil (s : State) : StartedFor [] s s where
  held _ := (if_neg List.not_mem_nil).symm
  pulse _ := (if_neg fun h => List.not_mem_nil h.1).symm
  lots _ := (if_neg fun ⟨_, h, _⟩ => List.not_mem_nil h).symm
  rest := rfl

theorem startHeld_stays {b : Bin} {s : State} (h : ¬Startable s b) : startHeld b s = s := by
  refine if_neg fun g => h ?_
  rw [Bool.and_eq_true, Bool.and_eq_true, Option.isNone_iff_eq_none] at g
  exact ⟨g.1.1, g.2⟩

/-- What the release of one bin does. -/
theorem startHeld_started {b : Bin} {s : State} (stop : s.inputs.estop = false) : StartedFor [b] s (startHeld b s) := by
  by_cases h : Startable s b
  · rw [startHeld_starts h.1 stop h.2]
    refine ⟨fun d => ?_, fun d => ?_, fun i => ?_, ?_⟩
    · refine (set_get s.sched.held b d false).trans ?_
      by_cases hd : b = d
      · subst hd
        simp [h.2]
      · simp [hd, Ne.symm hd]
    · refine (set_get s.sched.out.sr b d _).trans ?_
      by_cases hd : b = d
      · subst hd
        simp [h]
      · simp [hd, Ne.symm hd]
    · unfold State.releaseStarted
      cases hb : s.lot.bins[b] with
      | none =>
        refine (if_neg fun ⟨d, hd, _, bound⟩ => ?_).symm
        rw [List.mem_singleton.1 hd, hb] at bound
        cases bound
      | some j =>
        refine (set_get s.lot.lots j i _).trans ?_
        by_cases hi : j = i
        · subst hi
          exact (if_pos rfl).trans (if_pos ⟨b, List.mem_singleton_self b, h, hb⟩).symm
        · refine (if_neg hi).trans (if_neg fun ⟨d, hd, _, bound⟩ => hi ?_).symm
          rw [List.mem_singleton.1 hd, hb] at bound
          exact Option.some.inj bound
    · unfold State.releaseStarted
      cases s.lot.bins[b] <;> rfl
  · rw [startHeld_stays h]
    refine ⟨fun d => ?_, fun d => ?_, fun i => ?_, rfl⟩
    · by_cases hd : d = b
      · subst hd
        rw [if_pos (List.mem_singleton_self d)]
        cases held : s.sched.held[d] with
        | false => rfl
        | true => exact (Option.isSome_iff_ne_none.2 fun closed => h ⟨held, closed⟩).symm
      · simp [hd]
    · exact (if_neg fun ⟨hd, g⟩ => h (List.mem_singleton.1 hd ▸ g)).symm
    · exact (if_neg fun ⟨d, hd, g, _⟩ => h (List.mem_singleton.1 hd ▸ g)).symm

/-- The release of one bin, and then those of a list. -/
theorem StartedFor.cons {b : Bin} {l : List Bin} {s t u : State} (first : StartedFor [b] s t) (others : StartedFor l t u) :
    StartedFor (b :: l) s u := by
  have flaps : t.sched.out.bf = s.sched.out.bf := by rw [first.rest]
  have bins : t.lot.bins = s.lot.bins := by rw [first.rest]
  have line : t.line = s.line := by rw [first.rest]
  have settings : t.prog.settings = s.prog.settings := by rw [first.rest]
  have startable (d : Bin) : Startable t d ↔ Startable s d ∧ d ≠ b := by
    rw [Startable, Startable, first.held, flaps]
    by_cases hd : d = b
    · subst hd
      cases s.sched.out.bf[d] <;> simp
    · simp [hd]
  refine ⟨fun d => ?_, fun d => ?_, fun i => ?_, ?_⟩
  · rw [others.held, first.held, flaps]
    by_cases hd : d = b <;> by_cases hl : d ∈ l <;> simp [hd, hl]
  · simp only [others.pulse, first.pulse, startable, line, settings, List.mem_cons]
    by_cases hd : d = b <;> simp [hd]
  · have either : (∃ d : Bin, d ∈ b :: l ∧ Startable s d ∧ s.lot.bins[d] = some i) ↔
        (∃ d : Bin, d ∈ [b] ∧ Startable s d ∧ s.lot.bins[d] = some i) ∨
          ∃ d : Bin, d ∈ l ∧ Startable t d ∧ t.lot.bins[d] = some i := by
      simp only [startable, bins, List.mem_cons, List.not_mem_nil, or_false]
      constructor
      · rintro ⟨d, hd, starts, bound⟩
        by_cases e : d = b
        · exact .inl ⟨d, e, starts, bound⟩
        · exact .inr ⟨d, hd.resolve_left e, ⟨starts, e⟩, bound⟩
      · rintro (⟨d, e, starts, bound⟩ | ⟨d, hd, ⟨starts, -⟩, bound⟩)
        · exact ⟨d, .inl e, starts, bound⟩
        · exact ⟨d, .inr hd, starts, bound⟩
    rw [others.lots, first.lots]
    simp only [either]
    split
    · next later =>
      simp only [later, or_true, if_true]
      split <;> rfl
    · next now => simp only [now, or_false]
  · rw [others.rest, first.rest]

theorem startHelds_started {l : List Bin} {s : State} (stop : s.inputs.estop = false) :
    StartedFor l s (l.foldl (fun s b => startHeld b s) s) := by
  induction l generalizing s with
  | nil => exact .nil s
  | cons b l ih => exact (startHeld_started stop).cons (ih ((congrArg Inputs.estop (startHeld_kept b s).inputs).trans stop))

theorem StartedFor.heldStarted {s t : State} (h : StartedFor allBins s t) : HeldStarted s t where
  held b := (h.held b).trans (if_pos (mem_allBins b))
  pulse b := by simp only [h.pulse, mem_allBins, true_and]
  lots i := by simp only [h.lots, mem_allBins, true_and, and_assoc]
  rest := h.rest

/-- Where no held release can start, none does. -/
theorem startHelds_stay {l : List Bin} {s : State} (h : ∀ b, ¬Startable s b) : l.foldl (fun s b => startHeld b s) s = s := by
  induction l with
  | nil => rfl
  | cons b l ih => rw [List.foldl_cons, startHeld_stays (h b), ih]

/-! ### ESTOP inactive (R38, R115, R125, R126) -/

/-- ESTOP taken as inactive, before anything comes of it (R125). -/
def State.stopEnded (s : State) : State := { s with inputs := { s.inputs with estop := false } }

theorem stopEnded_of_inactive {s : State} (h : s.inputs.estop = false) : s.stopEnded = s := by
  have inputs : { s.inputs with estop := false } = s.inputs := by rw [← h]
  exact congrArg (fun i => { s with inputs := i }) inputs

theorem exec_estopInactive {s : State} (hp : s.powered = true) :
    exec .estopInactive s =
      .next
        (if s.inputs.estop then allBins.foldl (fun s b => startHeld b s) (dropPassed 32 s.stopEnded) else s) := by
  simp only [exec, execEstopInactive, whenPowered_on hp]
  rfl

/-- A marked slot dropped, as the statements say it (R125, R126). -/
theorem dropSlot_eq (y : Slot) (s : State) :
    dropSlot y s = y.tags.foldl (droppedFor y.action) ((notice (droppedCode y.action) y.pos s).withoutSlot y) := by
  rw [dropSlot, removeSlot_eq]

/-- Dropping the first marked slot and releasing the stop from there comes to releasing the stop (R125). -/
theorem exec_estopInactive_first {s : State} {y : Slot} (hp : s.powered = true) (active : s.inputs.estop = true)
    (few : s.sched.slots.length ≤ 32) (found : s.sched.slots.find? (·.passed) = some y) :
    let v := dropSlot y s.stopEnded
    exec .estopInactive s = exec .estopInactive { v with inputs := { v.inputs with estop := true } } := by
  intro v
  have fewer : passedCount v.sched.slots + 1 ≤ passedCount s.sched.slots :=
    (dropSlot_stopKept (s := s.stopEnded) (List.mem_of_find?_eq_some found) (List.find?_some found)).2
  have enough : passedCount v.sched.slots ≤ 31 := by
    have all := passedCount_le_length s.sched.slots
    omega
  have kept : KeptGrowing s.stopEnded v := dropSlot_kept y s.stopEnded
  have stopped : { v with inputs := { v.inputs with estop := true } }.stopEnded = v :=
    stopEnded_of_inactive (s := v) (congrArg Inputs.estop kept.inputs)
  have after := exec_estopInactive (s := { v with inputs := { v.inputs with estop := true } }) (kept.powered.trans hp)
  rw [if_pos rfl, stopped, dropPassed_succ enough] at after
  rw [exec_estopInactive hp, if_pos active, dropPassed_some (s := s.stopEnded) found, after]

/-- With no release held, no release starts once the marked slots are dropped (R115). -/
theorem not_startable_of_kept {s t : State} (h : FlapsKept s t) (stop : s.inputs.estop = false)
    (none_ : ∀ b : Bin, s.sched.held[b] = false) (b : Bin) : ¬Startable t b := by
  rintro ⟨held, closed⟩
  rcases h.held b held with before | active | opened
  · rw [none_ b] at before
    cases before
  · rw [stop] at active
    cases active
  · rw [← h.flaps, closed] at opened
    cases opened

/-- Settles O47: the marked slots are dropped one after another (`dropPassed_unmarks`, `exec_estopInactive_first`), and then the
held releases start (`startHelds_started`). -/
theorem estopInactiveDropsTheMarkedSlots : Obligations.EstopInactiveDropsTheMarkedSlots := by
  refine fun s hp => ⟨fun inactive => ?_, fun active few => ?_⟩
  · rw [exec_estopInactive hp, if_neg (by simp [inactive])]
  have run := exec_estopInactive hp
  rw [if_pos active] at run
  have enough : passedCount s.stopEnded.sched.slots ≤ 32 := (passedCount_le_length s.sched.slots).trans few
  have first {y : Slot} {before after : List Slot} (slots : s.sched.slots = before ++ y :: after) (marked : y.passed = true)
      (unmarked : ∀ z ∈ before, z.passed = false) : s.sched.slots.find? (·.passed) = some y :=
    find?_of_split slots unmarked marked
  refine ⟨⟨_, run, ?_⟩, fun unmarked => ⟨_, run, ?_⟩, fun y before after slots marked unmarked => ?_, fun free =>
    ⟨fun unmarked => ?_, fun y before after slots marked unmarked => ?_⟩⟩
  · obtain ⟨calm, kept⟩ := dropPassed_keeps 32 s.stopEnded
    have unmarked := (passedCount_eq_zero _).1 (dropPassed_unmarks enough)
    generalize dropPassed 32 s.stopEnded = d at calm kept unmarked
    have started := startHelds_started (l := allBins) (congrArg Inputs.estop kept.inputs)
    rw [started.rest]
    exact ⟨kept.inputs, kept.line, kept.eyes, unmarked, calm.feed⟩
  · rw [dropPassed_none (s := s.stopEnded) unmarked]
    exact (startHelds_started (s := s.stopEnded) rfl).heldStarted
  · have dropped := exec_estopInactive_first hp active few (first slots marked unmarked)
    rw [dropSlot_eq] at dropped
    exact dropped
  · rw [run, dropPassed_none (s := s.stopEnded) unmarked,
      startHelds_stay (not_startable_of_kept (s := s.stopEnded) (.refl _) rfl free)]
    rfl
  · have found := first slots marked fun z hz => unmarked z (List.mem_append_left _ hz)
    obtain ⟨calm, fewer⟩ := dropSlot_stopKept (s := s.stopEnded) (List.mem_of_find?_eq_some found) marked
    have one : passedCount s.stopEnded.sched.slots = 1 := by
      have before_ := (passedCount_eq_zero before).2 fun z hz => unmarked z (List.mem_append_left _ hz)
      have after_ := (passedCount_eq_zero after).2 fun z hz => unmarked z (List.mem_append_right _ hz)
      exact (congrArg passedCount slots).trans (by rw [passedCount_split marked, before_, after_])
    have none_ := (passedCount_eq_zero _).1 (show passedCount (dropSlot y s.stopEnded).sched.slots = 0 by omega)
    rw [run, dropPassed_some (s := s.stopEnded) found, dropPassed_none none_,
      startHelds_stay (not_startable_of_kept calm.toFlapsKept rfl free), dropSlot_eq]
    rfl

end Sys2Proof.Machine

namespace Sys2Proof.Machine

open Sys2Proof

/-! ### Numbers in a run of characters (R168) -/

theorem b8_toNat (n : Nat) : (b8 n).toNat = n % 256 := BitVec.toNat_ofNat n 8

/-- The number in a character. -/
theorem rd8_of {b : List Byte} {i n : Nat} (h : b.getD i 0 = b8 n) : rd8 b i = n % 256 := by
  rw [rd8, h, b8_toNat]

theorem rd16_eq (b : List Byte) (i : Nat) : rd16 b i = rd8 b i + 256 * rd8 b (i + 1) := rfl

theorem rd32_eq (b : List Byte) (i : Nat) :
    rd32 b i = rd8 b i + 256 * rd8 b (i + 1) + 65536 * rd8 b (i + 2) + 16777216 * rd8 b (i + 3) := by
  simp only [rd32, rd16_eq, Nat.add_assoc, Nat.reduceAdd]
  omega

/-- The number in the two characters of a field. -/
theorem rd16_of {b : List Byte} {i n : Nat} (h : [b.getD i 0, b.getD (i + 1) 0] = le16 n) : rd16 b i = n % 65536 := by
  obtain ⟨low, high⟩ : b.getD i 0 = b8 n ∧ b.getD (i + 1) 0 = b8 (n / 256) := by
    simpa only [le16, b8, List.cons.injEq, and_true] using h
  rw [rd16_eq, rd8_of low, rd8_of high]
  omega

/-- The position in the four characters of a field. -/
theorem rd32_of {b : List Byte} {i : Nat} {p : Pos}
    (h : [b.getD i 0, b.getD (i + 1) 0, b.getD (i + 2) 0, b.getD (i + 3) 0] = posBytes p) : rd32 b i = p.toNat := by
  obtain ⟨h0, h1, h2, h3⟩ : b.getD i 0 = b8 p.toNat ∧ b.getD (i + 1) 0 = b8 (p.toNat / 256) ∧
      b.getD (i + 2) 0 = b8 (p.toNat / 65536) ∧ b.getD (i + 3) 0 = b8 (p.toNat / 16777216) := by
    simpa only [posBytes, le32, b8, List.cons.injEq, and_true] using h
  have bound : p.toNat < 4294967296 := p.isLt
  rw [rd32_eq, rd8_of h0, rd8_of h1, rd8_of h2, rd8_of h3]
  omega

/-! ### Flags, indices and sets in one character (R176) -/

theorem boolByte_toNat (b : Bool) : (boolByte b).toNat = b.toNat := by cases b <;> rfl

theorem rd8_bool {b : List Byte} {i : Nat} {x : Bool} (h : b.getD i 0 = boolByte x) : rd8 b i = x.toNat := by
  rw [rd8, h, boolByte_toNat]

/-- The bit of a flag, and 0 beyond the flags (log 33). -/
theorem flagByte_getLsbD (flags : List Bool) (short : flags.length ≤ 8) (n : Nat) :
    (flagByte flags).getLsbD n = flags.getD n false := by
  induction flags generalizing n with
  | nil => exact BitVec.getLsbD_zero
  | cons x l ih =>
    have tail := ih (Nat.le_of_succ_le short)
    have split_ : flagByte (x :: l) = (flagByte l <<< 1) ||| boolByte x := rfl
    rw [split_, BitVec.getLsbD_or, BitVec.getLsbD_shiftLeft]
    cases n with
    | zero => cases x <;> rfl
    | succ n =>
      have bit : (boolByte x).getLsbD (n + 1) = false := by
        cases x with
        | false => exact BitVec.getLsbD_zero
        | true => simp [boolByte]
      rw [bit, Nat.add_sub_cancel, tail, List.getD_cons_succ, Bool.or_false]
      by_cases hn : n + 1 < 8
      · simp [hn]
      · rw [List.getD_eq_default _ _ (by simp only [List.length_cons] at short; omega), Bool.and_false]

/-- An index from 1, and 0 if it is absent. -/
theorem ixByte_toNat {n : Nat} (small : n ≤ 255) (o : Option (Fin n)) : (ixByte o).toNat = o.elim 0 fun i => i.val + 1 := by
  cases o with
  | none => rfl
  | some i =>
    refine (b8_toNat _).trans (Nat.mod_eq_of_lt ?_)
    omega

theorem programByte_toNat (o : Option ProgramIx) : (programByte o).toNat = o.elim 255 fun ix => ix.val := by
  cases o with
  | none => rfl
  | some ix =>
    refine (b8_toNat _).trans (Nat.mod_eq_of_lt ?_)
    omega

theorem laneByte_toNat (l : LaneSet) : (laneByte l).toNat = l.toNat := by
  have bound := l.isLt
  rw [laneByte, BitVec.toNat_setWidth]
  exact Nat.mod_eq_of_lt (by omega)

/-! ### The reply bodies with their lengths (R176) -/

theorem programBytes_length (p : Program) : (programBytes p).length = 18 := by cases p <;> rfl

theorem flatMap_le16_length (l : List Nat) : (l.flatMap le16).length = 2 * l.length := by
  induction l with
  | nil => rfl
  | cons n l ih =>
    rw [List.flatMap_cons, List.length_append, ih, List.length_cons]
    exact (Nat.mul_succ 2 l.length).symm ▸ Nat.add_comm ..

theorem le16_length (n : Nat) : (le16 n).length = 2 := rfl

theorem le32_length (n : Nat) : (le32 n).length = 4 := rfl

theorem settingsBytes_length (c : LineSettings) : (settingsBytes c).length = 83 := by
  unfold settingsBytes
  simp only [List.length_append, List.length_cons, List.length_nil, le16_length, le32_length, flatMap_le16_length,
    Vector.length_toList]

theorem entryBytes_length (e : LogEntry) : (entryBytes e).length = 24 := by
  obtain ⟨n, body⟩ := e
  cases body <;> rfl

/-- An assignment, absent fields being 0 (R176). -/
theorem assignmentBytes_eq (flag : Byte) (o : Option Assignment) :
    assignmentBytes flag o = [flag, b8 (o.elim 0 fun a => a.program.val)] ++ le16 (o.elim 0 fun a => a.lotId) := by
  cases o with
  | none => rfl
  | some a => simp only [assignmentBytes, Option.elim_some]

/-! ### Fields that stand behind a part of variable make -/

theorem posBytes_length (p : Pos) : (posBytes p).length = 4 := rfl

/-- The states of the stations in a STATUS reply (R165, R176). -/
theorem statusBytes_split (s : State) :
    ∃ head, statusBytes s = head ++ s.stations.toList.map (fun st => stationCode st.state) ∧ head.length = 15 := by
  unfold statusBytes
  refine ⟨_, rfl, ?_⟩
  simp only [List.length_append, List.length_cons, List.length_nil, posBytes_length, signed16, le16_length]

theorem statusBytes_length (s : State) : (statusBytes s).length = 19 := by
  obtain ⟨head, bytes, length⟩ := statusBytes_split s
  rw [bytes, List.length_append, length, List.length_map, Vector.length_toList]

theorem statusBytes_station (s : State) (k : StationIx) :
    (statusBytes s)[15 + k.val]? = some (stationCode s.stations[k].state) := by
  obtain ⟨head, bytes, length⟩ := statusBytes_split s
  rw [bytes, List.getElem?_append_right (by omega), length, Nat.add_sub_cancel_left, List.getElem?_map]
  simp

/-- The actions of a record, padded with 0 to 5 characters (R72, R176). -/
theorem actionBytes_get (s : State) (r : Piece) {n : Nat} (hn : n < 5) :
    (actionBytes s r)[n]? =
      some (match r.actions[n]? with
        | some pl => ((s.sched.slots.find? fun y => y.place == pl).elim 0 fun y => actionCode y.action)
        | none => 0) := by
  have action (pl : Nat) : (match actionAt s pl with
      | some a => actionCode a
      | none => 0) = (s.sched.slots.find? fun y => y.place == pl).elim 0 fun y => actionCode y.action := by
    unfold actionAt State.slot?
    cases s.sched.slots.find? fun y => y.place == pl <;> rfl
  unfold actionBytes
  rw [List.getElem?_take_of_lt hn]
  cases h : r.actions[n]? with
  | none =>
    rw [List.getElem?_eq_none_iff] at h
    rw [List.getElem?_append_right (by simpa using h), List.length_map]
    exact List.getElem?_replicate_of_lt (by omega)
  | some pl =>
    rw [List.getElem?_append_left (by simpa using (List.getElem?_eq_some_iff.1 h).1), List.getElem?_map, h]
    exact congrArg some (action pl)

/-- The fields of a PIECE READ reply before its actions (R72, R176). -/
theorem pieceBytes_split (s : State) (r : Piece) :
    ∃ head, pieceBytes s r = head ++ actionBytes s r ∧ head.length = 54 := by
  unfold pieceBytes
  refine ⟨_, rfl, ?_⟩
  simp only [List.length_append, List.length_cons, List.length_nil, posBytes_length, le16_length]

theorem pieceBytes_length (s : State) (r : Piece) : (pieceBytes s r).length = 59 := by
  obtain ⟨head, bytes, length⟩ := pieceBytes_split s r
  rw [bytes, List.length_append, length, actionBytes, List.length_take, List.length_append, List.length_replicate]
  omega

theorem pieceBytes_action (s : State) (r : Piece) {n : Nat} (hn : n < 5) :
    (pieceBytes s r)[54 + n]? =
      some (match r.actions[n]? with
        | some pl => ((s.sched.slots.find? fun y => y.place == pl).elim 0 fun y => actionCode y.action)
        | none => 0) := by
  obtain ⟨head, bytes, length⟩ := pieceBytes_split s r
  rw [bytes, List.getElem?_append_right (by omega), length, Nat.add_sub_cancel_left, actionBytes_get s r hn]

theorem programReadBytes_parts (s : State) (ix : ProgramIx) :
    (programReadBytes s ix).take 18 = programBytes s.prog.programs[ix] ∧
      (programReadBytes s ix).drop 18 =
        b8 s.prog.inFlight[ix] :: boolByte s.prog.staged[ix].isSome :: programBytes (s.prog.staged[ix].getD none) := by
  unfold programReadBytes
  rw [List.append_assoc]
  exact ⟨List.take_left' (programBytes_length _), List.drop_left' (programBytes_length _)⟩

end Sys2Proof.Machine

namespace Sys2Proof.Machine

open Sys2Proof

/-! ### The layouts (R176) -/

theorem rd8_ix {b : List Byte} {i n : Nat} {o : Option (Fin n)} (h : b.getD i 0 = ixByte o) (small : n ≤ 255) :
    rd8 b i = o.elim 0 fun k => k.val + 1 := by
  rw [rd8, h, ixByte_toNat small]

theorem rd8_program {b : List Byte} {i : Nat} {o : Option ProgramIx} (h : b.getD i 0 = programByte o) :
    rd8 b i = o.elim 255 fun ix => ix.val := by
  rw [rd8, h, programByte_toNat]

theorem rd8_lanes {b : List Byte} {i : Nat} {l : LaneSet} (h : b.getD i 0 = laneByte l) : rd8 b i = l.toNat := by
  rw [rd8, h, laneByte_toNat]

/-- A number that fits one character. -/
theorem rd8_small {b : List Byte} {i n : Nat} (h : b.getD i 0 = b8 n) (small : n < 256) : rd8 b i = n := by
  rw [rd8_of h, Nat.mod_eq_of_lt small]

/-- The bits of the flags that stand in a character. -/
theorem flag_of {f : Byte} {flags : List Bool} (h : some (flagByte flags) = some f) (short : flags.length ≤ 8) (n : Nat) :
    f.getLsbD n = flags.getD n false := by
  cases h
  exact flagByte_getLsbD flags short n

/-- The bits beyond the flags (log 33). -/
theorem flag_beyond {f : Byte} {flags : List Bool} (h : some (flagByte flags) = some f) (short : flags.length ≤ 8) {n : Nat}
    (beyond : flags.length ≤ n) : f.getLsbD n = false :=
  (flag_of h short n).trans (List.getD_eq_default _ _ beyond)

theorem getD_of_drop {b rest : List Byte} {i : Nat} {x : Byte} (h : b.drop i = x :: rest) : b.getD i 0 = x := by
  have first := List.getElem?_drop (xs := b) (i := i) (j := 0)
  rw [h, Nat.add_zero] at first
  rw [List.getD_eq_getElem?_getD, ← first]
  rfl

theorem drop_next {b rest : List Byte} {i : Nat} {x : Byte} (h : b.drop i = x :: rest) : b.drop (i + 1) = rest := by
  rw [← List.drop_drop, h]
  rfl

theorem assignment_small (o : Option Assignment) : (o.elim 0 fun a => a.program.val) < 256 := by
  cases o with
  | none => exact Nat.zero_lt_succ _
  | some a => exact Nat.lt_trans a.program.isLt (by decide)

/-- Settles O19: the layouts written out character by character, and each field read from its place. -/
theorem replyBodiesHaveTheirLengths : Obligations.ReplyBodiesHaveTheirLengths := by
  refine ⟨⟨rfl, rfl, rfl, rfl, rfl, rfl, rfl, rfl, rfl, rfl, fun _ => rfl, rfl, rfl⟩,
    fun b i n => ⟨rfl, rfl, rd32_eq b i, rfl, rd16_of rfl⟩, fun _ _ => rfl, fun _ => rfl, fun s => ⟨?lengths, ?status,
      fun k => ?station, fun i => ?lot, fun r => ?piece, fun ix => ?program, fun n x => ?pieceEntry, fun n x => ?lotEntry,
      fun n code q => ?notice⟩⟩
  case lengths =>
    refine ⟨statusBytes_length s, fun k => ?_, fun i => rfl, pieceBytes_length s, fun ix => ?_,
      settingsBytes_length _, rfl, entryBytes_length⟩
    · simp only [stationBytes, assignmentBytes_eq]
      rfl
    · simp only [programReadBytes, List.length_append, programBytes_length]
      rfl
  case status =>
    have stations := statusBytes_station s
    simp only [statusBytes, posBytes, signed16, le32, le16, List.cons_append, List.nil_append] at stations ⊢
    refine ⟨rfl, rfl, rd32_of rfl, ?_, fun f hf => ?_, rd8_of rfl, rd8_of rfl, rd8_of rfl, rd8_of rfl, rfl, rfl, stations⟩
    · exact (rd16_of rfl).trans (Nat.mod_eq_of_lt (BitVec.isLt _))
    · have bit := flag_of hf (by simp)
      exact ⟨bit 0, bit 1, bit 2, bit 3, bit 4, bit 5, bit 6, bit 7⟩
  case station =>
    simp only [stationBytes, assignmentBytes_eq, le16, List.cons_append, List.nil_append, ← isStarving_eq]
    exact ⟨rfl, rd8_bool rfl, rd8_bool rfl, ⟨rd8_small rfl (assignment_small _), rd16_of rfl⟩, rfl,
      ⟨rd8_small rfl (assignment_small _), rd16_of rfl⟩, rd8_bool rfl, ⟨rd8_small rfl (assignment_small _), rd16_of rfl⟩,
      rd8_of rfl, rfl, rd8_bool rfl⟩
  case lot =>
    simp only [lotBytes, posBytes, le32, le16, List.cons_append, List.nil_append]
    exact ⟨rd8_small rfl (by omega), rfl, rd16_of rfl, rd8_of rfl, rd8_ix rfl (by decide), rd32_of rfl, rd16_of rfl, rd16_of rfl,
      rd16_of rfl, rd16_of rfl, rd16_of rfl, rd16_of rfl, rd16_of rfl, rd8_of rfl, rd8_bool rfl⟩
  case piece =>
    have actions (n : Nat) (hn : n < 5) := pieceBytes_action s r hn
    simp only [pieceBytes, posBytes, le32, le16, List.cons_append, List.nil_append] at actions ⊢
    refine ⟨rd16_of rfl, rd32_of rfl, rfl, fun f hf => ?_, fun f hf => ⟨?_, ?_, fun n hn => ?_⟩, rd8_ix rfl (by decide),
      rd8_program rfl, ?_, ?_, ?_, rd32_of rfl, rd32_of rfl, rd32_of rfl, rd16_of rfl, rd16_of rfl, rd32_of rfl, rd16_of rfl,
      rd32_of rfl, rd8_ix rfl (by decide), rfl, ?_, rfl, ?_, rd8_of rfl, actions⟩
    · have bit := flag_of hf (by simp)
      exact ⟨bit 0, bit 1, bit 2, bit 3, bit 4, bit 5, bit 6, bit 7⟩
    · exact flag_of hf (by simp) 0
    · exact flag_of hf (by simp) 1
    · exact flag_beyond hf (by simp) hn
    · refine (rd8_ix (o := r.lot.map (·.slot)) rfl (by decide)).trans ?_
      cases r.lot <;> rfl
    · refine (rd16_of (n := (r.lot.map (·.id)).getD 0) rfl).trans ?_
      cases r.lot <;> rfl
    · simp only [List.map_cons, List.map_nil, List.cons.injEq, and_true]
      exact ⟨rd8_lanes rfl, rd8_lanes rfl, rd8_lanes rfl, rd8_lanes rfl, rd8_lanes rfl⟩
    · cases r.completion <;> rfl
    · refine (rd32_of rfl).trans ?_
      cases r.completion <;> rfl
  case program =>
    obtain ⟨front, back⟩ := programReadBytes_parts s ix
    have staged := drop_next back
    refine ⟨front, rd8_of (getD_of_drop back), rd8_bool (getD_of_drop staged), (drop_next staged).trans ?_⟩
    cases s.prog.staged[ix] <;> rfl
  case pieceEntry =>
    simp only [entryBytes, posBytes, le32, le16, List.cons_append, List.nil_append]
    refine ⟨rfl, rd16_of rfl, rd16_of rfl, fun f hf => ?_, rd16_of rfl, rd8_program rfl, rd8_ix rfl (by decide), rfl, rfl, rfl,
      rd8_ix rfl (by decide), rd16_of rfl, rd16_of rfl, rd32_of rfl, rfl⟩
    have bit := flag_of hf (by simp)
    exact ⟨bit 0, bit 1, bit 2, bit 3, fun i hi => flag_beyond hf (by simp) hi⟩
  case lotEntry =>
    simp only [entryBytes, le16, List.cons_append, List.nil_append, List.map_cons, List.map_nil, List.cons.injEq, and_true]
    exact ⟨rfl, ⟨rd16_of rfl, rd16_of rfl, rd16_of rfl, rd16_of rfl, rd16_of rfl, rd16_of rfl, rd16_of rfl, rd16_of rfl,
      rd16_of rfl⟩, rfl⟩
  case notice =>
    simp only [entryBytes, posBytes, le32, le16, List.cons_append, List.nil_append]
    exact ⟨rfl, rd16_of rfl, rd8_of rfl, rd32_of rfl, rfl⟩

end Sys2Proof.Machine

namespace Sys2Proof.Machine

open Sys2Proof

/-! ### A zone put out of order by a record that stands in it only within a step (R66)

The keys are compared by the signed difference of R2, so a record far from P compares before a record behind it and after one
ahead of it. A record that one act of a step takes into FEED and a later act of the same step completes stands neither in the
state before the step nor in the one after it, so no premise about these two bounds its key. -/

/-- A SINGLE program without fold or gap. -/
def plainProgram : ProgramRec where
  width := .single
  nominal := 100
  minLength := 0
  maxLength := 1000
  gapMin := 0
  shrink := 1024
  folds := []
  fold := false
  cross := false
  stack := false
  refineWindow := 0

/-- The STRAY record, FOLDING, of the slot that fires. -/
def gateStray : Piece := exitStray 0 0#32 1 0#32

/-- A FED record, RELEASED on lane 4, with its predicted entry 40 counts ahead. -/
def releasedAhead : Piece :=
  { strayRecord 3 10 1#32 with kind := .fed, state := .released, ePred := some 40#32, reason := none }

/-- The REJECT slot that fires: it names the STRAY record, and the tag 2, which the next record taken into use is given. -/
def gateSlot : Slot where
  place := 0
  pos := 0#32
  action := .reject
  drive := .rj
  tags := [1, 2]
  passed := false

/-- A station LOADED with a piece of program 0 and lot 1. -/
def loadedStation : Station := { Station.initial with state := .loaded, snapshot := some { program := 0, lotId := 1 } }

/-- The feed in RUN at P = 0, stations 1 and 2 LOADED and both to be granted: station 1 lies 2^31 + 2 counts before its entry eye,
station 2 lies 20. -/
def beforeOvertaking : State :=
  { State.reset with
    due := [.fire 0]
    pending := [.rejectSlotFire]
    seq := { State.reset.seq with feed := .run }
    stations := #v[loadedStation, loadedStation, Station.initial, Station.initial]
    track :=
      { TrackStore.initial with
        pool := [gateStray, releasedAhead], tagCounter := 2, takeCounter := 2#32, foldZone := [1], feedZone := [10]
        entryLists := #v[[], [], [], [10]] }
    sched := { Scheduler.initial with slots := [gateSlot] }
    lot :=
      { lots := LotUnit.initial.lots.set 0 { Lot.free with state := .opened, id := 1, bin := some 0 }
        bins := LotUnit.initial.bins.set 0 (some 0) }
    prog :=
      { State.reset.prog with
        programs := State.reset.prog.programs.set 0 (some plainProgram)
        settings := { factoryDefaults with dStation := #v[2147483650, 20, 0, 0] } } }

/-- The state after the firing: the STRAY record completed, which grants both stations, and then the record of station 1
completed. -/
def afterOvertaking : State := fireReject gateSlot { beforeOvertaking with pending := [] }

theorem step_overtaking : step beforeOvertaking = .next afterOvertaking := by
  have next : nextFire { beforeOvertaking with pending := [] } = some gateSlot := by decide +kernel
  have fires : execRejectSlotFire { beforeOvertaking with pending := [] } =
      .next (if gateSlot.action = .reject then afterOvertaking else { beforeOvertaking with pending := [] }) := by
    unfold execRejectSlotFire
    rw [whenPowered_on rfl]
    simp only [next]
    rfl
  exact fires

/-- The record of station 2, whose predicted entry is 68 counts ahead. -/
def overtaker : Piece := fedRecord { afterOvertaking with stations := beforeOvertaking.stations } 1 ⟨0, 1⟩ plainProgram 0 3 3#32

theorem afterOvertaking_feed :
    afterOvertaking.track.feedZone = [3, 10] ∧ afterOvertaking.track.pool = [releasedAhead, overtaker] := by
  decide +kernel

theorem poolRight_beforeOvertaking : PoolRight beforeOvertaking.track := by
  constructor <;> decide +kernel

theorem zonesRight_beforeOvertaking : ZonesRight beforeOvertaking.track := by
  constructor
  · intro z tag
    cases z <;> simp [beforeOvertaking, TrackStore.initial, TrackStore.zone, zoneState, gateStray, releasedAhead, exitStray,
      strayRecord, eq_comm]
  · intro z
    cases z <;> decide +kernel
  · intro w tag
    have lists : ∀ w : Lane, beforeOvertaking.track.entryLists[w] = if w = 3 then [10] else [] := by decide +kernel
    have lane (w : Lane) : hasLane releasedAhead.footprint w = decide (w = 3) := hasLane_laneBit 3 w
    have released : releasedAhead.tag = 10 ∧ releasedAhead.state = .released ∧ gateStray.state ≠ .released := by decide
    rw [lists, show beforeOvertaking.track.pool = [gateStray, releasedAhead] from rfl]
    by_cases hw : w = 3
    · simpa [hw, lane, released] using eq_comm
    · simp [hw, lane, released]
  · intro w tag
    have lists : ∀ w : Lane, beforeOvertaking.track.exitLists[w] = [] := by decide +kernel
    have ironing : releasedAhead.state ≠ .ironing ∧ gateStray.state ≠ .ironing := by decide
    rw [lists, show beforeOvertaking.track.pool = [gateStray, releasedAhead] from rfl]
    simp [ironing]
  · decide +kernel
  · decide +kernel

theorem listInOrder_short (c : LineSettings) (z : Zone) (pool : List Piece) {l : List Nat} (h : l.length ≤ 1) :
    listInOrder c z pool l := by
  match l, h with
  | [], _ => exact List.Pairwise.nil
  | [_], _ => exact List.pairwise_singleton _ _

/-- Before the step no list holds two records. -/
theorem zonesOrdered_beforeOvertaking : ZonesOrdered beforeOvertaking where
  zones z := listInOrder_short _ z _ (by cases z <;> decide +kernel)
  entry w := listInOrder_short _ .feed _ (by revert w; decide +kernel)
  exit w := listInOrder_short _ .iron _ (by revert w; decide +kernel)

theorem keysNear_beforeOvertaking : KeysNear beforeOvertaking := by
  intro z
  cases z <;> decide +kernel

theorem keysNear_afterOvertaking : KeysNear afterOvertaking := by
  intro z
  cases z <;> decide +kernel

/-- After the step the record of station 2, 68 counts ahead, stands in FEED before the one that is 40 counts ahead. -/
theorem not_zonesOrdered_afterOvertaking : ¬ZonesOrdered afterOvertaking := by
  intro h
  obtain ⟨zone, pool⟩ := afterOvertaking_feed
  have ordered := h.zones .feed
  rw [show afterOvertaking.track.zone .feed = [3, 10] from zone] at ordered
  have first : overtaker ∈ afterOvertaking.track.pool := by simp [pool]
  have second : releasedAhead ∈ afterOvertaking.track.pool := by simp [pool]
  have wrong := List.rel_of_pairwise_cons ordered (List.mem_singleton.2 rfl) _ first _ second rfl rfl
  exact absurd wrong (by unfold inKeyOrder; decide +kernel)

/-- Refutes O58: the REJECT slot of a STRAY record also names the tag that the record granted at that completion is given. That
record comes and goes within the step; its key lies 2^31 counts from P, where the signed difference of R2 is no order, and the
record granted after it takes its place in FEED by it. -/
theorem not_stepKeepsTheZones : ¬ Obligations.StepKeepsTheZones := by
  intro h
  obtain ⟨-, zones⟩ := h beforeOvertaking afterOvertaking poolRight_beforeOvertaking step_overtaking
  obtain ⟨-, ordered⟩ := zones zonesRight_beforeOvertaking
  exact not_zonesOrdered_afterOvertaking
    (ordered zonesOrdered_beforeOvertaking keysNear_beforeOvertaking keysNear_afterOvertaking)

end Sys2Proof.Machine

namespace Sys2Proof.Machine

open Sys2Proof

/-! ### Leading edges at the entry (R79 to R82) -/

/-- Closing a lane that no record has open changes nothing (R79). -/
theorem closeEntryLane_id {w : Lane} {s : State}
    (h : ∀ r ∈ s.track.pool, r.completion = none → laneOpen r.entrySeen r.entryEnded w = false) : closeEntryLane w s = s := by
  unfold closeEntryLane
  rw [(List.map_congr_left fun r hr => if_neg ?_).trans (List.map_id' _)]
  cases hc : r.completion <;> simp [h r hr, hc]

theorem closeEntryLane_eq (w : Lane) (s : State) :
    closeEntryLane w s =
      { s with
        track :=
          { s.track with
            pool := s.track.pool.map fun r =>
              if r.completion = none ∧ laneOpen r.entrySeen r.entryEnded w = true then
                { r with entryEnded := r.entryEnded ||| laneBit w }
              else r } } := by
  simp only [closeEntryLane, Bool.and_eq_true, Option.isNone_iff_eq_none]

/-- Once closed, a lane is open on no record. -/
theorem closeEntryLane_closed (w : Lane) (s : State) :
    ∀ r ∈ (closeEntryLane w s).track.pool, r.completion = none → laneOpen r.entrySeen r.entryEnded w = false := by
  rw [closeEntryLane_eq]
  intro r hr hc
  obtain ⟨o, -, rfl⟩ := List.mem_map.1 hr
  by_cases ho : o.completion = none ∧ laneOpen o.entrySeen o.entryEnded w = true
  · rw [if_pos ho]
    exact laneOpen_ended _ _ w
  · rw [if_neg ho] at hc ⊢
    exact Bool.eq_false_iff.2 fun h => ho ⟨hc, h⟩

/-- An edge at the entry closes its lane first (R79). -/
theorem leadEntry_closes (w : Lane) (c : Pos) (s : State) : leadEntry w c s = leadEntry w c (closeEntryLane w s) := by
  have twice : closeEntryLane w (closeEntryLane w s) = closeEntryLane w s := closeEntryLane_id (closeEntryLane_closed w s)
  simp only [leadEntry, twice]

section
variable {w : Lane} {s : State} {c : Pos}
  (closed : ∀ r ∈ s.track.pool, r.completion = none → laneOpen r.entrySeen r.entryEnded w = false)
include closed

theorem leadEntry_absorbed {tag : Nat} {rest : List Nat}
    (h : s.select s.track.ironZone (absorbsEntry s.prog.settings w c) = tag :: rest) :
    leadEntry w c s = s.modPiece tag fun r => { r with entrySeen := r.entrySeen ||| laneBit w } := by
  simp only [leadEntry, closeEntryLane_id closed, h]

variable (absorbed : s.select s.track.ironZone (absorbsEntry s.prog.settings w c) = [])
include absorbed

theorem leadEntry_matched {tag : Nat} {rest : List Nat}
    (h : s.select s.track.entryLists[w] (inWindow s.prog.settings .feed · c) = tag :: rest) :
    leadEntry w c s =
      moveRecord tag .iron
        (fun r => { r with state := .ironing, entryLead := some c, entrySeen := r.entrySeen ||| laneBit w }) s := by
  simp only [leadEntry, closeEntryLane_id closed, absorbed, h]

variable (matched : s.select s.track.entryLists[w] (inWindow s.prog.settings .feed · c) = [])
include matched

theorem leadEntry_stray (h : s.track.pool.length < 64) :
    leadEntry w c s = (takeRecord .iron (entryStray w c) s).2 := by
  have free : 0 < s.freeRecords := Nat.sub_pos_of_lt h
  simp only [leadEntry, closeEntryLane_id closed, absorbed, matched, if_pos free]

theorem leadEntry_untracked (h : 64 ≤ s.track.pool.length) :
    leadEntry w c s = latchFault .strayUntracked (notice (32 + w.val) c s) := by
  have full : ¬0 < s.freeRecords := by
    simp only [State.freeRecords, Config.poolSize]
    omega
  simp only [leadEntry, closeEntryLane_id closed, absorbed, matched, if_neg full, untracked]

end

/-- Settles O42: an edge at the entry goes to the first record that takes it, in the order of R79, R80, R81, R82. -/
theorem entryLeadingEdgeAbsorbsMatchesOrMakesAStray : Obligations.EntryLeadingEdgeAbsorbsMatchesOrMakesAStray := by
  refine fun w c s pool => ⟨?_, fun closed => ⟨?_, fun habs => ⟨?_, fun hm => ⟨?_, ?_⟩⟩⟩⟩
  · rw [← closeEntryLane_eq]
    exact leadEntry_closes w c s
  · intro tag r before after hl hr hb ha
    obtain ⟨rest, h⟩ := select_first hl hr hb ha
    exact leadEntry_absorbed closed h
  · intro tag r before after hl hr hb hw
    obtain ⟨rest, h⟩ := select_first hl hr hb hw
    rw [leadEntry_matched closed (select_none habs) h]
    exact ⟨_, moveRecord_track _ _ _ _,
      moveRecord_spec hr .iron
        (fun o => { o with state := .ironing, entryLead := some c, entrySeen := o.entrySeen ||| laneBit w }) fun _ => rfl⟩
  · intro h
    obtain ⟨given, joined⟩ := takeRecord_joined .iron (entryStray w c) s (fun _ _ => rfl) pool.counter pool.size
    have range := freeTag_range s.track.pool 64 s.track.tagCounter pool.counter
    obtain ⟨tags, takes⟩ := takeRecord_counters .iron (entryStray w c) s
    rw [leadEntry_stray closed (select_none habs) (select_none hm) h]
    exact ⟨_, _, takeRecord_track _ _ _, given, takeRecord_pool _ _ _, joined, tags.trans (nextTag_eq _ range), takes⟩
  · exact leadEntry_untracked closed (select_none habs) (select_none hm)

end Sys2Proof.Machine

namespace Sys2Proof.Machine

open Sys2Proof

/-! ### The record of one tag changed -/

/-- In a pool of distinct tags a change of the record of a tag is told by what it does to that record. -/
theorem modPiece_congr {s : State} (pool : PoolRight s.track) {tag : Nat} {r : Piece} (hr : s.piece? tag = some r)
    {f g : Piece → Piece} (h : f r = g r) : s.modPiece tag f = s.modPiece tag g := by
  have same : ∀ o ∈ s.track.pool, (if o.tag == tag then f o else o) = if o.tag == tag then g o else o := by
    intro o ho
    split
    · next ht =>
      have found := piece?_of_mem pool ho
      rw [beq_iff_eq.1 ht, hr] at found
      cases found
      exact h
    · rfl
  simp only [State.modPiece, List.map_congr_left same]

theorem modPiece_spec {s : State} {tag : Nat} {r : Piece} (hr : s.piece? tag = some r) {f : Piece → Piece}
    (hf : ∀ o, (f o).tag = o.tag) :
    (s.modPiece tag f).piece? tag = some (f r) ∧ ∀ u, u ≠ tag → (s.modPiece tag f).piece? u = s.piece? u := by
  refine ⟨?_, fun u hu => ?_⟩
  · rw [piece?_modPiece _ _ _ _ hf, if_pos rfl, hr]
    rfl
  · rw [piece?_modPiece _ _ _ _ hf, if_neg hu]

/-! ### Slots cancelled for a tag (R118) -/

theorem withdraw_eq (tag : Nat) (y : Slot) : withdraw tag y = cancelledFor tag y := by
  simp only [withdraw, cancelledFor, List.contains_iff_mem, List.isEmpty_iff]

/-- A slot once it is cancelled for a tag, if its place is one of those cancelled (R118). -/
def cancelledIn (tag : Nat) (places : List Nat) (y : Slot) : Option Slot :=
  if y.place ∈ places then cancelledFor tag y else some y

theorem cancelledFor_some {tag : Nat} {y z : Slot} (h : cancelledFor tag y = some z) :
    z.place = y.place ∧ z.action = y.action ∧ tag ∉ z.tags := by
  unfold cancelledFor at h
  split at h
  · split at h
    · cases h
    · cases h
      exact ⟨rfl, rfl, fun hm => by simp at hm⟩
  · next hn =>
    cases h
    exact ⟨rfl, rfl, hn⟩

theorem cancelledFor_of_not_mem {tag : Nat} {y : Slot} (h : tag ∉ y.tags) : cancelledFor tag y = some y := if_neg h

theorem cancelledFor_alone {tag : Nat} {y : Slot} (h : y.tags = [tag]) : cancelledFor tag y = none := by
  simp [cancelledFor, h]

/-- A slot cancelled for a tag at some places and then at others. -/
theorem cancelledIn_bind (tag : Nat) (a b : List Nat) (y : Slot) :
    (cancelledIn tag a y).bind (cancelledIn tag b) = cancelledIn tag (a ++ b) y := by
  unfold cancelledIn
  by_cases ha : y.place ∈ a
  · rw [if_pos ha, if_pos (List.mem_append_left b ha)]
    cases hc : cancelledFor tag y with
    | none => rfl
    | some z =>
      obtain ⟨-, -, gone⟩ := cancelledFor_some hc
      rw [Option.bind_some, cancelledFor_of_not_mem gone, ite_self]
  · simp [ha]

theorem filterMap_cancelledIn_append (tag : Nat) (a b : List Nat) (l : List Slot) :
    (l.filterMap (cancelledIn tag a)).filterMap (cancelledIn tag b) = l.filterMap (cancelledIn tag (a ++ b)) := by
  rw [List.filterMap_filterMap]
  exact congrArg (l.filterMap ·) (funext (cancelledIn_bind tag a b))

theorem filterMap_cancelledIn_nil (tag : Nat) (l : List Slot) : l.filterMap (cancelledIn tag []) = l := by
  have : cancelledIn tag [] = some := funext fun y => if_neg List.not_mem_nil
  rw [this, List.filterMap_some]

/-- The places given up by a record: what is left of its pending actions. -/
def withoutPlaces (places : List Nat) (r : Piece) : Piece := { r with actions := r.actions.filter (· ∉ places) }

theorem modPiece_id {s : State} {tag : Nat} {f : Piece → Piece} (h : ∀ r, f r = r) : s.modPiece tag f = s := by
  simp [State.modPiece, h]

/-- The cancellation of slots for a tag, place by place, takes the tag from every slot in one of the places (R118). -/
theorem cancelSlots_eq (tag : Nat) (places : List Nat) (s : State) :
    cancelSlots tag places s =
      (s.setSlots (s.sched.slots.filterMap (cancelledIn tag places))).modPiece tag (withoutPlaces places) := by
  induction places generalizing s with
  | nil =>
    rw [filterMap_cancelledIn_nil, modPiece_id fun r => by simp [withoutPlaces]]
    rfl
  | cons pl places ih =>
    have first : cancelSlot tag pl s =
        (s.setSlots (s.sched.slots.filterMap (cancelledIn tag [pl]))).modPiece tag (withoutPlaces [pl]) := by
      have slot : cancelledIn tag [pl] = fun y => if y.place == pl then withdraw tag y else some y :=
        funext fun y => by simp [cancelledIn, withdraw_eq]
      have record : withoutPlaces [pl] = fun r => { r with actions := r.actions.filter (· ≠ pl) } :=
        funext fun r => by simp [withoutPlaces]
      rw [slot, record]
      rfl
    have both : (fun r => withoutPlaces places (withoutPlaces [pl] r)) = withoutPlaces (pl :: places) :=
      funext fun r => by simp [withoutPlaces, List.filter_filter, Bool.and_comm]
    calc cancelSlots tag (pl :: places) s
        = cancelSlots tag places (cancelSlot tag pl s) := rfl
      _ = ((s.setSlots ((s.sched.slots.filterMap (cancelledIn tag [pl])).filterMap (cancelledIn tag places))).modPiece tag
            (withoutPlaces [pl])).modPiece tag (withoutPlaces places) := by rw [ih, first]; rfl
      _ = _ := by
        rw [filterMap_cancelledIn_append, modPiece_modPiece _ _ (withoutPlaces [pl]) _ fun _ => rfl, both]
        rfl

end Sys2Proof.Machine

namespace Sys2Proof.Machine

open Sys2Proof

/-! ### Slots asked for one after another (R116, R117) -/

/-- A slot that the Fold Planner asks for: position, action and drive. -/
abbrev Asked := Pos × SlotAction × Drive

/-- The requests for slots, as the fold plan makes them. -/
def makes (l : List Asked) : List PlanRequest := l.map fun f => .make f.1 f.2.1 f.2.2

/-- The slots of a list have been made for a tag, from s to t: each in a place that no slot held, nothing due from it while it lies
ahead, and cancelling them gives back the table (R116 to R118, R120; log 12, 27). -/
structure SlotsMade (tag : Nat) (l : List Asked) (made : List Slot) (s t : State) : Prop where
  slots : t.sched.slots.Perm (s.sched.slots ++ made)
  asked : (made.map fun y => (y.pos, y.action, y.drive)) = l
  named : ∀ y ∈ made, y.tags = [tag] ∧ y.passed = false
  fresh : ∀ y ∈ made, ∀ z ∈ s.sched.slots, z.place ≠ y.place
  due : (∀ f ∈ l, 0 < posDiff f.1 s.line.p) → ∀ d, d ∈ t.due ↔ d ∈ s.due ∧ ∀ y ∈ made, d ≠ .fire y.place
  undone : t.sched.slots.filterMap (cancelledIn tag (made.map (·.place))) = s.sched.slots
  rest : t =
    { s.modPiece tag (fun r => { r with actions := r.actions ++ made.map (·.place) }) with
      sched := { s.sched with slots := t.sched.slots }, due := t.due }

theorem SlotsMade.nil (tag : Nat) (s : State) : SlotsMade tag [] [] s s where
  slots := by simp
  asked := rfl
  named _ h := nomatch h
  fresh _ h := nomatch h
  due _ d := by simp
  undone := filterMap_cancelledIn_nil tag _
  rest := by rw [modPiece_id fun r => by simp]

theorem SlotsMade.line {tag : Nat} {l : List Asked} {made : List Slot} {s t : State} (h : SlotsMade tag l made s t) :
    t.line = s.line := by rw [h.rest]; rfl

theorem SlotsMade.append {tag : Nat} {l m : List Asked} {a b : List Slot} {s t u : State} (h : SlotsMade tag l a s t)
    (k : SlotsMade tag m b t u) : SlotsMade tag (l ++ m) (a ++ b) s u where
  slots := k.slots.trans (by simpa using h.slots.append_right b)
  asked := by rw [List.map_append, h.asked, k.asked]
  named y hy := (List.mem_append.1 hy).elim (h.named y) (k.named y)
  fresh y hy z hz :=
    (List.mem_append.1 hy).elim (fun ha => h.fresh y ha z hz)
      fun hb => k.fresh y hb z (h.slots.mem_iff.2 (List.mem_append_left a hz))
  due ahead d := by
    rw [k.due (fun f hf => h.line ▸ ahead f (List.mem_append_right l hf)),
      h.due fun f hf => ahead f (List.mem_append_left m hf), and_assoc, List.forall_mem_append]
  undone := by
    have both (y : Slot) : cancelledIn tag ((a ++ b).map (·.place)) y =
        cancelledIn tag (b.map (·.place) ++ a.map (·.place)) y := by simp [cancelledIn, or_comm]
    rw [funext both, ← filterMap_cancelledIn_append, k.undone, h.undone]
  rest := by
    have records := modPiece_modPiece s tag (fun r => { r with actions := r.actions ++ a.map (·.place) })
      (fun r => { r with actions := r.actions ++ b.map (·.place) }) fun _ => rfl
    simp only [List.append_assoc, ← List.map_append] at records
    rw [← records, k.rest, h.rest]
    rfl

/-- A slot that cancelling takes out of the table: the table as before it was put in. -/
theorem filterMap_insertSlot {g : Slot → Option Slot} {x : Slot} (h : g x = none) (p : Pos) (l : List Slot) :
    (insertSlot p x l).filterMap g = l.filterMap g := by
  induction l with
  | nil => simp [insertSlot, h]
  | cons y l ih =>
    unfold insertSlot
    split
    · rw [List.filterMap_cons_none h]
    · simp only [List.filterMap_cons, ih]

theorem hasRoom_plain {a : SlotAction} (plain : a ≠ .reject) (slots : List Slot) :
    hasRoom slots a = true ↔ slots.length < 32 ∧ plainCount slots < 28 := by
  simp [hasRoom, plain]

theorem hasRoom_reject (slots : List Slot) : hasRoom slots .reject = true ↔ slots.length < 32 := by simp [hasRoom]

theorem length_lt_of_hasRoom {slots : List Slot} {a : SlotAction} (h : hasRoom slots a = true) : slots.length < 32 := by
  simp only [hasRoom, Bool.and_eq_true, decide_eq_true_eq] at h
  exact h.1

/-- A position ahead of another is not behind it as well (R2). -/
theorem not_behind_of_ahead {q p : Pos} (h : 0 < posDiff q p) : ¬0 ≤ posDiff p q := by
  have least : q - p ≠ BitVec.intMin 32 := fun e => absurd h (by rw [posDiff, e]; decide)
  have back : posDiff p q = -posDiff q p := by
    rw [posDiff, show p - q = -(q - p) by grind, BitVec.toInt_neg_of_ne_intMin least]
    rfl
  omega

/-- With room for its action a slot is made, in a place that no slot held (R117; log 12). -/
theorem makeSlot_made {f : Asked} {s : State} (room : hasRoom s.sched.slots f.2.1 = true) (tag : Nat) :
    ∃ x t, makeSlot f.1 f.2.1 f.2.2 tag s = some t ∧ SlotsMade tag [f] [x] s t := by
  have free := freePlace_free (length_lt_of_hasRoom room) 0
  let x : Slot :=
    { place := freePlace s.sched.slots 32 0, pos := f.1, action := f.2.1, drive := f.2.2, tags := [tag], passed := false }
  refine ⟨x, _, by unfold makeSlot; rw [if_pos room], ?_⟩
  constructor
  case slots => exact (insertSlot_perm _ _ _).trans (List.perm_append_singleton _ _).symm
  case asked => rfl
  case named => simp [x]
  case fresh => simpa [x] using free
  case due =>
    intro ahead d
    have late : ¬0 ≤ posDiff s.line.p f.1 := not_behind_of_ahead (ahead f (List.mem_singleton.2 rfl))
    refine (mem_dueAfterMaking _ _ s d).trans ?_
    simp [late, x, Config.slotPlaces]
  case undone =>
    have gone : cancelledIn tag [x.place] x = none := by
      rw [cancelledIn, if_pos (List.mem_singleton.2 rfl), cancelledFor_alone rfl]
    have stays : ∀ y ∈ s.sched.slots, cancelledIn tag [x.place] y = some y := fun y hy =>
      if_neg fun h => free y hy (List.mem_singleton.1 h)
    calc (insertSlot s.line.p x s.sched.slots).filterMap (cancelledIn tag [x.place])
        = s.sched.slots.filterMap (cancelledIn tag [x.place]) := filterMap_insertSlot gone _ _
      _ = s.sched.slots.filterMap some := List.filterMap_congr stays
      _ = s.sched.slots := List.filterMap_some
  case rest => rfl

/-- Room for n slots with an action other than REJECT (R116, R117). -/
def RoomFor (slots : List Slot) (n : Nat) : Prop := slots.length + n ≤ 32 ∧ plainCount slots + n ≤ 28

theorem SlotsMade.roomFor_one {tag : Nat} {f : Asked} {x : Slot} {s t : State} (h : SlotsMade tag [f] [x] s t)
    (plain : f.2.1 ≠ .reject) (n : Nat) : RoomFor t.sched.slots n ↔ RoomFor s.sched.slots (n + 1) := by
  have action : x.action ≠ .reject := by
    obtain rfl : (x.pos, x.action, x.drive) = f := List.singleton_inj.1 h.asked
    exact plain
  have length : t.sched.slots.length = s.sched.slots.length + 1 := by simpa using h.slots.length_eq
  have count : plainCount t.sched.slots = plainCount s.sched.slots + 1 := by
    have := (h.slots.filter fun y => decide (y.action ≠ .reject)).length_eq
    simpa [plainCount, action] using this
  rw [RoomFor, RoomFor, length, count]
  omega

/-- With room for all of them the slots asked for are made (R103). -/
theorem askAll_made (tag : Nat) (rest : List PlanRequest) {l : List Asked} {s : State} (room : RoomFor s.sched.slots l.length)
    (plain : ∀ f ∈ l, f.2.1 ≠ .reject) :
    ∃ made t, SlotsMade tag l made s t ∧ askAll tag (makes l ++ rest) s = askAll tag rest t := by
  induction l generalizing s with
  | nil => exact ⟨[], s, .nil tag s, rfl⟩
  | cons f l ih =>
    rw [List.forall_mem_cons] at plain
    obtain ⟨first, others⟩ := plain
    have some_room : s.sched.slots.length < 32 ∧ plainCount s.sched.slots < 28 := by
      simp only [RoomFor, List.length_cons] at room
      omega
    obtain ⟨x, u, hu, one⟩ := makeSlot_made ((hasRoom_plain first _).2 some_room) tag
    obtain ⟨made, t, all, ht⟩ := ih ((one.roomFor_one first l.length).2 room) others
    refine ⟨x :: made, t, one.append all, ?_⟩
    rw [← ht]
    simp only [makes, List.map_cons, List.cons_append, askAll, hu]

/-- Without room for all of them some are made, and the next is refused (R103, R107). -/
theorem askAll_refused (tag : Nat) (rest : List PlanRequest) {l : List Asked} {s : State}
    (room : ¬RoomFor s.sched.slots l.length) (some_asked : l ≠ []) (plain : ∀ f ∈ l, f.2.1 ≠ .reject) :
    ∃ l' made t, (∀ f ∈ l', f ∈ l) ∧ SlotsMade tag l' made s t ∧
      askAll tag (makes l ++ rest) s = planAway tag (takeReason tag .slotFull t) := by
  induction l generalizing s with
  | nil => exact absurd rfl some_asked
  | cons f l ih =>
    rw [List.forall_mem_cons] at plain
    obtain ⟨first, others⟩ := plain
    by_cases h : hasRoom s.sched.slots f.2.1 = true
    · obtain ⟨x, u, hu, one⟩ := makeSlot_made h tag
      have less : ¬RoomFor u.sched.slots l.length := fun g => room ((one.roomFor_one first l.length).1 g)
      have more : l ≠ [] := by
        rintro rfl
        have := (hasRoom_plain first _).1 h
        exact room ⟨this.1, this.2⟩
      obtain ⟨l', made, t, among, all, ht⟩ := ih less more others
      refine ⟨f :: l', x :: made, t, List.forall_mem_cons.2 ⟨List.mem_cons_self, fun g hg => List.mem_cons_of_mem f (among g hg)⟩,
        one.append all, ?_⟩
      rw [← ht]
      simp only [makes, List.map_cons, List.cons_append, askAll, hu]
    · refine ⟨[], [], s, fun g hg => absurd hg List.not_mem_nil, .nil tag s, ?_⟩
      have refused : makeSlot f.1 f.2.1 f.2.2 tag s = none := (makeSlot_none _ _ _ _ _).2 (Bool.eq_false_iff.2 h)
      simp only [makes, List.map_cons, List.cons_append, askAll, refused]

end Sys2Proof.Machine

namespace Sys2Proof.Machine

open Sys2Proof

/-! ### The reject plan (R104, R105) -/

theorem insideMargin_iff (s : State) (q : Pos) :
    insideMargin s q = true ↔ posDiff q s.line.p < (s.prog.settings.arming : Int) := decide_eq_true_iff

theorem rejectPlan_undiverted {tag : Nat} {r : Piece} {s : State} (hr : s.piece? tag = some r) (h : r.undiverted = true) :
    rejectPlan tag s = s := by
  simp only [rejectPlan, hr, h, Bool.true_or, if_true]

theorem rejectPlan_planned {tag pl : Nat} {r : Piece} {s : State} (hr : s.piece? tag = some r) (hpl : pl ∈ r.actions)
    (h : actionAt s pl = some .reject) : rejectPlan tag s = s := by
  have any : (r.actions.any fun pl => decide (actionAt s pl = some .reject)) = true :=
    List.any_eq_true.2 ⟨pl, hpl, decide_eq_true h⟩
  simp only [rejectPlan, hr, any, Bool.or_true, if_true]

/-- A record that is to be diverted: it has an exit lead, and neither is it undiverted nor has it a REJECT slot (R104). -/
structure ToDivert (tag : Nat) (r : Piece) (x : Pos) (s : State) : Prop where
  record : s.piece? tag = some r
  lead : r.exitLead = some x
  diverted : r.undiverted = false
  unplanned : ∀ pl ∈ r.actions, ∀ y ∈ s.sched.slots, y.place = pl → y.action ≠ .reject

section
variable {tag : Nat} {r : Piece} {x : Pos} {s : State} (h : ToDivert tag r x s)
include h

theorem ToDivert.rejectPlan_eq :
    rejectPlan tag s =
      if insideMargin s (rejectPos s x) then becomeUndiverted tag (latchFault .undiverted s)
      else (makeSlot (rejectPos s x) .reject .rj tag s).getD (lostForSlot tag s) := by
  have none_ : (r.actions.any fun pl => decide (actionAt s pl = some .reject)) = false := by
    rw [List.any_eq_false]
    intro pl hpl found
    obtain ⟨y, hy, action⟩ := Option.map_eq_some_iff.1 (of_decide_eq_true found)
    exact h.unplanned pl hpl y (List.mem_of_find?_eq_some hy) (by simpa using List.find?_some hy) action
  simp only [rejectPlan, h.record, h.diverted, none_, Bool.or_false, Bool.false_eq_true, if_false, h.lead, Option.getD_some]
  cases makeSlot (rejectPos s x) .reject .rj tag s <;> rfl

theorem ToDivert.late (late : posDiff (rejectPos s x) s.line.p < (s.prog.settings.arming : Int)) :
    rejectPlan tag s = becomeUndiverted tag (latchFault .undiverted s) := by
  rw [h.rejectPlan_eq, if_pos ((insideMargin_iff _ _).2 late)]

variable (ahead : (s.prog.settings.arming : Int) ≤ posDiff (rejectPos s x) s.line.p)
include ahead

theorem ToDivert.made (room : s.sched.slots.length < 32) :
    ∃ y, SlotsMade tag [(rejectPos s x, .reject, .rj)] [y] s (rejectPlan tag s) := by
  have outside : ¬insideMargin s (rejectPos s x) = true := fun g => absurd ((insideMargin_iff _ _).1 g) (by omega)
  obtain ⟨y, t, ht, made⟩ :=
    makeSlot_made (f := (rejectPos s x, .reject, .rj)) (s := s) ((hasRoom_reject _).2 room) tag
  rw [h.rejectPlan_eq, if_neg outside, ht]
  exact ⟨y, made⟩

theorem ToDivert.full (full : 32 ≤ s.sched.slots.length) :
    rejectPlan tag s =
      complete tag .lost (some .fold)
        (latchFault .noSlot (s.modPiece tag fun r => { r with reason := some (r.reason.getD .slotFull) })) := by
  have outside : ¬insideMargin s (rejectPos s x) = true := fun g => absurd ((insideMargin_iff _ _).1 g) (by omega)
  have refused : makeSlot (rejectPos s x) .reject .rj tag s = none :=
    (makeSlot_none _ _ _ _ _).2 (Bool.eq_false_iff.2 fun g => absurd ((hasRoom_reject _).1 g) (by omega))
  rw [h.rejectPlan_eq, if_neg outside, refused]
  exact congrArg (fun u => complete tag .lost (some .fold) (latchFault .noSlot u)) (takeReason_eq _ _ _)

end

/-! ### A record that becomes undiverted (R93, R94, R104) -/

section
variable {tag : Nat} {r : Piece} {s : State} (hr : s.piece? tag = some r)
include hr

theorem becomeUndiverted_passed (incomplete : r.completion = none) (folding : r.state = .folding)
    (passed : 0 ≤ posDiff s.line.p (expiryPoint s.prog.settings .fold r)) :
    let u := s.modPiece tag fun o => { o with undiverted := true }
    (HoldsBack s .fold r → becomeUndiverted tag s = { u with heldExpiry := s.heldExpiry ++ [tag] }) ∧
      (¬HoldsBack s .fold r → becomeUndiverted tag s = complete tag .lost (some .fold) (latchFault .lost u)) := by
  intro u
  have mine : u.piece? tag = some { r with undiverted := true } :=
    (modPiece_spec hr (f := fun o => { o with undiverted := true }) fun _ => rfl).1
  have waits : stillWaits .fold { r with undiverted := true } = true := by
    simp [stillWaits, expectsStacker, incomplete, folding]
  have held : heldBack u .fold { r with undiverted := true } = true ↔ HoldsBack s .fold r := heldBack_iff s .fold r
  have taken := becomeUndiverted_eq mine
  simp only [waits, show atOrPast s.line.p (expiryPoint s.prog.settings .fold { r with undiverted := true }) = true from
    decide_eq_true passed, and_self, if_true] at taken
  exact ⟨fun h => taken.trans (if_pos (held.2 h)), fun h => taken.trans (if_neg fun g => h (held.1 g))⟩

theorem becomeUndiverted_waits
    (h : ¬(r.state = .folding ∧ 0 ≤ posDiff s.line.p (expiryPoint s.prog.settings .fold r))) :
    becomeUndiverted tag s = s.modPiece tag fun o => { o with undiverted := true } := by
  rw [becomeUndiverted_eq (modPiece_spec hr (f := fun o => { o with undiverted := true }) fun _ => rfl).1]
  refine if_neg fun ⟨waits, passed⟩ => h ⟨?_, of_decide_eq_true passed⟩
  obtain ⟨-, expects⟩ := (stillWaits_iff _).2.2.1 waits
  exact ((expectsStacker_iff _).1 expects).1

end

/-! ### A plan taken back (R106) -/

/-- The places of a record's fold and cross slots. -/
def foldPlaces (s : State) (r : Piece) : List Nat := r.actions.filter fun pl => (actionAt s pl).any isFoldAction

theorem planAway_eq {tag : Nat} {r : Piece} {s : State} (hr : s.piece? tag = some r) :
    planAway tag s = rejectPlan tag (cancelSlots tag (foldPlaces s r) s) := by
  unfold planAway
  rw [hr]
  refine congrArg (fun l => rejectPlan tag (cancelSlots tag l s)) (congrArg (r.actions.filter ·) (funext fun pl => ?_))
  cases actionAt s pl with
  | none => rfl
  | some a => cases a <;> rfl

/-- A slot made is found in its place, with the action asked for. -/
theorem SlotsMade.actionAt_made {tag : Nat} {l : List Asked} {made : List Slot} {s t : State} (h : SlotsMade tag l made s t)
    {y : Slot} (hy : y ∈ made) : ∃ f ∈ l, actionAt t y.place = some f.2.1 := by
  have member : y ∈ t.sched.slots := h.slots.mem_iff.2 (List.mem_append_right _ hy)
  have found : (t.slot? y.place).isSome := List.find?_isSome.2 ⟨y, member, by simp⟩
  obtain ⟨z, hz⟩ := Option.isSome_iff_exists.1 found
  have place : z.place = y.place := by simpa using List.find?_some hz
  have new : z ∈ made := (List.mem_append.1 (h.slots.mem_iff.1 (List.mem_of_find?_eq_some hz))).resolve_left
    fun old => h.fresh y hy z old place
  refine ⟨(z.pos, z.action, z.drive), h.asked ▸ List.mem_map_of_mem (f := fun y => (y.pos, y.action, y.drive)) new, ?_⟩
  rw [actionAt, hz]
  rfl

theorem SlotsMade.piece {tag : Nat} {l : List Asked} {made : List Slot} {s t : State} (h : SlotsMade tag l made s t)
    {r : Piece} (hr : s.piece? tag = some r) :
    t.piece? tag = some { r with actions := r.actions ++ made.map (·.place) } ∧ ∀ u, u ≠ tag → t.piece? u = s.piece? u := by
  have spec := modPiece_spec hr (f := fun r => { r with actions := r.actions ++ made.map (·.place) }) fun _ => rfl
  rw [h.rest]
  exact spec

/-- A plan that is refused is taken back whole: its record keeps no slot, and takes SLOT_FULL and the reject plan (R107). -/
theorem SlotsMade.planAway_undoes {tag : Nat} {l : List Asked} {made : List Slot} {s t : State} (h : SlotsMade tag l made s t)
    (folds : ∀ f ∈ l, isFoldAction f.2.1 = true) {r : Piece} (hr : s.piece? tag = some r) (reason : r.reason = none)
    (actions : r.actions = []) :
    ∃ v : State, planAway tag (takeReason tag .slotFull t) = rejectPlan tag v ∧
      v.piece? tag = some { r with reason := some .slotFull } ∧ (∀ u, u ≠ tag → v.piece? u = s.piece? u) ∧
      v = { s with track := { s.track with pool := v.track.pool }, due := t.due } := by
  let places := made.map (·.place)
  let full : Piece → Piece := fun o => { o with reason := some (o.reason.getD .slotFull) }
  have taken : takeReason tag .slotFull t = t.modPiece tag full := takeReason_eq _ _ _
  obtain ⟨mine, others⟩ := h.piece hr
  obtain ⟨mine', others'⟩ := modPiece_spec mine (f := full) fun _ => rfl
  have all : foldPlaces (t.modPiece tag full) (full { r with actions := r.actions ++ places }) = places := by
    refine (List.filter_eq_self.2 fun pl hpl => ?_).trans (by rw [actions]; rfl)
    rw [actions] at hpl
    obtain ⟨y, hy, rfl⟩ := List.mem_map.1 (show pl ∈ places from hpl)
    obtain ⟨f, hf, action⟩ := h.actionAt_made hy
    have : actionAt (t.modPiece tag full) y.place = some f.2.1 := action
    rw [this]
    exact folds f hf
  obtain ⟨gone, still⟩ :=
    modPiece_spec (s := (t.modPiece tag full).setSlots s.sched.slots) mine' (f := withoutPlaces places) fun _ => rfl
  refine ⟨((t.modPiece tag full).setSlots s.sched.slots).modPiece tag (withoutPlaces places), ?_, ?_, ?_, ?_⟩
  · rw [taken, planAway_eq mine', all, cancelSlots_eq]
    exact congrArg (fun l => rejectPlan tag (((t.modPiece tag full).setSlots l).modPiece tag (withoutPlaces places))) h.undone
  · refine gone.trans (congrArg some ?_)
    simp [withoutPlaces, full, places, actions, reason]
  · exact fun u hu => (still u hu).trans ((others' u hu).trans (others u hu))
  · rw [h.rest]
    rfl

end Sys2Proof.Machine

namespace Sys2Proof.Machine

open Sys2Proof

/-! ### What the fold plan asks for (R101, R102) -/

/-- The FOLD slots that a record with its lead at x, estimate len and footprint foot asks for (R101). -/
def foldsAsked (s : State) (x : Pos) (len : Nat) (pr : ProgramRec) (foot : LaneSet) : List Asked :=
  if pr.fold then pr.folds.zipIdx.map fun f => (foldPos s x len f.1, if f.2 = 0 then .fold1 else .fold2, .pf foot) else []

/-- The CROSS slot that it asks for, if its program crosses (R102). -/
def crossAsked (s : State) (x : Pos) (len : Nat) (pr : ProgramRec) : List Asked :=
  if pr.fold && pr.cross then [(crossPos s x len pr.folds, .cross, .xf)] else []

theorem foldRequests_eq (d : Drive) (q : Nat → Pos) (l : List Nat) (i : Nat) :
    foldRequests d i (l.map q) = makes ((l.zipIdx i).map fun f => (q f.1, if f.2 = 0 then .fold1 else .fold2, d)) := by
  induction l generalizing i with
  | nil => rfl
  | cons f l ih =>
    simp only [List.map_cons, foldRequests, ih, List.zipIdx_cons, makes, foldAction]

theorem isFoldAction_asked {s : State} {x : Pos} {len : Nat} {pr : ProgramRec} {foot : LaneSet} {f : Asked}
    (h : f ∈ foldsAsked s x len pr foot ++ crossAsked s x len pr) : isFoldAction f.2.1 = true := by
  rcases List.mem_append.1 h with hf | hc
  · unfold foldsAsked at hf
    split at hf
    · obtain ⟨g, -, rfl⟩ := List.mem_map.1 hf
      dsimp only
      split <;> rfl
    · cases hf
  · unfold crossAsked at hc
    split at hc
    · obtain rfl := List.mem_singleton.1 hc
      rfl
    · cases hc

theorem ne_reject_of_isFoldAction {a : SlotAction} (h : isFoldAction a = true) : a ≠ .reject := by
  rintro rfl
  cases h

/-! ### What a cross position meets (R102) -/

/-- A CROSS slot within xf_cycle of a cross position (R102). -/
def Near (s : State) (q : Pos) (y : Slot) : Prop := y.action = .cross ∧ (posDiff y.pos q).natAbs < s.prog.settings.xfCycle

/-- A slot that names records of a record's program and lot alone (R102). -/
def Ours (s : State) (r : Piece) (y : Slot) : Prop :=
  ∀ g ∈ y.tags, ∃ o, s.piece? g = some o ∧ o.program = r.program ∧ o.lot.map (·.id) = r.lot.map (·.id)

/-- The test of the model for a near slot. -/
def isNear (s : State) (q : Pos) (y : Slot) : Bool :=
  decide (y.action = .cross) && decide (posDistance y.pos q < s.prog.settings.xfCycle)

theorem isNear_iff (s : State) (q : Pos) (y : Slot) : isNear s q y = true ↔ Near s q y := by
  rw [isNear, Bool.and_eq_true, decide_eq_true_iff, decide_eq_true_iff]
  rfl

theorem nearCross_eq (s : State) (q : Pos) : nearCross s q = s.sched.slots.filter (isNear s q) := rfl

theorem mem_nearCross (s : State) (q : Pos) (y : Slot) : y ∈ nearCross s q ↔ y ∈ s.sched.slots ∧ Near s q y := by
  rw [nearCross_eq, List.mem_filter, isNear_iff]

theorem sameWork_iff (s : State) (r : Piece) (y : Slot) : sameWork s r y = true ↔ Ours s r y := by
  unfold sameWork Ours
  rw [List.all_eq_true]
  refine forall₂_congr fun g _ => ?_
  cases s.piece? g <;> simp

theorem crossOutcome_fresh {s : State} {q : Pos} (h : ∀ y ∈ s.sched.slots, ¬Near s q y) (r : Piece) :
    crossOutcome s r q = .fresh := by
  have none_ : nearCross s q = [] :=
    List.eq_nil_iff_forall_not_mem.2 fun y hy => h y ((mem_nearCross s q y).1 hy).1 ((mem_nearCross s q y).1 hy).2
  simp [crossOutcome, none_]

theorem crossOutcome_conflict {s : State} {r : Piece} {q : Pos}
    (h : ∃ y ∈ s.sched.slots, Near s q y ∧ (¬Ours s r y ∨ ∀ z ∈ s.sched.slots, Near s q z → 4 ≤ z.tags.length)) :
    crossOutcome s r q = .conflict := by
  obtain ⟨y, hy, near, conflict⟩ := h
  have member : y ∈ nearCross s q := (mem_nearCross s q y).2 ⟨hy, near⟩
  have some_near : (nearCross s q).isEmpty = false := by
    rw [List.isEmpty_eq_false_iff]
    exact List.ne_nil_of_mem member
  by_cases same : (nearCross s q).all (sameWork s r) = true
  · have full := conflict.resolve_left fun other => other ((sameWork_iff s r y).1 (List.all_eq_true.1 same y member))
    have none_ : ((nearCross s q).find? fun y => decide (y.tags.length < Config.crossTags)) = none := by
      refine List.find?_eq_none.2 fun z hz => ?_
      obtain ⟨hz, near⟩ := (mem_nearCross s q z).1 hz
      have := full z hz near
      simpa [Config.crossTags] using this
    simp [crossOutcome, some_near, same, none_]
  · simp [crossOutcome, some_near, same]

theorem crossOutcome_join {s : State} {r : Piece} {q : Pos} {y : Slot} {before after : List Slot}
    (split : s.sched.slots = before ++ y :: after) (near : Near s q y) (few : y.tags.length < 4)
    (first : ∀ z ∈ before, Near s q z → 4 ≤ z.tags.length) (ours : ∀ z ∈ s.sched.slots, Near s q z → Ours s r z) :
    crossOutcome s r q = .join y.place := by
  have same : (nearCross s q).all (sameWork s r) = true :=
    List.all_eq_true.2 fun z hz => (sameWork_iff s r z).2
      (ours z ((mem_nearCross s q z).1 hz).1 ((mem_nearCross s q z).1 hz).2)
  have parts : nearCross s q = before.filter (isNear s q) ++ y :: after.filter (isNear s q) := by
    rw [nearCross_eq, split, List.filter_append, List.filter_cons_of_pos ((isNear_iff s q y).2 near)]
  have found : ((nearCross s q).find? fun y => decide (y.tags.length < Config.crossTags)) = some y := by
    refine find?_of_split parts (fun z hz => ?_) (decide_eq_true few)
    obtain ⟨hz, near⟩ := List.mem_filter.1 hz
    have := first z hz ((isNear_iff s q z).1 near)
    simpa [Config.crossTags] using this
  have some_near : (nearCross s q).isEmpty = false := by rw [parts]; simp
  simp [crossOutcome, some_near, same, found]

/-! ### The fold plan by what it meets (R101 to R103, R107) -/

section
variable {tag : Nat} {r : Piece} {pr : ProgramRec} {s : State} {x : Pos} {len : Nat} (lead : r.exitLead = some x)
  (estimate : r.lEst = some len)
include lead estimate

theorem foldPlan_eq :
    foldPlan tag r pr s =
      if (foldsAsked s x len pr r.footprint ++ crossAsked s x len pr).any (fun f => insideMargin s f.1) then
        rejectPlan tag (takeReason tag .lateFold s)
      else
        match crossAsked s x len pr with
        | [] => askAll tag (makes (foldsAsked s x len pr r.footprint)) s
        | f :: _ =>
          match crossOutcome s r f.1 with
          | .conflict => rejectPlan tag (takeReason tag .xfConflict s)
          | .fresh => askAll tag (makes (foldsAsked s x len pr r.footprint) ++ [.make f.1 .cross .xf]) s
          | .join place => askAll tag (makes (foldsAsked s x len pr r.footprint) ++ [.join place]) s := by
  have folds : foldRequests (.pf r.footprint) 0 (if pr.fold then pr.folds.map (foldPos s x len) else []) =
      makes (foldsAsked s x len pr r.footprint) := by
    unfold foldsAsked
    split
    · exact foldRequests_eq _ _ _ 0
    · rfl
  have positions : (if pr.fold then pr.folds.map (foldPos s x len) else []) =
      (foldsAsked s x len pr r.footprint).map (·.1) := by
    unfold foldsAsked
    split
    · rw [List.map_map]
      exact (congrArg (List.map (foldPos s x len)) (List.zipIdx_map_fst 0 pr.folds).symm).trans List.map_map
    · rfl
  have margin : ((if pr.fold then pr.folds.map (foldPos s x len) else []).any (insideMargin s)) =
      (foldsAsked s x len pr r.footprint).any fun f => insideMargin s f.1 := by
    rw [positions, List.any_map]
    rfl
  simp only [foldPlan, lead, estimate, Option.getD_some, folds, margin, List.any_append]
  unfold crossAsked
  cases pr.fold && pr.cross
  · rfl
  · simp only [if_true, List.any_cons, List.any_nil, Bool.or_false]
    rfl

theorem foldPlan_late
    (late : ¬∀ f ∈ foldsAsked s x len pr r.footprint ++ crossAsked s x len pr,
      (s.prog.settings.arming : Int) ≤ posDiff f.1 s.line.p) :
    foldPlan tag r pr s = rejectPlan tag (takeReason tag .lateFold s) := by
  push Not at late
  obtain ⟨f, hf, late⟩ := late
  rw [foldPlan_eq lead estimate, if_pos (List.any_eq_true.2 ⟨f, hf, (insideMargin_iff _ _).2 late⟩)]

variable (outside : ∀ f ∈ foldsAsked s x len pr r.footprint ++ crossAsked s x len pr,
  (s.prog.settings.arming : Int) ≤ posDiff f.1 s.line.p)
include outside

theorem foldPlan_outside :
    foldPlan tag r pr s =
      match crossAsked s x len pr with
      | [] => askAll tag (makes (foldsAsked s x len pr r.footprint)) s
      | f :: _ =>
        match crossOutcome s r f.1 with
        | .conflict => rejectPlan tag (takeReason tag .xfConflict s)
        | .fresh => askAll tag (makes (foldsAsked s x len pr r.footprint) ++ [.make f.1 .cross .xf]) s
        | .join place => askAll tag (makes (foldsAsked s x len pr r.footprint) ++ [.join place]) s := by
  rw [foldPlan_eq lead estimate, if_neg]
  intro any
  obtain ⟨f, hf, late⟩ := List.any_eq_true.1 any
  have ahead := outside f hf
  have behind := (insideMargin_iff _ _).1 late
  omega

/-- With no CROSS slot near, every slot of the plan is asked for (R101, R102). -/
theorem foldPlan_alone (fresh : ∀ f ∈ crossAsked s x len pr, ∀ y ∈ s.sched.slots, ¬Near s f.1 y) :
    foldPlan tag r pr s = askAll tag (makes (foldsAsked s x len pr r.footprint ++ crossAsked s x len pr)) s := by
  rw [foldPlan_outside lead estimate outside]
  cases hc : pr.fold && pr.cross
  · simp [crossAsked, hc]
  · have cross : crossAsked s x len pr = [(crossPos s x len pr.folds, .cross, .xf)] := by simp [crossAsked, hc]
    rw [cross] at fresh ⊢
    simp only [crossOutcome_fresh (fresh _ (List.mem_singleton.2 rfl))]
    simp [makes]

theorem foldPlan_conflict {f : Asked} (hf : f ∈ crossAsked s x len pr) (conflict : crossOutcome s r f.1 = .conflict) :
    foldPlan tag r pr s = rejectPlan tag (takeReason tag .xfConflict s) := by
  rw [foldPlan_outside lead estimate outside]
  unfold crossAsked at hf ⊢
  split at hf
  · obtain rfl := List.mem_singleton.1 hf
    simp_all
  · cases hf

theorem foldPlan_join {f : Asked} (hf : f ∈ crossAsked s x len pr) {place : Nat} (join : crossOutcome s r f.1 = .join place) :
    foldPlan tag r pr s = askAll tag (makes (foldsAsked s x len pr r.footprint) ++ [.join place]) s := by
  rw [foldPlan_outside lead estimate outside]
  unfold crossAsked at hf ⊢
  split at hf
  · obtain rfl := List.mem_singleton.1 hf
    simp_all
  · cases hf

end

/-! ### The plan at the exit lead (R98, R100) -/

/-- A FED record with its program at its exit lead: L_est, and then the fold plan or the reject plan. -/
theorem planExit_fed {tag : Nat} {r : Piece} {ix : ProgramIx} {pr : ProgramRec} {s : State} (pool : PoolRight s.track)
    (hr : s.piece? tag = some r) (program : r.program = some ix) (valid : s.prog.programs[ix] = some pr) {len : Nat}
    (hlen : lengthEstimate (r.entryLength.getD pr.nominal) pr.shrink = len) :
    planExit tag s =
      if r.route = .stack ∧ r.reason = none then
        foldPlan tag { r with lEst := some len } pr (s.modPiece tag fun o => { o with lEst := some len })
      else rejectPlan tag (s.modPiece tag fun o => { o with lEst := some len }) := by
  have mine : pieceProgram s r = some pr := by rw [pieceProgram, program]; exact valid
  have written : writeEstimate tag s = s.modPiece tag fun o => { o with lEst := some len } := by
    simp only [writeEstimate, hr, mine]
    exact modPiece_congr pool hr (by rw [hlen])
  have found : (s.modPiece tag fun o => { o with lEst := some len }).piece? tag = some { r with lEst := some len } :=
    (modPiece_spec hr (f := fun o => { o with lEst := some len }) fun _ => rfl).1
  have program' : pieceProgram (s.modPiece tag fun o => { o with lEst := some len }) { r with lEst := some len } = some pr :=
    mine
  simp only [planExit, written, found, program']

end Sys2Proof.Machine

namespace Sys2Proof.Machine

open Sys2Proof

/-! ### Joining a CROSS slot (R117) -/

theorem SlotsMade.joined {tag : Nat} {l : List Asked} {made : List Slot} {s t : State} (h : SlotsMade tag l made s t)
    {y : Slot} {before after : List Slot} (split : s.sched.slots = before ++ y :: after)
    (once : (s.sched.slots.map (·.place)).Nodup) :
    (joinSlot y.place tag t).sched.slots.Perm (before ++ { y with tags := y.tags ++ [tag] } :: after ++ made) := by
  let join : Slot → Slot := fun z => if z.place == y.place then { z with tags := z.tags ++ [tag] } else z
  have same {z : Slot} (hz : z.place ≠ y.place) : join z = z := if_neg (by simpa using hz)
  rw [split, List.map_append, List.map_cons] at once
  have outer {z : Slot} (hz : z ∈ before ∨ z ∈ after) : z.place ≠ y.place := by
    obtain ⟨-, tail, apart⟩ := List.nodup_append.1 once
    rcases hz with hz | hz
    · exact apart _ (List.mem_map_of_mem hz) _ List.mem_cons_self
    · exact fun e => (List.nodup_cons.1 tail).1 (e ▸ List.mem_map_of_mem (f := (·.place)) hz)
  have new {z : Slot} (hz : z ∈ made) : z.place ≠ y.place := fun e =>
    h.fresh z hz y (split ▸ List.mem_append_right before List.mem_cons_self) e.symm
  have mine : join y = { y with tags := y.tags ++ [tag] } := if_pos (beq_self_eq_true _)
  have parts : (s.sched.slots ++ made).map join = before ++ { y with tags := y.tags ++ [tag] } :: after ++ made := by
    rw [split, List.map_append, List.map_append, List.map_cons, mine,
      List.map_congr_left fun z hz => same (outer (.inl hz)), List.map_id',
      List.map_congr_left (l := after) fun z hz => same (outer (.inr hz)), List.map_id',
      List.map_congr_left (l := made) fun z hz => same (new hz), List.map_id']
  exact parts ▸ h.slots.map join

/-! ### A reason that arrives (R62, R106) -/

theorem reasonArrives_done {tag : Nat} {r : Piece} {s : State} (hr : s.piece? tag = some r)
    (h : r.reason ≠ none ∨ r.completion ≠ none) (why : RejectReason) : reasonArrives tag why s = s := by
  have kept : (r.reason.isSome || r.completion.isSome) = true := by
    simpa [Option.isSome_iff_ne_none] using h
  simp only [reasonArrives, hr, kept, if_true]

section
variable {tag : Nat} {r : Piece} {s : State} (pool : PoolRight s.track) (hr : s.piece? tag = some r)
  (reason : r.reason = none)
include pool hr reason

/-- The first reason of a record is written (R62). -/
theorem takeReason_first (why : RejectReason) :
    takeReason tag why s = s.modPiece tag fun o => { o with reason := some why } := by
  rw [takeReason_eq]
  exact modPiece_congr pool hr (by rw [reason]; rfl)

variable (incomplete : r.completion = none)
include incomplete

theorem reasonArrives_first (why : RejectReason) :
    reasonArrives tag why s =
      if r.state = .folding then planAway tag (s.modPiece tag fun o => { o with reason := some why })
      else s.modPiece tag fun o => { o with reason := some why } := by
  simp only [reasonArrives, hr, reason, incomplete, Option.isSome_none, Bool.or_false, Bool.false_eq_true, if_false,
    takeReason_first pool hr reason]

end

/-- A fold or cross slot of a record. -/
def FoldOf (r : Piece) (y : Slot) : Prop := y.place ∈ r.actions ∧ (y.action = .fold1 ∨ y.action = .fold2 ∨ y.action = .cross)

theorem isFoldAction_iff (a : SlotAction) : isFoldAction a = true ↔ a = .fold1 ∨ a = .fold2 ∨ a = .cross := by
  cases a <;> simp [isFoldAction]

theorem actionAt_split {s : State} {pl : Nat} {y : Slot} {before after : List Slot}
    (split : s.sched.slots = before ++ y :: after) (first : ∀ z ∈ before, z.place ≠ pl) (hy : y.place = pl) :
    actionAt s pl = some y.action := by
  have found : s.slot? pl = some y := find?_of_split split (fun z hz => by simpa using first z hz) (by simpa using hy)
  rw [actionAt, found]
  rfl

section
variable {s : State} (once : (s.sched.slots.map (·.place)).Nodup)
include once

theorem actionAt_of_mem {y : Slot} (hy : y ∈ s.sched.slots) : actionAt s y.place = some y.action := by
  obtain ⟨before, after, split⟩ := List.append_of_mem hy
  refine actionAt_split split (fun z hz => ?_) rfl
  rw [split, List.map_append, List.map_cons] at once
  exact (List.nodup_append.1 once).2.2 _ (List.mem_map_of_mem hz) _ List.mem_cons_self

theorem mem_foldPlaces (r : Piece) (pl : Nat) :
    pl ∈ foldPlaces s r ↔ ∃ y ∈ s.sched.slots, FoldOf r y ∧ y.place = pl := by
  rw [foldPlaces, List.mem_filter]
  constructor
  · rintro ⟨hpl, fold⟩
    obtain ⟨a, ha, fold⟩ := (Option.any_eq_true _ _).1 fold
    obtain ⟨y, hy, rfl⟩ := Option.map_eq_some_iff.1 ha
    have place : y.place = pl := by simpa using List.find?_some hy
    exact ⟨y, List.mem_of_find?_eq_some hy, ⟨place ▸ hpl, (isFoldAction_iff _).1 fold⟩, place⟩
  · rintro ⟨y, hy, ⟨hpl, fold⟩, rfl⟩
    refine ⟨hpl, ?_⟩
    rw [actionAt_of_mem once hy]
    exact (isFoldAction_iff _).2 fold

theorem foldOf_iff (r : Piece) {y : Slot} (hy : y ∈ s.sched.slots) : y.place ∈ foldPlaces s r ↔ FoldOf r y := by
  rw [mem_foldPlaces once]
  refine ⟨fun ⟨z, hz, fold, place⟩ => ?_, fun fold => ⟨y, hy, fold, rfl⟩⟩
  rwa [List.inj_on_of_nodup_map once hz hy place] at fold

/-- The plan taken back for a record: its fold and cross slots have been cancelled for it, and nothing else has changed (R106). -/
theorem cancelFolds_spec {tag : Nat} {r : Piece} (hr : s.piece? tag = some r) :
    let v := cancelSlots tag (foldPlaces s r) s
    (∃ actions, v.piece? tag = some { r with actions := actions } ∧
      ∀ pl, pl ∈ actions ↔ pl ∈ r.actions ∧ ∀ y ∈ s.sched.slots, FoldOf r y → y.place ≠ pl) ∧
    (∀ u, u ≠ tag → v.piece? u = s.piece? u) ∧
    (∀ z, z ∈ v.sched.slots ↔
      ∃ y ∈ s.sched.slots, (¬FoldOf r y ∧ z = y) ∨ (FoldOf r y ∧ cancelledFor tag y = some z)) ∧
    v = { s with track := { s.track with pool := v.track.pool }, sched := { s.sched with slots := v.sched.slots } } := by
  intro v
  have value : v = (s.setSlots (s.sched.slots.filterMap (cancelledIn tag (foldPlaces s r)))).modPiece tag
      (withoutPlaces (foldPlaces s r)) := cancelSlots_eq _ _ _
  obtain ⟨mine, others⟩ :=
    modPiece_spec (s := s.setSlots (s.sched.slots.filterMap (cancelledIn tag (foldPlaces s r)))) hr
      (f := withoutPlaces (foldPlaces s r)) fun _ => rfl
  rw [value]
  refine ⟨⟨_, mine, fun pl => ?_⟩, others, fun z => ?_, rfl⟩
  · rw [List.mem_filter, decide_eq_true_iff, mem_foldPlaces once]
    push Not
    rfl
  · refine List.mem_filterMap.trans (exists_congr fun y => and_congr_right fun hy => ?_)
    by_cases fold : FoldOf r y
    · rw [cancelledIn, if_pos ((foldOf_iff once r hy).2 fold)]
      simp [fold]
    · rw [cancelledIn, if_neg fun g => fold ((foldOf_iff once r hy).1 g)]
      simp [fold, eq_comm]

end

end Sys2Proof.Machine

namespace Sys2Proof.Machine

open Sys2Proof

/-! ### The plan at the exit lead by its outcome (R98 to R107) -/

/-- The record of a tag with its estimate written (R98). -/
def State.estimated (s : State) (tag len : Nat) : State := s.modPiece tag fun o => { o with lEst := some len }

/-- The places of new slots lie apart from those in the table, so that at a distance ahead nothing that was due from a standing slot
is lost and nothing becomes due. -/
theorem SlotsMade.dueKept {tag : Nat} {l : List Asked} {made : List Slot} {s t : State} (h : SlotsMade tag l made s t)
    (ahead : ∀ f ∈ l, 0 < posDiff f.1 s.line.p) :
    (∀ d, d ∈ t.due → d ∈ s.due) ∧
      ∀ d ∈ s.due, (∀ pl, d = Due.fire pl → ∃ y ∈ s.sched.slots, y.place = pl) → d ∈ t.due := by
  refine ⟨fun d hd => ((h.due ahead d).1 hd).1, fun d hd standing => (h.due ahead d).2 ⟨hd, fun y hy e => ?_⟩⟩
  obtain ⟨z, hz, place⟩ := standing _ e
  exact h.fresh y hy z hz place

section
variable {tag : Nat} {r : Piece} {ix : ProgramIx} {pr : ProgramRec} {x : Pos} {s : State} {len : Nat}
  (pool : PoolRight s.track) (hr : s.piece? tag = some r) (lead : r.exitLead = some x) (program : r.program = some ix)
  (valid : s.prog.programs[ix] = some pr) (hlen : lengthEstimate (r.entryLength.getD pr.nominal) pr.shrink = len)

include hr in
theorem estimated_piece :
    (s.estimated tag len).piece? tag = some { r with lEst := some len } ∧
      ∀ u, u ≠ tag → (s.estimated tag len).piece? u = s.piece? u :=
  modPiece_spec hr (f := fun o => { o with lEst := some len }) fun _ => rfl

include pool hr in
theorem takeReason_estimated (reason : r.reason = none) (why : RejectReason) :
    takeReason tag why (s.estimated tag len) = s.modPiece tag fun o => { o with lEst := some len, reason := some why } := by
  rw [takeReason_eq, State.estimated, modPiece_modPiece _ _ (fun o => { o with lEst := some len }) _ fun _ => rfl]
  exact modPiece_congr pool hr (by rw [reason]; rfl)

include hr in
theorem ours_estimated (y : Slot) : Ours (s.estimated tag len) { r with lEst := some len } y ↔ Ours s r y := by
  obtain ⟨mine, others⟩ := estimated_piece (len := len) hr
  refine forall₂_congr fun g _ => ?_
  by_cases hg : g = tag
  · subst hg
    simp [mine, hr]
  · rw [others g hg]

include pool hr program valid hlen in
theorem planExit_rejects (h : r.route = .back ∨ r.reason ≠ none) :
    planExit tag s = rejectPlan tag (s.modPiece tag fun o => { o with lEst := some len }) := by
  rw [planExit_fed pool hr program valid hlen, if_neg]
  rintro ⟨route, reason⟩
  rw [route] at h
  exact h.elim nofun fun g => g reason

variable (route : r.route = .stack) (reason : r.reason = none)

include pool hr program valid hlen route reason in
theorem planExit_folds :
    planExit tag s = foldPlan tag { r with lEst := some len } pr (s.estimated tag len) := by
  rw [planExit_fed pool hr program valid hlen, if_pos ⟨route, reason⟩]
  rfl

include pool hr lead program valid hlen route reason

theorem planExit_late
    (late : ¬∀ f ∈ foldsAsked s x len pr r.footprint ++ crossAsked s x len pr,
      (s.prog.settings.arming : Int) ≤ posDiff f.1 s.line.p) :
    planExit tag s = rejectPlan tag (s.modPiece tag fun o => { o with lEst := some len, reason := some .lateFold }) := by
  rw [planExit_folds pool hr program valid hlen route reason, ← takeReason_estimated pool hr reason]
  exact foldPlan_late (s := s.estimated tag len) (r := { r with lEst := some len }) lead rfl late

variable (outside : ∀ f ∈ foldsAsked s x len pr r.footprint ++ crossAsked s x len pr,
  (s.prog.settings.arming : Int) ≤ posDiff f.1 s.line.p)
include outside

theorem planExit_conflict {f : Asked} (hf : f ∈ crossAsked s x len pr)
    (conflict : ∃ y ∈ s.sched.slots, Near s f.1 y ∧
      (¬Ours s r y ∨ ∀ z ∈ s.sched.slots, Near s f.1 z → 4 ≤ z.tags.length)) :
    planExit tag s = rejectPlan tag (s.modPiece tag fun o => { o with lEst := some len, reason := some .xfConflict }) := by
  rw [planExit_folds pool hr program valid hlen route reason, ← takeReason_estimated pool hr reason]
  refine foldPlan_conflict (s := s.estimated tag len) (r := { r with lEst := some len }) lead rfl outside hf
    (crossOutcome_conflict ?_)
  obtain ⟨y, hy, near, other⟩ := conflict
  exact ⟨y, hy, near, other.imp_left fun h g => h ((ours_estimated hr y).1 g)⟩

theorem planExit_asks (fresh : ∀ f ∈ crossAsked s x len pr, ∀ y ∈ s.sched.slots, ¬Near s f.1 y) :
    planExit tag s =
      askAll tag (makes (foldsAsked s x len pr r.footprint ++ crossAsked s x len pr) ++ []) (s.estimated tag len) := by
  rw [planExit_folds pool hr program valid hlen route reason, List.append_nil]
  exact foldPlan_alone (s := s.estimated tag len) (r := { r with lEst := some len }) lead rfl outside fresh

theorem planExit_asks_to_join {f : Asked} (hf : f ∈ crossAsked s x len pr) {y : Slot} {before after : List Slot}
    (split : s.sched.slots = before ++ y :: after) (near : Near s f.1 y) (few : y.tags.length < 4)
    (first : ∀ z ∈ before, Near s f.1 z → 4 ≤ z.tags.length)
    (ours : ∀ z ∈ s.sched.slots, Near s f.1 z → Ours s r z) :
    planExit tag s =
      askAll tag (makes (foldsAsked s x len pr r.footprint) ++ [.join y.place]) (s.estimated tag len) := by
  rw [planExit_folds pool hr program valid hlen route reason]
  exact foldPlan_join (s := s.estimated tag len) (r := { r with lEst := some len }) lead rfl outside hf
    (crossOutcome_join split near few first fun z hz hn => (ours_estimated hr z).2 (ours z hz hn))

end

/-- What is left of a plan that is refused: the record with its reason, and the table as it was (R107). -/
theorem askAll_refused_undone {tag len : Nat} {r : Piece} {s : State} {l : List Asked} {rest : List PlanRequest}
    (hr : s.piece? tag = some r) (reason : r.reason = none) (actions : r.actions = [])
    (room : ¬RoomFor s.sched.slots l.length) (asked : l ≠ []) (folds : ∀ f ∈ l, isFoldAction f.2.1 = true)
    (outside : ∀ f ∈ l, (s.prog.settings.arming : Int) ≤ posDiff f.1 s.line.p) :
    ∃ v : State, askAll tag (makes l ++ rest) (s.estimated tag len) = rejectPlan tag v ∧
      v.piece? tag = some { r with lEst := some len, reason := some .slotFull } ∧
      (∀ u, u ≠ tag → v.piece? u = s.piece? u) ∧
      (0 < s.prog.settings.arming →
        (∀ d, d ∈ v.due → d ∈ s.due) ∧
          ∀ d ∈ s.due, (∀ pl, d = Due.fire pl → ∃ y ∈ s.sched.slots, y.place = pl) → d ∈ v.due) ∧
      v = { s with track := { s.track with pool := v.track.pool }, due := v.due } := by
  obtain ⟨mine, others⟩ := estimated_piece (len := len) hr
  obtain ⟨l', made, t, among, all, ht⟩ :=
    askAll_refused tag rest (s := s.estimated tag len) room asked fun f hf => ne_reject_of_isFoldAction (folds f hf)
  obtain ⟨v, away, record, rest_, value⟩ := all.planAway_undoes (fun f hf => folds f (among f hf)) mine reason actions
  have due : v.due = t.due := by rw [value]
  refine ⟨v, ht.trans away, record, fun u hu => (rest_ u hu).trans (others u hu), fun arming => ?_, ?_⟩
  · rw [due]
    exact all.dueKept fun f hf => lt_of_lt_of_le (Int.natCast_pos.2 arming) (outside f (among f hf))
  · rw [due]
    exact value

/-- The records and the rest after the slots of a plan have been made (R103). -/
theorem SlotsMade.planned {tag len : Nat} {l : List Asked} {made : List Slot} {s t : State}
    (h : SlotsMade tag l made (s.estimated tag len) t) {r : Piece} (hr : s.piece? tag = some r) :
    t.piece? tag = some { r with lEst := some len, actions := r.actions ++ made.map (·.place) } ∧
      (∀ u, u ≠ tag → t.piece? u = s.piece? u) ∧
      t =
        { s with
          track := { s.track with pool := t.track.pool }, sched := { s.sched with slots := t.sched.slots }
          due := t.due } := by
  obtain ⟨mine, others⟩ := estimated_piece (len := len) hr
  obtain ⟨mine', others'⟩ := h.piece mine
  refine ⟨mine', fun u hu => (others' u hu).trans (others u hu), ?_⟩
  rw [h.rest]
  rfl

/-- Settles O43: the plan asks for its slots one after another, so it makes them all, or the first refusal takes back those made. -/
theorem plansAtTheExitLead : Obligations.PlansAtTheExitLead := by
  refine ⟨fun tag r ix pr x s pool hr lead program valid => ?_, fun tag r s pool hr => ?_,
    fun tag r x s pool hr lead diverted unplanned => ?_⟩
  · intro len at_ c folds cross near ours outside room t dueOf dueKept
    have isFold : ∀ f ∈ folds ++ cross, isFoldAction f.2.1 = true := fun f hf => isFoldAction_asked hf
    have plain : ∀ f ∈ folds ++ cross, f.2.1 ≠ .reject := fun f hf => ne_reject_of_isFoldAction (isFold f hf)
    refine ⟨planExit_rejects pool hr program valid rfl, fun route reason => ⟨?_, ?_, ?_, ?_⟩⟩
    · exact planExit_late pool hr lead program valid rfl route reason
    · intro out fresh enough
      have asks := planExit_asks pool hr lead program valid rfl route reason out fresh
      obtain ⟨made, u, all, hu⟩ := askAll_made tag [] (s := s.estimated tag len) enough plain
      obtain rfl : t = u := asks.trans hu
      obtain ⟨mine, others, rest⟩ := all.planned hr
      have due : dueOf made := fun arming => all.due fun f hf => lt_of_lt_of_le (Int.natCast_pos.2 arming) (out f hf)
      exact ⟨⟨made, all.slots, all.asked, all.named, due, mine⟩, others, rest⟩
    · intro out fresh full asked actions
      have asks := planExit_asks pool hr lead program valid rfl route reason out fresh
      obtain ⟨v, away, undone⟩ := askAll_refused_undone (len := len) (rest := []) hr reason actions full asked isFold out
      exact ⟨v, asks.trans away, undone⟩
    · intro f hf out
      refine ⟨planExit_conflict pool hr lead program valid rfl route reason out hf, ?_⟩
      intro y before after split once isNear few first allOurs
      have asks := planExit_asks_to_join pool hr lead program valid rfl route reason out hf split isNear few first allOurs
      refine ⟨fun full asked actions => ?_, fun enough => ?_⟩
      · obtain ⟨v, away, undone⟩ := askAll_refused_undone (len := len) (rest := [.join y.place]) hr reason actions full asked
          (fun g hg => isFold g (List.mem_append_left _ hg)) fun g hg => out g (List.mem_append_left _ hg)
        exact ⟨v, asks.trans away, undone⟩
      · obtain ⟨made, u, all, hu⟩ := askAll_made tag [.join y.place] (s := s.estimated tag len) enough
          fun g hg => plain g (List.mem_append_left _ hg)
        obtain ht : t = joinSlot y.place tag u := asks.trans hu
        obtain ⟨mine, others, rest⟩ := all.planned hr
        obtain ⟨joined, still⟩ :=
          modPiece_spec mine (f := fun o => { o with actions := o.actions ++ [y.place] }) fun _ => rfl
        have due : dueOf made := fun arming => ht ▸ all.due fun g hg =>
          lt_of_lt_of_le (Int.natCast_pos.2 arming) (out g (List.mem_append_left _ hg))
        rw [ht]
        refine ⟨⟨made, all.joined split once, all.asked, all.named, due, joined⟩,
          fun g hg => (still g hg).trans (others g hg), ?_⟩
        rw [rest]
        rfl
  · refine ⟨planExit_stray hr, rejectPlan_undiverted hr, fun pl hpl y before after split first place action =>
      rejectPlan_planned hr hpl (action ▸ actionAt_split split first place), fun incomplete => ⟨?_, ?_, ?_⟩,
      fun why => ⟨?_, ?_, ?_⟩⟩
    · exact fun ⟨folding, passed⟩ held => (becomeUndiverted_passed hr incomplete folding passed).1 held
    · exact fun ⟨folding, passed⟩ free => (becomeUndiverted_passed hr incomplete folding passed).2 free
    · exact becomeUndiverted_waits hr
    · exact fun h => reasonArrives_done hr h why
    · intro reason incomplete state
      rw [reasonArrives_first pool hr reason incomplete, if_neg state]
    · intro reason incomplete folding once taken
      obtain ⟨mine, others⟩ := modPiece_spec hr (f := fun o => { o with reason := some why }) fun _ => rfl
      obtain ⟨record, still, slots, value⟩ :=
        cancelFolds_spec (s := s.modPiece tag fun o => { o with reason := some why }) once mine
      refine ⟨_, ?_, record, fun u hu => (still u hu).trans (others u hu), slots, value⟩
      rw [reasonArrives_first pool hr reason incomplete, if_pos folding, planAway_eq mine]
  · intro q
    have plan : ToDivert tag r x s := ⟨hr, lead, diverted, unplanned⟩
    refine ⟨plan.late, fun ahead room => ?_, plan.full⟩
    obtain ⟨y, made⟩ := plan.made ahead room
    obtain ⟨mine, -⟩ := made.piece hr
    have asked : (y.pos, y.action, y.drive) = (q, .reject, .rj) := List.singleton_inj.1 made.asked
    have value : y = { place := y.place, pos := q, action := .reject, drive := .rj, tags := [tag], passed := false } := by
      obtain ⟨named, unpassed⟩ := made.named y (List.mem_singleton.2 rfl)
      simp only [Prod.mk.injEq] at asked
      cases y
      simp_all
    refine ⟨y.place, ?_, mine, fun arming d => ?_, made.rest⟩
    · rw [← value]
      exact made.slots.trans (List.perm_append_singleton _ _)
    · have far : ∀ f ∈ [((q, .reject, .rj) : Asked)], 0 < posDiff f.1 s.line.p := fun f hf => by
        obtain rfl := List.mem_singleton.1 hf
        exact lt_of_lt_of_le (Int.natCast_pos.2 arming) ahead
      simpa using made.due far d

end Sys2Proof.Machine

namespace Sys2Proof.Machine

open Sys2Proof

/-! ### The log through an examination (R46) -/

theorem foldl_log {α : Type} {f : State → α → State} (hf : ∀ s a, (f s a).log = s.log) (l : List α) (s : State) :
    (l.foldl f s).log = s.log := by
  induction l generalizing s with
  | nil => rfl
  | cons a l ih => exact (ih (f s a)).trans (hf s a)

theorem unbindLot_log (i : LotSlot) (s : State) : (unbindLot i s).log = s.log := by
  cases h : s.lot.lots[i].bin with
  | none => simp only [unbindLot, h]
  | some b => rw [unbindLot_eq i b s h, unbound_frame]

theorem bindLot_log (i : LotSlot) (s : State) : (bindLot i s).log = s.log := by
  unfold bindLot
  split
  · rfl
  · split
    · exact unbindLot_log _ s
    · rfl

theorem grant_log (k : StationIx) (a : Assignment) (pr : ProgramRec) (i : LotSlot) (s : State) :
    (grant k a pr i s).log = s.log := by
  have bound : (if s.lot.lots[i].bin.isNone then bindLot i s else s).log = s.log := by
    split
    · exact bindLot_log i s
    · rfl
  unfold grant
  refine (foldl_log (fun t j => ?_) _ _).trans bound
  split <;> rfl

theorem checkStation_log (starving : Bool) (x : Exam) (k : StationIx) :
    (checkStation starving x k).state.log = x.state.log := by
  by_cases loaded : x.state.stations[k].state = .loaded
  · cases snapshot : x.state.stations[k].snapshot with
    | none => rw [checkStation_noSnapshot snapshot]
    | some a =>
      cases passes : failing x.state k a with
      | some why => rw [checkStation_fails loaded snapshot passes]; rfl
      | none =>
        obtain ⟨pr, i, program, lot⟩ := program_and_lot_of_failing_none passes
        by_cases shares : sharesLane (footprintOf pr.width k) x.blocked = true
        · rw [checkStation_starves loaded snapshot passes program _ shares]
          rfl
        · rw [checkStation_grants_lot loaded snapshot passes program lot _ shares]
          exact grant_log _ _ _ _ _
  · rw [checkStation_pass loaded]

theorem checkAll_log (starving : Bool) (l : List StationIx) (x : Exam) :
    (l.foldl (checkStation starving) x).state.log = x.state.log := by
  induction l generalizing x with
  | nil => rfl
  | cons k l ih => exact (ih _).trans (checkStation_log starving x k)

theorem examine_log (s : State) : (examine s).log = s.log := by
  by_cases h : s.seq.feed = .run
  · rw [examine_in_run h]
    unfold examined
    exact (checkAll_log false _ _).trans (checkAll_log true _ _)
  · rw [examine_outside_run h]

/-! ### The writer's work leaves the latch, the feed state and the entries written (R70, R140, R148) -/

/-- What a writer's work keeps: the latch, the feed state, the notice-dropped flag, the entries of the log as its first ones, and,
as long as nothing can be granted, the Track Store. -/
structure WorkKept (s t : State) : Prop where
  latch : t.latch = s.latch
  feed : t.seq.feed = s.seq.feed
  dropped : t.log.dropped = s.log.dropped
  entries : s.log.entries <+: t.log.entries
  track : s.seq.feed ≠ .run → t.track = s.track

theorem WorkKept.refl (s : State) : WorkKept s s := ⟨rfl, rfl, rfl, List.prefix_rfl, fun _ => rfl⟩

theorem WorkKept.trans {s t u : State} (h : WorkKept s t) (k : WorkKept t u) : WorkKept s u where
  latch := k.latch.trans h.latch
  feed := k.feed.trans h.feed
  dropped := k.dropped.trans h.dropped
  entries := h.entries.trans k.entries
  track outside := (k.track fun run => outside (h.feed.symm.trans run)).trans (h.track outside)

theorem examine_workKept (s : State) : WorkKept s (examine s) where
  latch := (examine_still s).2.2.1
  feed := examine_feed s
  dropped := by rw [examine_log]
  entries := by rw [examine_log]
  track outside := by rw [examine_outside_run outside]

theorem unbound_workKept (i : LotSlot) (b : Bin) (s : State) : WorkKept s (s.unbound i b) := by
  rw [unbound_frame]
  exact ⟨rfl, rfl, rfl, List.prefix_rfl, fun _ => rfl⟩

/-- A change of the stored programs alone, followed by an examination. -/
theorem examine_prog_workKept (p : ProgramStore) (s : State) : WorkKept s (examine { s with prog := p }) :=
  have stored : WorkKept s { s with prog := p } := ⟨rfl, rfl, rfl, List.prefix_rfl, fun _ => rfl⟩
  stored.trans (examine_workKept _)

theorem stagedApplied_workKept (r : Piece) (s : State) : WorkKept s (s.stagedApplied r) := by
  unfold State.stagedApplied
  split
  · exact .refl s
  · split
    · exact .refl s
    · split
      · exact examine_prog_workKept _ s
      · exact .refl s

theorem summaryAsked_workKept (i : LotSlot) (s : State) : WorkKept s (s.summaryAsked i) := by
  unfold State.summaryAsked
  split
  · exact ⟨rfl, rfl, rfl, List.prefix_append _ _, fun _ => rfl⟩
  · exact ⟨rfl, rfl, rfl, List.prefix_rfl, fun _ => rfl⟩

theorem closedAndApplied_workKept (r : Piece) (s : State) : WorkKept s (s.closedAndApplied r) := by
  unfold State.closedAndApplied
  split
  · exact stagedApplied_workKept r s
  · split
    · refine .trans ?_ (summaryAsked_workKept _ _)
      split
      · exact ((unbound_workKept _ _ s).trans (stagedApplied_workKept r _)).trans (examine_workKept _)
      · exact stagedApplied_workKept r s
    · exact stagedApplied_workKept r s

/-! ### The writer's work as the statements say it (R70, R140, R148; log 5) -/

theorem appendEntry_eq (b : EntryBody) (s : State) : appendEntry b s = s.withEntry b := rfl

theorem logReady_iff (s : State) :
    (logHasRoom s && s.log.order.isEmpty) = true ↔ s.log.entries.length < 32 ∧ s.log.order = [] := by
  simp [logHasRoom, Config.logSize]

theorem requestSummary_eq (i : LotSlot) (s : State) : requestSummary i s = s.summaryAsked i := by
  unfold requestSummary State.summaryAsked
  rw [if_congr (logReady_iff s) rfl rfl]
  rfl

theorem stagedIfDone_eq (r : Piece) (s : State) : stagedIfDone r s = s.stagedApplied r := by
  unfold stagedIfDone State.stagedApplied
  cases r.program with
  | none => rfl
  | some ix =>
    simp only [applyStaged]
    cases s.prog.staged[ix] with
    | none => rfl
    | some pr => rfl

theorem closeAndApply_eq (r : Piece) (s : State) : closeAndApply r s = s.closedAndApplied r := by
  have work : stagedIfDone r = fun s => s.stagedApplied r := funext (stagedIfDone_eq r)
  unfold closeAndApply State.closedAndApplied
  rw [work]
  cases r.lot with
  | none => rfl
  | some l =>
    dsimp only
    refine ite_congr rfl (fun _ => ?_) fun _ => rfl
    rw [endClose, requestSummary_eq]
    cases hb : s.lot.lots[l.slot].bin with
    | none => rfl
    | some b => rw [unbindLot_eq _ b s hb]; rfl

theorem countCompletion_eq (k : CompletionKind) (l : Lot) : countCompletion k l = counted k l := by
  cases k <;> simp [countCompletion, counted, satCount_eq, Nat.min_comm]

/-- The counts changed and the record freed (R70). -/
theorem countPiece_freed (r : Piece) (c : Completion) (s : State) :
    (countPiece r c.kind (appendEntry (.piece (pieceEntry r c)) s)).freePiece r.tag = s.pieceWritten r c := by
  have free : (fun q : Piece => !(q.tag == r.tag)) = fun q => decide (q.tag ≠ r.tag) := by
    funext q
    by_cases h : q.tag = r.tag <;> simp [h]
  unfold State.pieceWritten State.freePiece countPiece
  rw [funext (countCompletion_eq c.kind), free]
  cases r.lot <;> cases r.program <;> rfl

/-- A completed record's PIECE entry is written with all the writer's work. -/
theorem writePiece_eq {tag : Nat} {r : Piece} {c : Completion} {s : State} (hr : s.piece? tag = some r)
    (hc : r.completion = some c) : writePiece tag s = s.pieceDone r c := by
  obtain rfl := (piece?_some hr).2
  simp only [writePiece, hr, hc, countPiece_freed, closeAndApply_eq]
  rfl

end Sys2Proof.Machine

namespace Sys2Proof.Machine

open Sys2Proof

/-! ### A completion as one act (R69, R70) -/

/-- A record whose completion is noted (R69). -/
def noted (c : Completion) (o : Piece) : Piece := { o with completion := some c }

def withoutActions (o : Piece) : Piece := { o with actions := [] }

/-- A record with a completion and no slot left (R69). -/
def withCompletion (c : Completion) (o : Piece) : Piece := withoutActions (noted c o)

/-- Record r completed and off the line, its PIECE entry not yet asked for (R69). -/
def State.completed (s : State) (r : Piece) (c : Completion) : State := (s.offLine r).modPiece r.tag (withCompletion c)

theorem removeLanes_eq (tag : Nat) (v : Vector (List Nat) 4) : removeLanes tag v = v.map fun l => l.filter (· ≠ tag) := by
  apply Vector.ext
  intro w hw
  rw [Vector.getElem_map]
  exact removeLanes_get tag v ⟨w, hw⟩

/-- The completion noted and the slots withdrawn one after another change the record once. -/
theorem noted_withoutPlaces (tag : Nat) (places : List Nat) (c : Completion) (s : State) :
    ((s.modPiece tag (noted c)).modPiece tag (withoutPlaces places)).modPiece tag withoutActions =
      s.modPiece tag (withCompletion c) := by
  rw [modPiece_modPiece s tag (noted c) (withoutPlaces places) fun _ => rfl,
    modPiece_modPiece s tag (fun o => withoutPlaces places (noted c o)) withoutActions fun _ => rfl]
  rfl

/-- A record without a completion is taken off the line, and its PIECE entry asked for (R69, R70). -/
theorem complete_eq {s : State} {r : Piece} (hr : s.piece? r.tag = some r) (incomplete : r.completion = none)
    (k : CompletionKind) (st : Option Stage) :
    complete r.tag k st s = requestPiece r.tag (s.completed r { kind := k, stage := st, pos := s.line.p }) := by
  let c : Completion := { kind := k, stage := st, pos := s.line.p }
  let u := s.setSlots (s.sched.slots.filterMap (cancelledIn r.tag r.actions))
  have going : ¬r.completion.isSome = true := by simp [incomplete]
  have changed : cancelSlots r.tag r.actions (s.modPiece r.tag (noted c)) =
      (u.modPiece r.tag (noted c)).modPiece r.tag (withoutPlaces r.actions) := cancelSlots_eq _ _ _
  have left : { u.modPiece r.tag (withCompletion c) with
      track := leaveLists r.tag (u.modPiece r.tag (withCompletion c)).track } = s.completed r c := by
    simp only [leaveLists, removeLanes_eq]
    rfl
  have whole : complete r.tag k st s = requestPiece r.tag
      { (cancelSlots r.tag r.actions (s.modPiece r.tag (noted c))).modPiece r.tag withoutActions with
        track := leaveLists r.tag
          ((cancelSlots r.tag r.actions (s.modPiece r.tag (noted c))).modPiece r.tag withoutActions).track } := by
    simp only [complete, hr, if_neg going]
    rfl
  rw [whole, changed, noted_withoutPlaces, left]

theorem completed_piece? {s : State} {r : Piece} (hr : s.piece? r.tag = some r) (c : Completion) :
    (s.completed r c).piece? r.tag = some (withCompletion c r) ∧
      ∀ u, u ≠ r.tag → (s.completed r c).piece? u = s.piece? u :=
  modPiece_spec (s := s.offLine r) (f := withCompletion c) hr fun _ => rfl

/-- The record is gone with its entry, whatever was noted in it. -/
theorem completed_pieceWritten (s : State) (r : Piece) (c : Completion) :
    (s.completed r c).pieceWritten (withCompletion c r) c = (s.offLine r).pieceWritten r c := by
  have pool : ((s.offLine r).track.pool.map fun o => if o.tag == r.tag then withCompletion c o else o).filter
      (fun q => q.tag ≠ r.tag) = (s.offLine r).track.pool.filter fun q => q.tag ≠ r.tag := by
    induction (s.offLine r).track.pool with
    | nil => rfl
    | cons o l ih =>
      rw [List.map_cons, List.filter_cons, List.filter_cons, ih]
      by_cases h : o.tag = r.tag <;> simp [h, withCompletion, withoutActions, noted]
  let u := (s.offLine r).pieceWritten r c
  exact congrArg (fun l => { u with track := { u.track with pool := l } }) pool

theorem completed_pieceDone (s : State) (r : Piece) (c : Completion) :
    (s.completed r c).pieceDone (withCompletion c r) c = (s.offLine r).pieceDone r c := by
  rw [State.pieceDone, completed_pieceWritten]
  rfl

end Sys2Proof.Machine

namespace Sys2Proof.Machine

open Sys2Proof

/-! ### The two ends of a completion (R70, R159) -/

/-- A completed record that waits for room in the log (R159). -/
def standsDone (c : Completion) (o : Piece) : Piece := { withCompletion c o with state := .donePending }

/-- Record r completed and off the line, its PIECE entry at the back of the order of pending writes (R159). -/
def State.waitsDone (s : State) (r : Piece) (c : Completion) : State :=
  { (s.offLine r).modPiece r.tag (standsDone c) with log := { s.log with order := s.log.order ++ [.piece r.tag] } }

section
variable {s : State} {r : Piece} (hr : s.piece? r.tag = some r) (incomplete : r.completion = none) (k : CompletionKind)
  (st : Option Stage)
include hr incomplete

/-- With room in the log and nothing waiting, the entry of a completed record is written at once (R70). -/
theorem complete_written (room : s.log.entries.length < 32 ∧ s.log.order = []) :
    complete r.tag k st s = (s.offLine r).pieceDone r { kind := k, stage := st, pos := s.line.p } := by
  let c : Completion := { kind := k, stage := st, pos := s.line.p }
  have ready : (logHasRoom (s.completed r c) && (s.completed r c).log.order.isEmpty) = true := (logReady_iff s).2 room
  rw [complete_eq hr incomplete, requestPiece, if_pos ready, writePiece_eq (completed_piece? hr c).1 rfl, completed_pieceDone]

/-- Otherwise the completed record waits (R159). -/
theorem complete_waits (full : ¬(s.log.entries.length < 32 ∧ s.log.order = [])) :
    complete r.tag k st s = s.waitsDone r { kind := k, stage := st, pos := s.line.p } := by
  let c : Completion := { kind := k, stage := st, pos := s.line.p }
  have stands : (s.completed r c).modPiece r.tag (fun o => { o with state := .donePending }) =
      (s.offLine r).modPiece r.tag (standsDone c) :=
    modPiece_modPiece (s.offLine r) r.tag (withCompletion c) _ fun _ => rfl
  rw [complete_eq hr incomplete, requestPiece_waits (s := s.completed r c) full, stands]
  rfl

end

theorem pieceDone_workKept (s : State) (r : Piece) (c : Completion) : WorkKept (s.pieceWritten r c) (s.pieceDone r c) :=
  (closedAndApplied_workKept r _).trans (examine_workKept _)

/-- A completion latches nothing, leaves the feed state and drops no notice. -/
theorem complete_still (tag : Nat) (k : CompletionKind) (st : Option Stage) (s : State) :
    (complete tag k st s).latch = s.latch ∧ (complete tag k st s).seq.feed = s.seq.feed ∧
      (complete tag k st s).log.dropped = s.log.dropped := by
  cases hr : s.piece? tag with
  | none => simp only [complete, hr, and_self]
  | some r =>
    obtain rfl := (piece?_some hr).2
    cases hc : r.completion with
    | some c => rw [complete_of_done hr (by simp [hc])]; exact ⟨rfl, rfl, rfl⟩
    | none =>
      by_cases room : s.log.entries.length < 32 ∧ s.log.order = []
      · rw [complete_written hr hc k st room]
        obtain ⟨latch, feed, dropped, -, -⟩ := pieceDone_workKept (s.offLine r) r { kind := k, stage := st, pos := s.line.p }
        exact ⟨latch, feed, dropped⟩
      · rw [complete_waits hr hc k st room]
        exact ⟨rfl, rfl, rfl⟩

/-! ### What is left of the Track Store (R69) -/

theorem offLine_zone (s : State) (r : Piece) (z : Zone) :
    (s.offLine r).track.zone z = (s.track.zone z).filter (· ≠ r.tag) := by
  cases z <;> rfl

theorem offLine_lanes (s : State) (r : Piece) (w : Lane) :
    (s.offLine r).track.entryLists[w] = s.track.entryLists[w].filter (· ≠ r.tag) ∧
      (s.offLine r).track.exitLists[w] = s.track.exitLists[w].filter (· ≠ r.tag) := by
  simp [State.offLine]

/-- The Track Store with a record off the line: in the lists of no zone and no lane, whatever the pool. -/
theorem not_mem_offLine (s : State) (r : Piece) :
    (∀ z : Zone, r.tag ∉ (s.offLine r).track.zone z) ∧
      ∀ w : Lane, r.tag ∉ (s.offLine r).track.entryLists[w] ∧ r.tag ∉ (s.offLine r).track.exitLists[w] := by
  refine ⟨fun z => ?_, fun w => ?_⟩
  · rw [offLine_zone]
    simp
  · rw [(offLine_lanes s r w).1, (offLine_lanes s r w).2]
    simp

/-- The Track Store without record r: off the line, and in use no longer. -/
def State.without (s : State) (r : Piece) : TrackStore :=
  { (s.offLine r).track with pool := s.track.pool.filter fun q => q.tag ≠ r.tag }

/-- The Track Store after a completion outside RUN, where the writer's examinations grant nothing. -/
theorem pieceDone_track {s : State} (outside : s.seq.feed ≠ .run) (r : Piece) (c : Completion) :
    ((s.offLine r).pieceDone r c).track = s.without r :=
  (pieceDone_workKept (s.offLine r) r c).track outside

theorem piece?_without {s t : State} {r : Piece} (h : t.track = s.without r) (u : Nat) :
    t.piece? u = if u = r.tag then none else s.piece? u := by
  rw [← piece?_freePiece]
  simp only [State.piece?, h, State.without, State.freePiece]
  congr 2
  funext q
  by_cases hq : q.tag = r.tag <;> simp [hq]

/-- The record that waits is the only one that has changed. -/
theorem waitsDone_eq {s : State} {r : Piece} (pool : PoolRight s.track) (hr : s.piece? r.tag = some r) (c : Completion) :
    s.waitsDone r c =
      { s.offLine r with
        log := { s.log with order := s.log.order ++ [.piece r.tag] }
        track :=
          { (s.offLine r).track with pool := s.track.pool.map fun q => if q.tag = r.tag then standsDone c r else q } } := by
  have offLine : PoolRight (s.offLine r).track := ⟨pool.size, pool.nodup, pool.tags, pool.counter⟩
  have alone : (s.offLine r).modPiece r.tag (standsDone c) = (s.offLine r).modPiece r.tag fun _ => standsDone c r :=
    modPiece_congr offLine hr rfl
  have same : (fun q : Piece => if q.tag = r.tag then standsDone c r else q) =
      fun q => if q.tag == r.tag then standsDone c r else q := by simp only [beq_iff_eq]
  rw [State.waitsDone, alone, same]
  rfl

/-- Settles O25: `complete_written` and `complete_waits`, and what the writer's work keeps. -/
theorem completionIsWrittenOrWaits : Obligations.CompletionIsWrittenOrWaits := by
  intro tag r k st s pool hr
  obtain rfl := (piece?_some hr).2
  refine ⟨fun done => complete_of_done hr (Option.isSome_iff_ne_none.2 done) k st, fun incomplete => ?_⟩
  have kept := complete_kept r.tag k st s
  obtain ⟨latch, feed, -⟩ := complete_still r.tag k st s
  obtain ⟨zones, lanes⟩ := not_mem_offLine s r
  refine ⟨kept.line, kept.eyes, kept.inputs, latch, kept.link, feed, fun room => ?_, fun full => ?_⟩
  · rw [complete_written hr incomplete k st room]
    have work := pieceDone_workKept (s.offLine r) r { kind := k, stage := st, pos := s.line.p }
    refine ⟨rfl, fun l hl => ?_, work.entries, fun outside => ?_⟩
    · have lot : ((s.offLine r).pieceWritten r { kind := k, stage := st, pos := s.line.p }).lot.lots[l.slot] =
          counted k s.lot.lots[l.slot] := by
        simp [State.pieceWritten, hl, State.offLine, State.withEntry]
      exact ⟨lot, congrArg Lot.inFlight lot⟩
    · have track := pieceDone_track outside r { kind := k, stage := st, pos := s.line.p }
      refine ⟨?_, fun u hu => ?_, fun z => ?_, fun w => ?_⟩
      · rw [piece?_without track, if_pos rfl]
      · rw [piece?_without track, if_neg hu]
      · rw [track]
        exact zones z
      · rw [track]
        exact lanes w
  · rw [complete_waits hr incomplete k st full]
    let c : Completion := { kind := k, stage := st, pos := s.line.p }
    obtain ⟨own, others⟩ := modPiece_spec (s := s.offLine r) (f := standsDone c) hr fun _ => rfl
    exact ⟨own, fun u hu => congrArg Option.isSome (others u hu), zones, lanes, rfl, rfl, rfl, rfl, rfl,
      waitsDone_eq pool hr c⟩

end Sys2Proof.Machine

namespace Sys2Proof.Machine

open Sys2Proof

/-! ### Records purged one after another (R73) -/

theorem purgeAll_kept (tags : List Nat) (s : State) : Kept s (purgeAll tags s) :=
  Kept.foldl _ (fun s tag => complete_kept tag .purged none s) tags s

theorem purgeAll_still (tags : List Nat) (s : State) :
    (purgeAll tags s).latch = s.latch ∧ (purgeAll tags s).log.dropped = s.log.dropped := by
  induction tags generalizing s with
  | nil => exact ⟨rfl, rfl⟩
  | cons tag tags ih =>
    obtain ⟨latch, -, dropped⟩ := complete_still tag .purged none s
    obtain ⟨latches, droppeds⟩ := ih (complete tag .purged none s)
    exact ⟨latches.trans latch, droppeds.trans dropped⟩

/-- The records of some tags have been purged at the present P, from s to t, and those of the others are as they were. -/
structure Purges (tags : List Nat) (s t : State) : Prop where
  feed : t.seq.feed = s.seq.feed
  line : t.line = s.line
  zone : ∀ z : Zone, t.track.zone z = (s.track.zone z).filter (· ∉ tags)
  others : ∀ u, u ∉ tags → t.piece? u = s.piece? u
  older : ∀ q ∈ t.track.pool, q.tag ∉ tags → q ∈ s.track.pool
  done : ∀ q ∈ t.track.pool, q.tag ∈ tags →
    q.state = .donePending ∧ q.completion = some { kind := .purged, stage := none, pos := s.line.p }

theorem Purges.refl (s : State) : Purges [] s s where
  feed := rfl
  line := rfl
  zone z := by simp
  others _ _ := rfl
  older _ hq _ := hq
  done _ _ h := absurd h List.not_mem_nil

theorem Purges.trans {a b : List Nat} {s t u : State} (h : Purges a s t) (k : Purges b t u) : Purges (a ++ b) s u where
  feed := k.feed.trans h.feed
  line := k.line.trans h.line
  zone z := by
    rw [k.zone, h.zone, List.filter_filter]
    congr 1
    funext x
    simp [Bool.and_comm]
  others v hv := by
    rw [List.mem_append, not_or] at hv
    exact (k.others v hv.2).trans (h.others v hv.1)
  older q hq hn := by
    rw [List.mem_append, not_or] at hn
    exact h.older q (k.older q hq hn.2) hn.1
  done q hq hm := by
    by_cases hb : q.tag ∈ b
    · have later := k.done q hq hb
      rwa [h.line] at later
    · exact h.done q (k.older q hq hb) ((List.mem_append.1 hm).resolve_right hb)

/-- A completion as PURGED outside RUN. -/
theorem complete_purges {s : State} {r : Piece} (outside : s.seq.feed ≠ .run) (hr : s.piece? r.tag = some r)
    (incomplete : r.completion = none) : Purges [r.tag] s (complete r.tag .purged none s) := by
  have feed := (complete_still r.tag .purged none s).2.1
  have line := (complete_kept r.tag .purged none s).line
  let c : Completion := { kind := .purged, stage := none, pos := s.line.p }
  by_cases room : s.log.entries.length < 32 ∧ s.log.order = []
  · rw [complete_written hr incomplete _ _ room] at feed line ⊢
    have track := pieceDone_track outside r c
    refine ⟨feed, line, fun z => ?_, fun u hu => ?_, fun q hq _ => ?_, fun q hq hm => ?_⟩
    · rw [track]
      exact (offLine_zone s r z).trans (by simp)
    · rw [piece?_without track, if_neg (by simpa using hu)]
    · rw [track] at hq
      exact (List.mem_filter.1 hq).1
    · rw [track] at hq
      simp [State.without, List.mem_singleton.1 hm] at hq
  · rw [complete_waits hr incomplete _ _ room] at feed line ⊢
    have changed (q : Piece) (hq : q ∈ (s.waitsDone r c).track.pool) :
        ∃ o ∈ s.track.pool, q = if o.tag = r.tag then standsDone c o else o := by
      obtain ⟨o, ho, rfl⟩ := List.mem_map.1 hq
      exact ⟨o, ho, by simp⟩
    refine ⟨feed, line, fun z => ?_, fun u hu => ?_, fun q hq hn => ?_, fun q hq hm => ?_⟩
    · exact (offLine_zone s r z).trans (by simp)
    · exact (modPiece_spec (s := s.offLine r) (f := standsDone c) hr fun _ => rfl).2 u (by simpa using hu)
    · obtain ⟨o, ho, rfl⟩ := changed q hq
      split at hn
      · next same => exact absurd (List.mem_singleton.2 same) hn
      · next other => rwa [if_neg other]
    · obtain ⟨o, -, rfl⟩ := changed q hq
      split at hm
      · next same =>
        rw [if_pos same]
        exact ⟨rfl, rfl⟩
      · next other => exact absurd (List.mem_singleton.1 hm) other

/-- Records without a completion purged one after another outside RUN. -/
theorem purgeAll_purges {tags : List Nat} {s : State} (outside : s.seq.feed ≠ .run) (distinct : tags.Nodup)
    (incomplete : ∀ tag ∈ tags, ∃ r, s.piece? tag = some r ∧ r.completion = none) : Purges tags s (purgeAll tags s) := by
  induction tags generalizing s with
  | nil => exact .refl s
  | cons tag tags ih =>
    obtain ⟨notAgain, rest⟩ := List.nodup_cons.1 distinct
    obtain ⟨r, hr, hc⟩ := incomplete tag List.mem_cons_self
    obtain rfl := (piece?_some hr).2
    have first := complete_purges outside hr hc
    refine first.trans (ih (first.feed ▸ outside) rest fun u hu => ?_)
    have other : u ∉ [r.tag] := fun h => notAgain (List.mem_singleton.1 h ▸ hu)
    rw [first.others u other]
    exact incomplete u (List.mem_cons_of_mem _ hu)

/-! ### The records that a selector selects (R65, R66, R73) -/

theorem zoneState_injective : Function.Injective zoneState := by
  intro z y
  cases z <;> cases y <;> simp [zoneState]

section
variable {s : State} (pool : PoolRight s.track) (right : ZonesRight s.track)
include pool right

theorem zone_unique {z y : Zone} {tag : Nat} (hz : tag ∈ s.track.zone z) (hy : tag ∈ s.track.zone y) : z = y := by
  obtain ⟨r, hr, rfl, hrz⟩ := (right.holds z tag).1 hz
  obtain ⟨q, hq, tag, hqy⟩ := (right.holds y r.tag).1 hy
  have same : some r = some q := by rw [← piece?_of_mem pool hr, ← tag, piece?_of_mem pool hq]
  cases same
  exact zoneState_injective (hrz.symm.trans hqy)

theorem incomplete_of_zone {z : Zone} {tag : Nat} (h : tag ∈ s.track.zone z) :
    ∃ r, s.piece? tag = some r ∧ r.completion = none := by
  obtain ⟨r, hr, rfl, state⟩ := (right.holds z tag).1 h
  refine ⟨r, piece?_of_mem pool hr, Option.not_isSome_iff_eq_none.1 fun done => ?_⟩
  rw [(right.done r hr).1 done] at state
  cases z <;> cases state

theorem selected_nodup {zones : List Zone} (distinct : zones.Nodup) : (zones.flatMap s.track.zone).Nodup :=
  List.nodup_flatMap.2 ⟨fun z _ => right.nodup z,
    distinct.imp fun hne _ hz hy => hne (zone_unique pool right hz hy)⟩

end

/-- The zone selectors of R73 with the zones in the order in which they are purged. -/
theorem selected_eq {sel : Byte} {zones : List Zone} (t : TrackStore)
    (h : (sel, zones) ∈
      ([(1, [.feed]), (2, [.iron]), (3, [.fold]), (4, [.drop]), (5, [.drop, .fold, .iron, .feed])] :
        List (Byte × List Zone))) :
    sel.toNat ≠ 6 ∧ zones.Nodup ∧ selected t sel.toNat = some (zones.flatMap t.zone) := by
  simp only [List.mem_cons, Prod.mk.injEq, List.not_mem_nil, or_false] at h
  rcases h with ⟨rfl, rfl⟩ | ⟨rfl, rfl⟩ | ⟨rfl, rfl⟩ | ⟨rfl, rfl⟩ | ⟨rfl, rfl⟩
  all_goals exact ⟨by decide, by decide, by simp [selected, TrackStore.zone]⟩

theorem selected_none {n : Nat} (h : n = 0 ∨ 6 < n) (t : TrackStore) : selected t n = none := by
  match n with
  | 0 => rfl
  | 1 | 2 | 3 | 4 | 5 | 6 => omega
  | _ + 7 => rfl

/-! ### PURGE as a request (R73, R74) -/

theorem purgeOwner_none {sel a b : Byte} (h : sel.toNat = 0 ∨ 6 < sel.toNat) (s : State) :
    purgeOwner [sel, a, b] s = (s, .refuse .badValue) := by
  simp only [purgeOwner, rd8_first, selected_none h, if_neg (show ¬sel.toNat = 6 by omega)]

theorem purgeOwner_zones {sel a b : Byte} {s : State} {tags : List Nat} (named : sel.toNat ≠ 6)
    (h : selected s.track sel.toNat = some tags) :
    purgeOwner [sel, a, b] s = (purgeAll tags s, .reply [b8 tags.length]) := by
  simp only [purgeOwner, rd8_first, h, if_neg named]

theorem purgeOwner_tag (lo hi : Byte) (s : State) :
    purgeOwner [6, lo, hi] s = purgeByTag (lo.toNat + 256 * hi.toNat) s := rfl

/-- Outside RUN the zones selected are emptied, and no other zone and no other record changes (R73). -/
theorem purgeAll_zones {s : State} {zones : List Zone} (pool : PoolRight s.track) (right : ZonesRight s.track)
    (distinct : zones.Nodup) (outside : s.seq.feed ≠ .run) :
    let t := purgeAll (zones.flatMap s.track.zone) s
    (∀ z ∈ zones, t.track.zone z = []) ∧ (∀ z ∉ zones, t.track.zone z = s.track.zone z) ∧
      (∀ r ∈ t.track.pool, (∃ z ∈ zones, r.tag ∈ s.track.zone z) →
        r.state = .donePending ∧ r.completion = some { kind := .purged, stage := none, pos := s.line.p }) ∧
      ∀ r ∈ s.track.pool, (∀ z ∈ zones, r.tag ∉ s.track.zone z) → r ∈ t.track.pool := by
  have selected (tag : Nat) : tag ∈ zones.flatMap s.track.zone ↔ ∃ z ∈ zones, tag ∈ s.track.zone z := List.mem_flatMap
  have purges := purgeAll_purges outside (selected_nodup pool right distinct) fun tag hm =>
    let ⟨_, _, hz⟩ := (selected tag).1 hm
    incomplete_of_zone pool right hz
  refine ⟨fun z hz => ?_, fun z hz => ?_, fun r hr hm => purges.done r hr ((selected _).2 hm), fun r hr hn => ?_⟩
  · rw [purges.zone, List.filter_eq_nil_iff]
    intro tag hm
    simpa using ⟨z, hz, hm⟩
  · rw [purges.zone, List.filter_eq_self]
    intro tag hm
    rw [decide_eq_true_eq, selected]
    rintro ⟨y, hy, hmy⟩
    exact hz (zone_unique pool right hm hmy ▸ hy)
  · have unselected : r.tag ∉ zones.flatMap s.track.zone := by
      rw [selected]
      rintro ⟨z, hz, hm⟩
      exact hn z hz hm
    exact (piece?_some ((purges.others r.tag unselected).trans (piece?_of_mem pool hr))).1

/-- PURGE with a zone selector is carried out and answered with the number selected (R73). -/
theorem purge_zones {addr sel a b : Byte} {s : State} {tags : List Nat} (h : Takes s addr) (named : sel.toNat ≠ 6)
    (chosen : selected s.track sel.toNat = some tags) :
    exec (.purge addr [sel, a, b]) s =
      .next ((purgeAll tags (s.received addr 0x41 [sel, a, b])).answered addr 0x41 [BitVec.ofNat 8 tags.length]) :=
  congrArg Host.Outcome.next
    (takeFrame_reply (code := 0x41) (body := [sel, a, b]) h (by simp) rfl rfl (purgeOwner_zones named chosen))

/-- Settles O26: the selectors of R73 one by one; outside RUN `purgeAll_purges` along the list of tags. -/
theorem purgeCompletesTheSelectedRecords : Obligations.PurgeCompletesTheSelectedRecords := by
  refine ⟨fun addr sel a b s h pool right => ⟨fun bad => ?_, fun zones hz => ?_⟩, fun addr lo hi s h => ⟨fun gone => ?_,
    fun r hr => ⟨fun done => ?_, fun going => ?_⟩⟩⟩
  · exact takeFrame_turnedAway (code := 0x41) (body := [sel, a, b]) h (by simp) rfl rfl (purgeOwner_none bad _)
  · obtain ⟨named, distinct, chosen⟩ := selected_eq s.track hz
    let r := s.received addr 0x41 [sel, a, b]
    have kept := purgeAll_kept (zones.flatMap s.track.zone) r
    obtain ⟨latch, dropped⟩ := purgeAll_still (zones.flatMap s.track.zone) r
    exact ⟨purge_zones h named chosen, latch, dropped, kept.line, kept.eyes, kept.inputs,
      purgeAll_zones (s := r) pool right distinct⟩
  · refine takeFrame_turnedAway (code := 0x41) (body := [6, lo, hi]) h (by simp) rfl rfl ((purgeOwner_tag lo hi _).trans ?_)
    simp only [purgeByTag, piece?_none (s := s.received addr 0x41 [6, lo, hi]) gone]
  · refine takeFrame_told (code := 0x41) (body := [6, lo, hi]) h (by simp) rfl rfl ((purgeOwner_tag lo hi _).trans ?_)
    simp only [purgeByTag, show (s.received addr 0x41 [6, lo, hi]).piece? _ = some r from hr, if_pos done]
  · refine congrArg Host.Outcome.next (takeFrame_reply (code := 0x41) (body := [6, lo, hi]) h (by simp) rfl rfl
      ((purgeOwner_tag lo hi _).trans ?_))
    simp only [purgeByTag, show (s.received addr 0x41 [6, lo, hi]).piece? _ = some r from hr, if_neg going]
    rfl

end Sys2Proof.Machine

namespace Sys2Proof.Machine

open Sys2Proof

/-! ### Window expiries (R92, R94) -/

theorem expireOrHold_eq {tag : Nat} {r : Piece} {s : State} (st : Stage) (h : s.piece? tag = some r) :
    (HoldsBack s st r → expireOrHold st tag s = { s with heldExpiry := s.heldExpiry ++ [tag] }) ∧
      (¬HoldsBack s st r → expireOrHold st tag s = complete tag .lost (some st) (latchFault .lost s)) := by
  simp only [← heldBack_iff, expireOrHold, h]
  exact ⟨fun held => if_pos held, fun free => if_neg free⟩

theorem nextExpiry_none {s : State} (st : Stage) (h : ∀ tag, Due.expiry tag ∉ s.due) : nextExpiry st s = none :=
  List.find?_eq_none.2 fun tag _ due => h tag (List.contains_iff_mem.1 due)

/-- The next expiry of a stage, from the records before it in its zone: none of them is due, whether it still waits or not. -/
theorem nextExpiry_first {st : Stage} {s : State} {tag : Nat} {r : Piece} {before after : List Nat}
    (zone : s.track.zone (stageZone st) = before ++ tag :: after) (first : ∀ u ∈ before, Due.expiry u ∉ s.due)
    (due : Due.expiry tag ∈ s.due) (hr : s.piece? tag = some r) (waits : stillWaits st r = true)
    (expires : expiryPoint s.prog.settings st r = s.line.p) : nextExpiry st s = some tag := by
  have now : expiresNow s st r = true := Bool.and_eq_true_iff.2 ⟨waits, decide_eq_true expires⟩
  rw [nextExpiry, expiring, State.select, List.find?_filter]
  refine find?_of_split zone (fun u hu => ?_) ?_
  · simp [first u hu]
  · simp [hr, now, due]

/-- Settles O51: the record taken is `nextExpiry_first`, and `expireOrHold_eq` says what becomes of its expiry; the event's own
entry in the list of what is due plays no part in holding it back. -/
theorem windowExpiryLosesTheRecord : Obligations.WindowExpiryLosesTheRecord := by
  refine fun st s powered => ⟨fun noneDue => ?_, fun tag r before after zone first due hr waits expires => ?_⟩
  · simp only [exec, execWindowExpiry, whenPowered_on powered, nextExpiry_none st noneDue]
  · have taken : exec (.windowExpiry st) s = .next (expireOrHold st tag (dropDue (.expiry tag) s)) := by
      simp only [exec, execWindowExpiry, whenPowered_on powered, nextExpiry_first zone first due hr waits expires]
    obtain ⟨held, free⟩ := expireOrHold_eq (s := dropDue (.expiry tag) s) st hr
    exact ⟨fun h => taken.trans (congrArg Host.Outcome.next (held h)),
      fun h => taken.trans (congrArg Host.Outcome.next (free h))⟩

end Sys2Proof.Machine

namespace Sys2Proof.Machine

open Sys2Proof

/-! ### The slot that fires (R120 to R124) -/

/-- With ESTOP active, or with no firing due, no slot fires (R120, R124). -/
theorem nextFire_none {s : State} (h : s.inputs.estop = true ∨ ∀ place, Due.fire place ∉ s.due) : nextFire s = none := by
  unfold nextFire
  rcases h with stop | idle
  · rw [if_pos stop]
  · rw [List.find?_eq_none.2 fun y _ => by simp [idle], ite_self]

/-- The slot that fires is the first in table order that is due (R120). -/
theorem nextFire_first {s : State} {y : Slot} {before after : List Slot} (stop : s.inputs.estop = false)
    (slots : s.sched.slots = before ++ y :: after) (first : ∀ z ∈ before, Due.fire z.place ∉ s.due)
    (due : Due.fire y.place ∈ s.due) (reached : 0 ≤ posDiff s.line.p y.pos) : nextFire s = some y := by
  have inactive : ¬s.inputs.estop = true := by simp [stop]
  rw [nextFire, if_neg inactive]
  exact find?_of_split slots (fun z hz => by simp [first z hz]) (by simp [due, atOrPast, reached])

/-- Each firing row by the slot that fires: the row of another action changes nothing (R121 to R123; log 27). -/
theorem exec_fires {s : State} {y : Slot} (powered : s.powered = true) (next : nextFire s = some y) :
    exec .foldSlotFire s = .next (if isFoldAction y.action then s.fired y else s) ∧
      exec .rejectSlotFire s = .next (if y.action = .reject then fireReject y s else s) ∧
      exec .dropSlotFire s = .next (if y.action = .drop then fireDrop y s else s) := by
  simp only [exec, execFoldSlotFire, execRejectSlotFire, execDropSlotFire, whenPowered_on powered, next, fireSlot_eq, and_self]

/-- A fired slot is taken from the pending actions of the records it names, and changes nothing else of them (R120). -/
theorem fired_piece? {s : State} {y : Slot} {tag : Nat} {r : Piece} (hr : s.piece? tag = some r) :
    ∃ actions, (s.fired y).piece? tag = some { r with actions := actions } := by
  let g (q : Piece) : Piece := if q.tag ∈ y.tags then { q with actions := q.actions.filter fun pl => pl ≠ y.place } else q
  have tags (q : Piece) : (g q).tag = q.tag := by
    simp only [g]
    split <;> rfl
  have found : (s.fired y).piece? tag = (s.piece? tag).map g := by
    show (s.track.pool.map g).find? (fun q => q.tag == tag) = _
    rw [List.find?_map]
    exact congrArg (Option.map g) (congrArg (s.track.pool.find? ·) (funext fun q => by simp [tags]))
  rw [found, hr]
  by_cases named : r.tag ∈ y.tags
  · exact ⟨_, congrArg some (if_pos named)⟩
  · exact ⟨r.actions, congrArg some (if_neg named)⟩

/-- The firing of a REJECT slot completes its record at the gate (R122). -/
theorem fireReject_eq {s : State} {y : Slot} {tag : Nat} {r : Piece} (tags : y.tags = [tag]) (hr : s.piece? tag = some r) :
    fireReject y s = complete tag (if r.route = .back then .returned else .rejected) none (s.fired y) := by
  obtain ⟨actions, found⟩ := fired_piece? (y := y) hr
  simp only [fireReject, tags, List.foldl_cons, List.foldl_nil, fireSlot_eq, found, gateKind]

/-- A drop counted in its lot, with a release asked for at a full stack (R136). -/
theorem countDrop_eq (i : LotSlot) (b : Bin) (s : State) :
    let count := if s.lot.lots[i].stackCount < 255 then s.lot.lots[i].stackCount + 1 else 255
    let u := s.modLot i fun x => { x with stackCount := count, lastUse := s.line.p }
    countDrop i b s = if s.lot.lots[i].stackSize ≤ count then u.releaseAsked b else u := by
  intro count u
  have counted : (s.modLot i fun l => { l with stackCount := satStack l.stackCount, lastUse := s.line.p }) = u := by
    simp only [u, count, State.modLot, vmod, satStack]
  have lot : u.lot.lots[i] = { s.lot.lots[i] with stackCount := count, lastUse := s.line.p } := vmod_get_same _ _ _
  simp only [countDrop, counted, lot, requestRelease_eq]

/-- The firing of a DROP slot counts the drop in its record's lot and completes the record STACKED (R123, R136). -/
theorem fireDrop_eq {s : State} {y : Slot} {tag : Nat} {r : Piece} {l : LotRef} {b : Bin} (tags : y.tags = [tag])
    (hr : s.piece? tag = some r) (drive : y.drive = .bf b) (lot : r.lot = some l) :
    fireDrop y s = complete tag .stacked none (countDrop l.slot b (s.fired y)) := by
  obtain ⟨actions, found⟩ := fired_piece? (y := y) hr
  simp only [fireDrop, tags, List.foldl_cons, List.foldl_nil, fireSlot_eq, found, countDropOf, drive, lot]

/-- Settles O52: `nextFire_first` finds the slot, `exec_fires` says which row fires it, and `fireReject_eq` and `fireDrop_eq` what
the firing does besides. -/
theorem slotsFireAsTheirAction : Obligations.SlotsFireAsTheirAction := by
  intro s powered
  refine ⟨fun idle => ?_, fun y before after stop slots first due reached => ?_⟩
  · simp only [exec, execFoldSlotFire, execRejectSlotFire, execDropSlotFire, whenPowered_on powered, nextFire_none idle, and_self]
  · obtain ⟨fold, reject, drop⟩ := exec_fires powered (nextFire_first stop slots first due reached)
    refine ⟨fun action => ?_, fun tag r tags hr action => ?_, fun tag r l b tags hr action drive lot => ?_⟩
    · rw [fold, reject, drop]
      rcases action with action | action | action <;> rw [action] <;> exact ⟨rfl, rfl, rfl⟩
    · rw [fold, reject, drop, action, fireReject_eq tags hr]
      exact ⟨rfl, rfl, rfl⟩
    · rw [fold, reject, drop, action, fireDrop_eq tags hr drive lot, countDrop_eq]
      exact ⟨rfl, rfl, rfl⟩

/-! ### An idle lot unbound (R135, R138) -/

/-- A lot slot is idle when it is OPEN, bound, with nothing in flight, and has run idle_distance past its last use (R135). -/
theorem idleReady_of {s : State} {i : LotSlot} {b : Bin} (opened : s.lot.lots[i].state = .opened)
    (bound : s.lot.lots[i].bin = some b) (empty : s.lot.lots[i].inFlight = 0) (on : 0 < s.prog.settings.idleDistance)
    (run : (s.prog.settings.idleDistance : Int) ≤ posDiff s.line.p s.lot.lots[i].lastUse) : idleReady s i = true := by
  simp only [idleReady, opened, bound, empty, on, run, Option.isSome_some, BEq.rfl, decide_true, Bool.and_self]

/-- An unbinding with the cases of its release side by side: none asked for or one held already, one to be held, one started
(R115, R138). -/
theorem unbound_cases (s : State) (i : LotSlot) (b : Bin) :
    s.unbound i b =
      let u : State :=
        if s.lot.lots[i].stackCount = 0 ∨ s.sched.held[b] = true then s
        else if s.inputs.estop = true ∨ s.sched.out.bf[b].isSome then
          { s with sched := { s.sched with held := s.sched.held.set b true } }
        else s.releaseStarted b
      { u with
        lot :=
          { lots := u.lot.lots.set i { u.lot.lots[i] with stackCount := 0, bin := none }, bins := s.lot.bins.set b none } } := by
  have asked : (if s.lot.lots[i].stackCount = 0 then s else s.releaseAsked b) =
      if s.lot.lots[i].stackCount = 0 ∨ s.sched.held[b] = true then s
      else if s.inputs.estop = true ∨ s.sched.out.bf[b].isSome then
        { s with sched := { s.sched with held := s.sched.held.set b true } }
      else s.releaseStarted b := by
    exact (ite_or ..).symm
  rw [State.unbound, asked]

/-- Settles O53: an idle lot is unbound as `unbound_cases` says, and the stations are examined. -/
theorem idleUnbindFreesTheBin : Obligations.IdleUnbindFreesTheBin := by
  intro i s powered
  refine ⟨fun idle => ?_, fun b due opened bound empty on run => ?_⟩
  · simp only [exec, execIdleUnbind, whenPowered_on powered, List.contains_eq_mem, idle, decide_false, Bool.false_and,
      Bool.false_eq_true, if_false]
  · have taken : exec (.idleUnbind i) s = .next (examine (unbindLot i (dropDue (.idle i) s))) := by
      simp only [exec, execIdleUnbind, whenPowered_on powered, List.contains_eq_mem, due, idleReady_of opened bound empty on run,
        decide_true, Bool.and_self, if_true]
    rw [taken, unbindLot_eq i b (dropDue (.idle i) s) bound, unbound_cases]
    rfl

end Sys2Proof.Machine

namespace Sys2Proof.Machine

open Sys2Proof

/-! ### The numbers of the log (R156) -/

theorem nextEntryNumber_le (n : Nat) : nextEntryNumber n ≤ 65535 := by
  unfold nextEntryNumber
  split <;> omega

/-- An entry under the counter's value goes on with the numbers. -/
theorem numbersRun_append {counter : Nat} (b : EntryBody) : ∀ {l : List LogEntry}, numbersRun counter l →
    numbersRun (nextEntryNumber counter) (l ++ [{ number := counter, body := b }])
  | [], _ => rfl
  | [_], h => ⟨h, rfl⟩
  | _ :: _ :: _, ⟨h, rest⟩ => ⟨h, numbersRun_append b rest⟩

/-- Without its oldest entries the log runs on as before. -/
theorem numbersRun_drop {counter : Nat} :
    ∀ (n : Nat) {l : List LogEntry}, numbersRun counter l → numbersRun counter (l.drop n)
  | 0, _, h => h
  | _ + 1, [], h => h
  | n + 1, [_], _ => by simp [numbersRun]
  | n + 1, _ :: _ :: _, ⟨_, rest⟩ => numbersRun_drop n rest

/-! ### The order of the slot table (R116) -/

/-- A slot put in at its place by position stands in order. -/
theorem pairwise_insertSlot {p : Pos} (x : Slot) {l : List Slot}
    (h : l.Pairwise fun y z => posDiff y.pos p ≤ posDiff z.pos p) :
    (insertSlot p x l).Pairwise fun y z => posDiff y.pos p ≤ posDiff z.pos p := by
  induction l with
  | nil => exact List.pairwise_singleton _ _
  | cons y l ih =>
    obtain ⟨first, rest⟩ := List.pairwise_cons.1 h
    unfold insertSlot
    split
    · next before =>
      refine List.pairwise_cons.2 ⟨fun z hz => ?_, h⟩
      rcases List.mem_cons.1 hz with rfl | hz
      · omega
      · have := first z hz
        omega
    · refine List.pairwise_cons.2 ⟨fun z hz => ?_, ih rest⟩
      rcases List.mem_cons.1 ((insertSlot_perm p x l).mem_iff.1 hz) with rfl | hz
      · omega
      · exact first z hz

/-- The search for a free place ends below its bound, or finds every place taken (log 12). -/
theorem freePlace_lt_or (slots : List Slot) (fuel n : Nat) :
    freePlace slots fuel n < n + fuel ∨ ∀ k < fuel, ∃ y ∈ slots, y.place = n + k := by
  induction fuel generalizing n with
  | zero => exact .inr fun k hk => absurd hk (Nat.not_lt_zero k)
  | succ fuel ih =>
    unfold freePlace
    split
    · next taken =>
      refine (ih (n + 1)).imp (fun below => by omega) fun all k hk => ?_
      cases k with
      | zero => simpa using taken
      | succ k =>
        obtain ⟨y, hy, place⟩ := all k (by omega)
        exact ⟨y, hy, by omega⟩
    · exact .inl (by omega)

/-- With fewer slots than places a place of the table is found (log 12). -/
theorem freePlace_lt {slots : List Slot} {fuel : Nat} (h : slots.length < fuel) : freePlace slots fuel 0 < fuel := by
  refine (freePlace_lt_or slots fuel 0).elim (fun below => by omega) fun all => ?_
  have taken : List.range fuel ⊆ slots.map (·.place) := fun k hk => by
    obtain ⟨y, hy, place⟩ := all k (List.mem_range.1 hk)
    exact List.mem_map.2 ⟨y, hy, by omega⟩
  have := (List.nodup_range.subperm taken).length_le
  rw [List.length_range, List.length_map] at this
  omega

/-- P moved by one count, seen from a slot that lies nearer than the signed difference can tell (R2). -/
theorem posDiff_moved {q p : Pos} (near : (posDiff q p).natAbs < 2147483647) :
    posDiff q (p + 1#32) = posDiff q p - 1 ∧ posDiff q (p - 1#32) = posDiff q p + 1 := by
  unfold posDiff at near ⊢
  have ahead : q - (p + 1#32) = q - p - 1#32 := by grind
  have behind : q - (p - 1#32) = q - p + 1#32 := by grind
  rw [ahead, behind]
  generalize q - p = d at near
  rw [BitVec.toInt_sub, BitVec.toInt_add, show (1#32).toInt = 1 from rfl]
  constructor <;> exact Int.bmod_eq_of_le (by omega) (by omega)

end Sys2Proof.Machine

namespace Sys2Proof.Machine

open Sys2Proof

/-! ### The log and the slot table from one state to another -/

/-- The log with its waiting requests, the slot table, and P: what the bounds and the order of the two tables read (R116, R156,
R159). -/
def State.tables (s : State) : CompletionLog × List Slot × Pos := (s.log, s.sched.slots, s.line.p)

/-- From s to t the log stays in bounds, full while anything waits, with its numbers running, and the slot table in bounds and in
order (R116, R156, R159). -/
structure TablesKept (s t : State) : Prop where
  bounded : LogBounded s → LogBounded t
  waiting : LogBounded s → WaitingMeansFull s → WaitingMeansFull t
  numbers : NumbersRun s → NumbersRun t
  slots : SlotsBounded s → SlotsBounded t
  ordered : SlotsOrdered s → SlotsOrdered t

theorem TablesKept.trans {s t u : State} (h : TablesKept s t) (k : TablesKept t u) : TablesKept s u where
  bounded := k.bounded ∘ h.bounded
  waiting bounded full := k.waiting (h.bounded bounded) (h.waiting bounded full)
  numbers := k.numbers ∘ h.numbers
  slots := k.slots ∘ h.slots
  ordered := k.ordered ∘ h.ordered

/-- An operation that leaves the log, the slot table and P alone. -/
theorem TablesKept.still {s t : State} (same : t.tables = s.tables) : TablesKept s t := by
  simp only [State.tables, Prod.mk.injEq] at same
  obtain ⟨log, slots, p⟩ := same
  refine ⟨fun h => ?_, fun _ h => ?_, fun h => ?_, fun h => ?_, fun h => ?_⟩
  · rwa [LogBounded, log]
  · rwa [WaitingMeansFull, log]
  · rwa [NumbersRun, log]
  · rwa [SlotsBounded, slots]
  · exact ⟨by rw [slots, p]; exact h.order, by rw [slots]; exact h.places, by rw [slots]; exact h.inTable⟩

theorem TablesKept.refl (s : State) : TablesKept s s := .still rfl

theorem TablesKept.of_eq {s t : State} (h : t = s) : TablesKept s t := h ▸ .refl s

/-- An operation that starts from a state of the same tables. -/
theorem TablesKept.after {s t u : State} (h : TablesKept t u) (same : t.tables = s.tables) : TablesKept s u :=
  (TablesKept.still same).trans h

/-- An operation that ends in a state of the same tables. -/
theorem TablesKept.upTo {s t u : State} (h : TablesKept s t) (same : u.tables = t.tables) : TablesKept s u :=
  h.trans (.still same)

theorem TablesKept.foldl {α : Type} {f : State → α → State} (hf : ∀ s a, TablesKept s (f s a)) (l : List α) (s : State) :
    TablesKept s (l.foldl f s) := by
  induction l generalizing s with
  | nil => exact .refl s
  | cons a l ih => exact (hf s a).trans (ih (f s a))

/-- The values at reset and at RESTART (R127, R166): both tables are empty. -/
theorem TablesKept.reset {s t : State} (log : t.log = CompletionLog.initial) (slots : t.sched.slots = []) : TablesKept s t := by
  refine ⟨fun _ => ?_, fun _ _ => ?_, fun _ => ?_, fun _ => ?_, fun _ => ?_⟩
  · rw [LogBounded, log]
    exact Nat.zero_le _
  · rw [WaitingMeansFull, log]
    exact absurd rfl
  · rw [NumbersRun, log]
    exact numbersRun_reset
  · rw [SlotsBounded, slots]
    exact ⟨Nat.zero_le _, Nat.zero_le _⟩
  · refine ⟨?_, ?_, ?_⟩ <;> rw [slots]
    · exact .nil
    · exact List.nodup_nil
    · nofun

/-! ### The log: entries, notices and requests that wait (R156, R159, R160) -/

/-- An entry is written while the log has room: unless the log was not right, nothing waits then (R156, R159). -/
theorem appendEntry_tables {s : State} (room : s.log.entries.length < 32) (b : EntryBody) : TablesKept s (appendEntry b s) where
  waiting _ full waits := absurd (full waits) (Nat.ne_of_lt room)
  bounded _ := by
    show (s.log.entries ++ [_]).length ≤ 32
    rw [List.length_append]
    exact room
  numbers := fun ⟨run, counter, numbers⟩ => by
    refine ⟨numbersRun_append b run, nextEntryNumber_le s.log.counter, fun e he => ?_⟩
    rcases List.mem_append.1 he with he | he
    · exact numbers e he
    · obtain rfl := List.mem_singleton.1 he
      exact counter
  slots := id
  ordered := fun h => ⟨h.order, h.places, h.inTable⟩

/-- A request that has to wait joins the order: the log is full, or something waits already and so it is full (R159). -/
theorem waits_tables {s : State} (w : PendingWrite) (notReady : ¬(s.log.entries.length < 32 ∧ s.log.order = [])) :
    TablesKept s { s with log := { s.log with order := s.log.order ++ [w] } } where
  bounded := id
  numbers := id
  slots := id
  ordered := fun h => ⟨h.order, h.places, h.inTable⟩
  waiting bounded full _ := by
    by_cases empty : s.log.order = []
    · exact Nat.le_antisymm bounded (Nat.le_of_not_lt fun room => notReady ⟨room, empty⟩)
    · exact full empty

theorem notice_tables (code : Nat) (pos : Pos) (s : State) : TablesKept s (notice code pos s) := by
  by_cases room : s.log.entries.length < 32
  · rw [notice_of_room room]
    exact appendEntry_tables room _
  · rw [notice_of_full room]
    exact ⟨id, fun _ => id, id, id, fun h => ⟨h.order, h.places, h.inTable⟩⟩

theorem requestSummary_tables (i : LotSlot) (s : State) : TablesKept s (requestSummary i s) := by
  unfold requestSummary
  by_cases ready : s.log.entries.length < 32 ∧ s.log.order = []
  · rw [if_pos ((logReady_iff s).2 ready)]
    exact (appendEntry_tables ready.1 _).upTo rfl
  · rw [if_neg fun h => ready ((logReady_iff s).1 h)]
    exact (waits_tables (.lot i) ready).upTo rfl

/-! ### The slot table: slots made, moved, changed and taken out (R116 to R120) -/

/-- Slots that are changed but for place, position and action, or taken out of the table. -/
theorem thinned_tables {g : Slot → Option Slot}
    (hg : ∀ y z, g y = some z → z.place = y.place ∧ z.pos = y.pos ∧ z.action = y.action) (s : State) :
    TablesKept s (s.setSlots (s.sched.slots.filterMap g)) where
  bounded := id
  numbers := id
  waiting _ := id
  slots := fun ⟨length, count⟩ => by
    refine ⟨(List.length_filterMap_le g _).trans length, le_trans ?_ count⟩
    show plainCount (s.sched.slots.filterMap g) ≤ plainCount s.sched.slots
    simp only [plainCount, ← List.countP_eq_length_filter, List.countP_filterMap]
    refine List.countP_mono_left fun y _ hy => ?_
    cases found : g y with
    | none => simp [found] at hy
    | some z =>
      obtain ⟨-, -, action⟩ := hg y z found
      simpa [found, action] using hy
  ordered h := by
    refine ⟨List.pairwise_filterMap.2 (h.order.imp fun le y' hy z' hz => ?_),
      List.pairwise_map.2 (List.pairwise_filterMap.2 ((List.pairwise_map.1 h.places).imp fun ne y' hy z' hz => ?_)),
      fun z hz => ?_⟩
    · rw [(hg _ _ hy).2.1, (hg _ _ hz).2.1]
      exact le
    · rw [(hg _ _ hy).1, (hg _ _ hz).1]
      exact ne
    · obtain ⟨y, hy, found⟩ := List.mem_filterMap.1 hz
      rw [(hg y z found).1]
      exact h.inTable y hy

/-- Slots that are changed but for place, position and action. -/
theorem marked_tables {f : Slot → Slot} (hf : ∀ y, (f y).place = y.place ∧ (f y).pos = y.pos ∧ (f y).action = y.action)
    (s : State) : TablesKept s (s.setSlots (s.sched.slots.map f)) := by
  rw [← List.filterMap_eq_map]
  refine thinned_tables (fun y z hz => ?_) s
  cases hz
  exact hf y

/-- Slots taken out of the table. -/
theorem filtered_tables (p : Slot → Bool) (s : State) : TablesKept s (s.setSlots (s.sched.slots.filter p)) := by
  rw [← List.filterMap_eq_filter]
  refine thinned_tables (fun y z hz => ?_) s
  obtain ⟨rfl, -⟩ := Option.guard_eq_some_iff.1 hz
  exact ⟨rfl, rfl, rfl⟩

/-- A slot put in at its place by position, in a place of the table that no slot holds, with room for it. -/
theorem inserted_ordered {s : State} (h : SlotsOrdered s) {x : Slot} (fresh : ∀ y ∈ s.sched.slots, y.place ≠ x.place)
    (inTable : x.place < 32) : SlotsOrdered (s.setSlots (insertSlot s.line.p x s.sched.slots)) := by
  have perm := insertSlot_perm s.line.p x s.sched.slots
  refine ⟨pairwise_insertSlot x h.order, ?_, fun y hy => ?_⟩
  · refine (perm.map (·.place)).nodup_iff.2 (List.nodup_cons.2 ⟨fun taken => ?_, h.places⟩)
    obtain ⟨y, hy, place⟩ := List.mem_map.1 taken
    exact fresh y hy place
  · rcases List.mem_cons.1 (perm.mem_iff.1 hy) with rfl | hy
    · exact inTable
    · exact h.inTable y hy

theorem plainCount_insertSlot (p : Pos) (x : Slot) (l : List Slot) : plainCount (insertSlot p x l) = plainCount (x :: l) :=
  ((insertSlot_perm p x l).filter _).length_eq

/-- A slot is made in a free place of the table, while there is room for its action (R116, R117). -/
theorem makeSlot_tables {pos : Pos} {a : SlotAction} {d : Drive} {tag : Nat} {s t : State}
    (h : makeSlot pos a d tag s = some t) : TablesKept s t := by
  unfold makeSlot at h
  split at h
  · next room =>
    cases h
    have below := length_lt_of_hasRoom room
    let x : Slot :=
      { place := freePlace s.sched.slots Config.slotPlaces 0, pos := pos, action := a, drive := d, tags := [tag]
        passed := false }
    have made : TablesKept s (s.setSlots (insertSlot s.line.p x s.sched.slots)) := by
      refine ⟨id, fun _ => id, id, fun ⟨_, count⟩ => ⟨?_, ?_⟩, fun ordered => ?_⟩
      · show (insertSlot s.line.p x s.sched.slots).length ≤ 32
        rw [insertSlot_length]
        exact below
      · show plainCount (insertSlot s.line.p x s.sched.slots) ≤ 28
        rw [plainCount_insertSlot]
        by_cases reject : a = .reject
        · simpa [plainCount, x, reject] using count
        · have := ((hasRoom_plain reject _).1 room).2
          simpa [plainCount, x, reject] using this
      · exact inserted_ordered ordered (freePlace_free below 0) (freePlace_lt below)
    exact made.upTo rfl
  · cases h

/-- A slot that moves leaves its place in the table and takes it again at its new position (R119). -/
theorem moveSlot_tables (place : Nat) (pos : Pos) (s : State) : TablesKept s (moveSlot place pos s) := by
  unfold moveSlot
  split
  · next x found =>
    have hx : x ∈ s.sched.slots := List.mem_of_find?_eq_some found
    have own : x.place = place := by simpa using List.find?_some found
    let rest := s.sched.slots.filter fun y => !(y.place == place)
    have left : TablesKept s (s.setSlots rest) := filtered_tables _ s
    -- the moved slot is one of those that left, so that there is room for it again
    have again : ∀ q : Slot → Bool, q x = true → (rest.filter q).length + 1 ≤ (s.sched.slots.filter q).length := by
      intro q hq
      have : (rest.filter q) = (s.sched.slots.filter q).filter fun y => !(y.place == place) := List.filter_comm ..
      rw [this]
      exact List.length_filter_lt_length_iff_exists.2 ⟨x, List.mem_filter.2 ⟨hx, hq⟩, by simp [own]⟩
    refine ⟨id, fun _ => id, id, fun ⟨length, count⟩ => ⟨?_, ?_⟩, fun ordered => ?_⟩
    · show (insertSlot s.line.p { x with pos := pos } rest).length ≤ 32
      have := again (fun _ => true) rfl
      rw [List.filter_true, List.filter_true] at this
      rw [insertSlot_length]
      exact this.trans length
    · show plainCount (insertSlot s.line.p { x with pos := pos } rest) ≤ 28
      rw [plainCount_insertSlot]
      refine le_trans ?_ count
      by_cases reject : x.action = .reject
      · rw [plainCount, List.filter_cons_of_neg (by simp [reject])]
        exact (List.filter_sublist.filter _).length_le
      · rw [plainCount, List.filter_cons_of_pos (by simp [reject])]
        exact again _ (by simp [reject])
    · refine inserted_ordered (left.ordered ordered) (fun y hy => ?_) (ordered.inTable x hx)
      have := (List.mem_filter.1 hy).2
      simpa [own] using this
  · exact .refl s

end Sys2Proof.Machine

namespace Sys2Proof.Machine

open Sys2Proof

/-! ### Operations that leave the log, the slot table and P alone -/

theorem startRelease_same (b : Bin) (s : State) : (startRelease b s).tables = s.tables := by
  unfold startRelease
  dsimp only
  split <;> rfl

theorem requestRelease_same (b : Bin) (s : State) : (requestRelease b s).tables = s.tables := by
  unfold requestRelease
  split
  · rfl
  · split
    · rfl
    · exact startRelease_same b s

theorem startHeld_same (b : Bin) (s : State) : (startHeld b s).tables = s.tables := by
  unfold startHeld
  split
  · exact startRelease_same b s
  · rfl

theorem unbindLot_same (i : LotSlot) (s : State) : (unbindLot i s).tables = s.tables := by
  simp only [State.tables, unbindLot_log, (unbindLot_grantKept i s).slots, (unbindLot_kept i s).line]

/-- An examination neither writes an entry nor makes or fires a slot (R46). -/
theorem examine_same (s : State) : (examine s).tables = s.tables := by
  obtain ⟨-, -, -, slots⟩ := examine_still s
  simp only [State.tables, examine_log, slots, (examine_kept s).line]

theorem examine_tables (s : State) : TablesKept s (examine s) := .still (examine_same s)

theorem runPause_same (lost : Bool) (s : State) : (runPause lost s).tables = s.tables := by
  unfold runPause
  split
  · split <;> rfl
  · split
    · exact examine_same _
    · rfl
  · rfl

theorem measureTails_same (tag : Nat) (foot : LaneSet) (t : Pos) (s : State) :
    (measureTails tag foot t s).tables = s.tables := by
  unfold measureTails
  dsimp only
  split
  · exact examine_same _
  · rfl

theorem moveRecord_same (tag : Nat) (z : Zone) (f : Piece → Piece) (s : State) :
    (moveRecord tag z f s).tables = s.tables := by
  unfold moveRecord
  dsimp only
  split <;> rfl

theorem countPiece_same (r : Piece) (k : CompletionKind) (s : State) : (countPiece r k s).tables = s.tables := by
  unfold countPiece
  rcases r.lot with _ | l <;> rcases r.program with _ | ix <;> rfl

theorem writeEstimate_same (tag : Nat) (s : State) : (writeEstimate tag s).tables = s.tables := by
  unfold writeEstimate
  split
  · split <;> rfl
  · rfl

theorem stagedIfDone_same (r : Piece) (s : State) : (stagedIfDone r s).tables = s.tables := by
  unfold stagedIfDone applyStaged
  split
  · split
    · split
      · exact examine_same _
      · rfl
    · rfl
  · rfl

/-! ### The writer's work and the order of pending writes (R140, R159, R162) -/

/-- What the counts of a written record bring leaves the tables alone, but for the summary that it may ask for (R140, R148). -/
theorem closeAndApply_asks (r : Piece) (s : State) :
    ∃ u, u.tables = s.tables ∧ (closeAndApply r s = u ∨ ∃ i, closeAndApply r s = requestSummary i u) := by
  unfold closeAndApply
  split
  · next l _ =>
    split
    · refine ⟨_, ?_, .inr ⟨l.slot, rfl⟩⟩
      split
      · exact (examine_same _).trans ((stagedIfDone_same r _).trans (unbindLot_same _ s))
      · exact stagedIfDone_same r s
    · exact ⟨_, stagedIfDone_same r s, .inl rfl⟩
  · exact ⟨_, stagedIfDone_same r s, .inl rfl⟩

/-- The writer's work on a record: nothing, or one entry, and then the summary that the record's lot may ask for (R70, R140). -/
theorem writePiece_writes (tag : Nat) (s : State) :
    writePiece tag s = s ∨ ∃ b u, u.tables = (appendEntry b s).tables ∧
      ((writePiece tag s).tables = u.tables ∨ ∃ i, (writePiece tag s).tables = (requestSummary i u).tables) := by
  unfold writePiece
  split
  · split
    · next r _ _ c _ =>
      obtain ⟨u, same, asks⟩ :=
        closeAndApply_asks r ((countPiece r c.kind (appendEntry (.piece (pieceEntry r c)) s)).freePiece tag)
      refine .inr ⟨.piece (pieceEntry r c), u, same.trans (countPiece_same r c.kind _), ?_⟩
      rcases asks with none_ | ⟨i, summary⟩
      · exact .inl ((examine_same _).trans (congrArg State.tables none_))
      · exact .inr ⟨i, (examine_same _).trans (congrArg State.tables summary)⟩
    · exact .inl rfl
  · exact .inl rfl

theorem writePiece_tables {s : State} (room : s.log.entries.length < 32) (tag : Nat) : TablesKept s (writePiece tag s) := by
  rcases writePiece_writes tag s with nothing | ⟨b, u, same, none_ | ⟨i, summary⟩⟩
  · exact .of_eq nothing
  · exact (appendEntry_tables room b).upTo (none_.trans same)
  · exact ((appendEntry_tables room b).upTo same).trans ((requestSummary_tables i u).upTo summary)

theorem requestPiece_tables (tag : Nat) (s : State) : TablesKept s (requestPiece tag s) := by
  by_cases ready : s.log.entries.length < 32 ∧ s.log.order = []
  · rw [requestPiece, if_pos ((logReady_iff s).2 ready)]
    exact writePiece_tables ready.1 tag
  · rw [requestPiece_waits ready]
    exact (waits_tables (.piece tag) ready).upTo rfl

/-- The writes that a waiting request can come to: its own, and for a record the summary of its lot (R140). -/
def PendingWrite.writes : PendingWrite → Nat
  | .piece _ => 2
  | .lot _ => 1

/-- The writes that the order of pending writes can come to. -/
def writesWaiting (order : List PendingWrite) : Nat := (order.map (·.writes)).sum

theorem requestSummary_writes (i : LotSlot) (s : State) :
    writesWaiting (requestSummary i s).log.order ≤ writesWaiting s.log.order + 1 := by
  unfold requestSummary
  split
  · exact Nat.le_succ _
  · show writesWaiting (s.log.order ++ [.lot i]) ≤ _
    simp [writesWaiting, PendingWrite.writes]

/-- A waiting request that is written comes off the writes that are left, whatever it brings. -/
theorem writePending_writes (w : PendingWrite) (s : State) :
    writesWaiting (writePending w s).log.order + 1 ≤ writesWaiting s.log.order + w.writes := by
  have order {t u : State} (same : t.tables = u.tables) : t.log.order = u.log.order :=
    congrArg (fun v : CompletionLog × List Slot × Pos => v.1.order) same
  cases w with
  | lot i => exact Nat.le_refl _
  | piece tag =>
    show writesWaiting (writePiece tag s).log.order + 1 ≤ writesWaiting s.log.order + 2
    rcases writePiece_writes tag s with nothing | ⟨b, u, same, none_ | ⟨i, summary⟩⟩
    · rw [nothing]
      omega
    · rw [order none_, order same]
      exact Nat.le_succ _
    · have asked := requestSummary_writes i u
      rw [order same] at asked
      rw [order summary]
      exact Nat.succ_le_succ asked

theorem writePending_tables {s : State} (room : s.log.entries.length < 32) (w : PendingWrite) :
    TablesKept s (writePending w s) := by
  cases w with
  | piece tag => exact writePiece_tables room tag
  | lot i => exact (appendEntry_tables room _).upTo rfl

theorem fillLog_tables (fuel : Nat) (s : State) : TablesKept s (fillLog fuel s) := by
  induction fuel generalizing s with
  | zero => exact .refl s
  | succ n ih =>
    unfold fillLog
    split
    · exact .refl s
    · next w ws order =>
      split
      · next room =>
        let t := { s with log := { s.log with order := ws } }
        have taken : TablesKept s t :=
          ⟨id, fun _ full _ => full (by simp [order]), id, id, fun h => ⟨h.order, h.places, h.inTable⟩⟩
        exact (taken.trans (writePending_tables (s := t) (of_decide_eq_true room) w)).trans (ih _)
      · exact .refl s

/-- With fuel for every write that the order can come to, the filled log is full while anything still waits (R162, step 4). -/
theorem fillLog_full {fuel : Nat} {s : State} (enough : writesWaiting s.log.order ≤ fuel) (bounded : LogBounded s) :
    WaitingMeansFull (fillLog fuel s) := by
  induction fuel generalizing s with
  | zero =>
    have empty : s.log.order = [] := by
      cases h : s.log.order with
      | nil => rfl
      | cons w ws => cases w <;> simp [h, writesWaiting, PendingWrite.writes] at enough
    exact fun waits => absurd empty waits
  | succ n ih =>
    unfold fillLog
    split
    · next empty => exact fun waits => absurd empty waits
    · next w ws order =>
      split
      · next room =>
        have room : s.log.entries.length < 32 := of_decide_eq_true room
        let t := { s with log := { s.log with order := ws } }
        refine ih ?_ ((writePending_tables (s := t) room w).bounded bounded)
        have fewer : writesWaiting (writePending w t).log.order + 1 ≤ writesWaiting ws + w.writes := writePending_writes w t
        have whole : writesWaiting s.log.order = w.writes + writesWaiting ws := by simp [writesWaiting, order]
        show writesWaiting (writePending w t).log.order ≤ n
        omega
      · next full =>
        have full : ¬s.log.entries.length < 32 := fun room => full (decide_eq_true room)
        exact fun _ => Nat.le_antisymm bounded (Nat.le_of_not_lt full)

theorem writesWaiting_le (order : List PendingWrite) : writesWaiting order ≤ 2 * order.length := by
  unfold writesWaiting
  induction order with
  | nil => exact Nat.le_refl _
  | cons w ws ih =>
    have : w.writes ≤ 2 := by cases w <;> simp [PendingWrite.writes]
    rw [List.map_cons, List.sum_cons, List.length_cons]
    omega

/-- The oldest entries taken and the room filled (R162). -/
theorem takeEntries_tables (n : Nat) (s : State) : TablesKept s (takeEntries n s) := by
  let t := { s with log := { s.log with entries := s.log.entries.drop n, dropped := false } }
  have shorter : LogBounded s → LogBounded t := fun h => by
    show (s.log.entries.drop n).length ≤ 32
    rw [List.length_drop]
    exact (Nat.sub_le _ _).trans h
  have filled := fillLog_tables (2 * s.log.order.length) t
  exact {
    bounded := fun h => filled.bounded (shorter h)
    waiting := fun h _ => fillLog_full (writesWaiting_le s.log.order) (shorter h)
    numbers := fun ⟨run, counter, numbers⟩ =>
      filled.numbers ⟨numbersRun_drop n run, counter, fun e he => numbers e (List.mem_of_mem_drop he)⟩
    slots := filled.slots
    ordered := fun h => filled.ordered ⟨h.order, h.places, h.inTable⟩ }

end Sys2Proof.Machine

namespace Sys2Proof.Machine

open Sys2Proof

/-! ### Completions and expiries (R69, R92) -/

/-- A cancellation leaves the place, the position and the action of a slot that still names a record (R118). -/
theorem cancelledIn_keeps {tag : Nat} {places : List Nat} {y z : Slot} (h : cancelledIn tag places y = some z) :
    z.place = y.place ∧ z.pos = y.pos ∧ z.action = y.action := by
  unfold cancelledIn cancelledFor at h
  split at h
  · split at h
    · split at h
      · cases h
      · cases h
        exact ⟨rfl, rfl, rfl⟩
    · cases h
      exact ⟨rfl, rfl, rfl⟩
  · cases h
    exact ⟨rfl, rfl, rfl⟩

theorem cancelSlots_tables (tag : Nat) (places : List Nat) (s : State) : TablesKept s (cancelSlots tag places s) := by
  rw [cancelSlots_eq]
  exact (thinned_tables (fun _ _ => cancelledIn_keeps) s).upTo rfl

theorem complete_tables (tag : Nat) (k : CompletionKind) (st : Option Stage) (s : State) :
    TablesKept s (complete tag k st s) := by
  cases hr : s.piece? tag with
  | none => exact .of_eq (by simp only [complete, hr])
  | some r =>
    obtain rfl := (piece?_some hr).2
    cases hc : r.completion with
    | some c => exact .of_eq (complete_of_done hr (by simp [hc]) k st)
    | none =>
      let c : Completion := { kind := k, stage := st, pos := s.line.p }
      have offLine : TablesKept s (s.completed r c) :=
        (thinned_tables (g := cancelledIn r.tag r.actions) (fun _ _ => cancelledIn_keeps) s).upTo rfl
      rw [complete_eq hr hc]
      exact offLine.trans (requestPiece_tables _ _)

theorem expire_tables (st : Stage) (tag : Nat) (s : State) : TablesKept s (expire st tag s) :=
  (complete_tables tag .lost (some st) (latchFault .lost s)).after rfl

theorem expireOrHold_tables (st : Stage) (tag : Nat) (s : State) : TablesKept s (expireOrHold st tag s) := by
  unfold expireOrHold
  split
  · split
    · exact .still rfl
    · exact expire_tables st tag s
  · exact .refl s

theorem settleHeld_tables (s : State) : TablesKept s (settleHeld s) := by
  refine TablesKept.foldl (fun t tag => ?_) _ s
  unfold settleOne
  split
  · exact .still rfl
  · split
    · exact .still rfl
    · split
      · exact .still rfl
      · split
        · exact .refl t
        · exact (expire_tables _ tag { t with heldExpiry := t.heldExpiry.filter (· ≠ tag) }).after rfl

/-! ### The Fold Planner (R96 to R112) -/

theorem becomeUndiverted_tables (tag : Nat) (s : State) : TablesKept s (becomeUndiverted tag s) := by
  unfold becomeUndiverted
  dsimp only
  split
  · split
    · exact (expireOrHold_tables .fold tag _).after rfl
    · exact .still rfl
  · exact .still rfl

theorem lostForSlot_tables (tag : Nat) (s : State) : TablesKept s (lostForSlot tag s) :=
  (complete_tables tag .lost (some .fold) (latchFault .noSlot (takeReason tag .slotFull s))).after rfl

theorem rejectPlan_tables (tag : Nat) (s : State) : TablesKept s (rejectPlan tag s) := by
  unfold rejectPlan
  split
  · split
    · exact .refl s
    · dsimp only
      split
      · exact (becomeUndiverted_tables tag (latchFault .undiverted s)).after rfl
      · split
        · next made => exact makeSlot_tables made
        · exact lostForSlot_tables tag s
  · exact .refl s

theorem planAway_tables (tag : Nat) (s : State) : TablesKept s (planAway tag s) := by
  unfold planAway
  split
  · exact (cancelSlots_tables tag _ s).trans (rejectPlan_tables tag _)
  · exact .refl s

theorem reasonArrives_tables (tag : Nat) (why : RejectReason) (s : State) : TablesKept s (reasonArrives tag why s) := by
  unfold reasonArrives
  split
  · split
    · exact .refl s
    · dsimp only
      split
      · exact (planAway_tables tag (takeReason tag why s)).after rfl
      · exact .still rfl
  · exact .refl s

/-- A tag joins a standing slot, which stays where it is (R117). -/
theorem joinSlot_tables (place tag : Nat) (s : State) : TablesKept s (joinSlot place tag s) := by
  refine (marked_tables (fun y => ?_) s).upTo rfl
  split <;> exact ⟨rfl, rfl, rfl⟩

theorem askAll_tables (tag : Nat) (l : List PlanRequest) (s : State) : TablesKept s (askAll tag l s) := by
  induction l generalizing s with
  | nil => exact .refl s
  | cons q l ih =>
    cases q with
    | join place => exact (joinSlot_tables place tag s).trans (ih _)
    | make pos a d =>
      unfold askAll
      split
      · next made => exact (makeSlot_tables made).trans (ih _)
      · exact (planAway_tables tag (takeReason tag .slotFull s)).after rfl

theorem foldPlan_tables (tag : Nat) (r : Piece) (pr : ProgramRec) (s : State) : TablesKept s (foldPlan tag r pr s) := by
  have rejected (why : RejectReason) : TablesKept s (rejectPlan tag (takeReason tag why s)) :=
    (rejectPlan_tables tag _).after rfl
  unfold foldPlan
  extract_lets x len folds cross
  split
  · exact rejected .lateFold
  · clear_value cross
    cases cross with
    | none => exact askAll_tables tag _ s
    | some q =>
      dsimp only
      split
      · exact rejected .xfConflict
      · exact askAll_tables tag _ s
      · exact askAll_tables tag _ s

theorem planExit_tables (tag : Nat) (s : State) : TablesKept s (planExit tag s) := by
  have estimated : TablesKept s (writeEstimate tag s) := .still (writeEstimate_same tag s)
  unfold planExit
  dsimp only
  split
  · split
    · split
      · exact estimated.trans (foldPlan_tables tag _ _ _)
      · exact estimated.trans (rejectPlan_tables tag _)
    · exact estimated.trans (rejectPlan_tables tag _)
  · exact estimated

theorem refineSlot_tables (tag : Nat) (x : Pos) (len : Nat) (pr : ProgramRec) (s : State) (place : Nat) :
    TablesKept s (refineSlot tag x len pr s place) := by
  unfold refineSlot
  split
  · split
    · split
      · exact moveSlot_tables place _ s
      · exact .refl s
    · exact .refl s
  · exact .refl s

theorem exitLengthKnown_tables (tag len : Nat) (s : State) : TablesKept s (exitLengthKnown tag len s) := by
  unfold exitLengthKnown
  split
  · split
    · split
      · exact reasonArrives_tables tag .exitMismatch s
      · exact TablesKept.foldl (fun t pl => refineSlot_tables _ _ _ _ t pl) _ s
    · exact .refl s
  · exact .refl s

theorem planDrop_tables (tag : Nat) (s : State) : TablesKept s (planDrop tag s) := by
  unfold planDrop
  split
  · split
    · dsimp only
      split
      · next made => exact (makeSlot_tables made).after rfl
      · exact (lostForSlot_tables tag _).after rfl
    · exact complete_tables tag .stacked none s
  · exact .refl s

/-! ### The Matcher and the eyes (R9 to R17, R76 to R91) -/

theorem untracked_tables (code : Nat) (c : Pos) (s : State) : TablesKept s (untracked code c s) :=
  (notice_tables code c s).upTo rfl

theorem leadEntry_tables (w : Lane) (c : Pos) (s : State) : TablesKept s (leadEntry w c s) := by
  unfold leadEntry
  dsimp only
  split
  · exact .still rfl
  · split
    · exact .still (moveRecord_same _ _ _ (closeEntryLane w s))
    · split
      · exact .still rfl
      · exact (untracked_tables _ c (closeEntryLane w s)).after rfl

theorem leadExit_tables (w : Lane) (c : Pos) (s : State) : TablesKept s (leadExit w c s) := by
  unfold leadExit
  dsimp only
  split
  · exact .still rfl
  · split
    · exact (planExit_tables _ _).after (moveRecord_same _ _ _ (closeExitLane w s))
    · split
      · exact (planExit_tables _ (takeRecord .fold (exitStray w c) (closeExitLane w s)).2).after rfl
      · exact (untracked_tables _ c (closeExitLane w s)).after rfl

theorem leadStacker_tables (c : Pos) (s : State) : TablesKept s (leadStacker c s) := by
  unfold leadStacker
  split
  · exact (notice_tables 48 c s).upTo rfl
  · exact TablesKept.foldl (fun t tag => (planDrop_tables tag _).after (moveRecord_same _ _ _ t)) _ s

theorem leadingEdge_tables (e : Eye) (c : Pos) (s : State) : TablesKept s (leadingEdge e c s) := by
  cases e with
  | n w => exact leadEntry_tables w c s
  | x w => exact leadExit_tables w c s
  | k => exact leadStacker_tables c s

theorem lengthCheck_tables (tag len : Nat) (pr : ProgramRec) (s : State) : TablesKept s (lengthCheck tag len pr s) := by
  unfold lengthCheck
  split
  · exact reasonArrives_tables tag .joined s
  · split
    · exact reasonArrives_tables tag .short s
    · exact .refl s

theorem trailEntry_tables (w : Lane) (t : Pos) (s : State) : TablesKept s (trailEntry w t s) := by
  unfold trailEntry
  split
  · exact .refl s
  · dsimp only
    split
    · exact .still rfl
    · split
      · exact .still rfl
      · refine TablesKept.upTo ?_ (measureTails_same _ _ _ _)
        split
        · exact (lengthCheck_tables _ _ _ _).after rfl
        · exact .still rfl

theorem trailExit_tables (w : Lane) (t : Pos) (s : State) : TablesKept s (trailExit w t s) := by
  unfold trailExit
  split
  · exact .refl s
  · dsimp only
    split
    · exact .still rfl
    · exact (exitLengthKnown_tables _ _ _).after rfl

theorem trailingEdge_tables (e : Eye) (t : Pos) (s : State) : TablesKept s (trailingEdge e t s) := by
  cases e with
  | n w => exact trailEntry_tables w t s
  | x w => exact trailExit_tables w t s
  | k => exact .refl s

theorem goDark_tables (e : Eye) (s : State) : TablesKept s (goDark e s) := by
  unfold goDark
  split
  · exact .refl s
  · exact .still rfl

theorem goLight_tables (e : Eye) (s : State) : TablesKept s (goLight e s) := by
  unfold goLight
  dsimp only
  split
  · exact .refl s
  · split
    · exact ((trailingEdge_tables e _ _).trans (settleHeld_tables _)).after rfl
    · exact (settleHeld_tables _).after rfl

theorem acceptEye_tables (e : Eye) (s : State) : TablesKept s (acceptEye e s) :=
  ((leadingEdge_tables e _ _).trans (settleHeld_tables _)).after rfl

theorem blockEye_tables (e : Eye) (s : State) : TablesKept s (blockEye e s) :=
  have noticed : TablesKept s (notice (16 + eyeNumber e) s.line.p (s.modEye e fun x => { x with state := .blocked })) :=
    (notice_tables _ _ _).after rfl
  noticed.upTo rfl

/-! ### What an edge brings after the count (R9, R14, R15, R124) -/

theorem markPassed_tables (s : State) : TablesKept s (markPassed s) := by
  refine marked_tables (fun y => ?_) s
  split <;> exact ⟨rfl, rfl, rfl⟩

theorem afterForward_tables (s : State) : TablesKept s (afterForward s) := by
  have eyes : TablesKept s (eyesForward { s with due := [], heldExpiry := [] }) := by
    obtain ⟨u, hu, -⟩ := foldl_eyeForward { s with due := [], heldExpiry := [] }
    unfold eyesForward
    rw [hu]
    exact (TablesKept.foldl (fun t e => trailingEdge_tables e t.line.p t) _ _).after rfl
  unfold afterForward
  dsimp only
  split
  · exact (eyes.trans (markPassed_tables _)).upTo rfl
  · exact eyes.upTo rfl

theorem afterReverse_tables (s : State) : TablesKept s (afterReverse s) := by
  obtain ⟨u, hu, -⟩ := afterReverse_eq s
  rw [hu]
  exact .still rfl

/-! ### The panel, ESTOP and the slots that fire (R20, R113, R120 to R125) -/

theorem press_tables (k : StationIx) (s : State) : TablesKept s (press k s) := by
  unfold press
  split
  · exact (examine_tables _).after rfl
  · exact .refl s

theorem markDue_tables (s : State) : TablesKept s (markDue s) := by
  refine (marked_tables (fun y => ?_) s).upTo rfl
  split <;> exact ⟨rfl, rfl, rfl⟩

theorem stopAll_tables (s : State) : TablesKept s (stopAll s) := by
  let u := allStations.foldl (fun s k => endRel k s) { s with inputs := { s.inputs with estop := true } }
  have ended : u.tables = s.tables := by
    simp only [u, endRels_eq]
    rfl
  have marked : TablesKept s (markDue (u.modOut fun _ => Outputs.allOff)) := (markDue_tables _).after ended
  exact marked.upTo rfl

theorem removeSlot_tables (y : Slot) (s : State) : TablesKept s (removeSlot y s) := by
  rw [removeSlot_eq]
  exact (filtered_tables (fun z => z.place ≠ y.place) s).upTo rfl

theorem droppedFor_tables (a : SlotAction) (s : State) (tag : Nat) : TablesKept s (droppedFor a s tag) := by
  unfold droppedFor
  split
  · exact (becomeUndiverted_tables tag (latchFault .undiverted s)).after rfl
  · exact expire_tables .fold tag s
  · exact reasonArrives_tables tag .foldMissed s

theorem dropPassed_tables (fuel : Nat) (s : State) : TablesKept s (dropPassed fuel s) := by
  induction fuel generalizing s with
  | zero => exact .refl s
  | succ n ih =>
    unfold dropPassed
    split
    · next y _ =>
      have dropped : TablesKept s (dropSlot y s) :=
        ((notice_tables _ _ s).trans (removeSlot_tables y _)).trans (TablesKept.foldl (droppedFor_tables y.action) _ _)
      exact dropped.trans (ih _)
    · exact .refl s

theorem releaseStop_tables (s : State) : TablesKept s (releaseStop s) :=
  have dropped : TablesKept s (dropPassed Config.slotPlaces { s with inputs := { s.inputs with estop := false } }) :=
    (dropPassed_tables _ _).after rfl
  dropped.trans (TablesKept.foldl (fun t b => .still (startHeld_same b t)) _ _)

theorem fireSlot_tables (y : Slot) (s : State) : TablesKept s (fireSlot y s) := by
  rw [fireSlot_eq]
  exact (filtered_tables (fun z => z.place ≠ y.place) s).upTo rfl

theorem fireReject_tables (y : Slot) (s : State) : TablesKept s (fireReject y s) := by
  refine (fireSlot_tables y s).trans (TablesKept.foldl (fun t tag => ?_) _ _)
  split
  · exact complete_tables tag _ none t
  · exact .refl t

theorem countDropOf_same (d : Drive) (r : Piece) (s : State) : (countDropOf d r s).tables = s.tables := by
  unfold countDropOf
  split
  · unfold countDrop
    dsimp only
    split
    · exact requestRelease_same _ _
    · rfl
  · rfl

theorem fireDrop_tables (y : Slot) (s : State) : TablesKept s (fireDrop y s) := by
  refine (fireSlot_tables y s).trans (TablesKept.foldl (fun t tag => ?_) _ _)
  split
  · exact (complete_tables tag .stacked none _).after (countDropOf_same _ _ t)
  · exact .refl t

/-! ### Supply and requests (R155, R171, R179) -/

theorem switchOn_tables (smp : PowerSamples) (s : State) : TablesKept s (switchOn smp s) := by
  obtain ⟨u, hu, -⟩ := resetEyes_eq (poweredUp smp s)
  rw [switchOn_eq, hu]
  exact .reset rfl rfl

theorem restartAll_tables (s : State) : TablesKept s (restartAll s) := by
  unfold restartAll
  extract_lets prog u
  obtain ⟨eyes, hu, -⟩ := resetEyes_eq u
  rw [hu]
  exact .reset rfl rfl

theorem feedOwner_tables (body : List Byte) (s : State) : TablesKept s (feedOwner body s).1 := by
  have on : TablesKept s (turnFeedOn s).1 := by
    unfold turnFeedOn
    split
    · exact .refl s
    · dsimp only
      split
      · exact .refl s
      · split
        · exact .still rfl
        · split
          · exact (examine_tables (s.setFeed .run)).after rfl
          · exact .still rfl
  unfold feedOwner
  split
  · exact .still rfl
  · exact on
  · exact .refl s

theorem assignOwner_tables (body : List Byte) (s : State) : TablesKept s (assignOwner body s).1 := by
  unfold assignOwner
  dsimp only
  split
  · exact .refl s
  · split
    · exact .still rfl
    · split
      · split
        · exact .still rfl
        · exact .refl s
      · exact .refl s

theorem enableOwner_tables (body : List Byte) (s : State) : TablesKept s (enableOwner body s).1 := by
  unfold enableOwner
  split
  · exact .refl s
  · split
    · exact .still rfl
    · unfold doEnable
      dsimp only [enableReply]
      split
      · exact (examine_tables _).after rfl
      · exact .still rfl
    · unfold doClear
      split
      · exact .still rfl
      · exact .refl s
    · exact .refl s

theorem lotOpenOwner_tables (body : List Byte) (s : State) : TablesKept s (lotOpenOwner body s).1 := by
  unfold lotOpenOwner
  dsimp only
  split
  · exact .refl s
  · split
    · exact .refl s
    · split
      · exact .refl s
      · split
        · exact .refl s
        · exact .still rfl

theorem closeLot_tables (i : LotSlot) (s : State) : TablesKept s (closeLot i s) := by
  unfold closeLot
  dsimp only
  split
  · unfold endClose
    refine TablesKept.trans (.still ?_) (requestSummary_tables i _)
    split
    · exact (examine_same _).trans (unbindLot_same i _)
    · rfl
  · exact .still rfl

theorem lotCloseOwner_tables (body : List Byte) (s : State) : TablesKept s (lotCloseOwner body s).1 := by
  unfold lotCloseOwner
  split
  · exact .refl s
  · dsimp only
    split
    · exact closeLot_tables _ s
    · exact .refl s

theorem programWriteOwner_tables (body : List Byte) (s : State) : TablesKept s (programWriteOwner body s).1 := by
  unfold programWriteOwner
  split
  · exact .refl s
  · split
    · exact .refl s
    · split
      · exact .refl s
      · split
        · exact (examine_tables _).after rfl
        · exact .still rfl

theorem leaveBin_tables (s : State) (b : Bin) : TablesKept s (leaveBin s b) := by
  unfold leaveBin
  split
  · exact .refl s
  · split
    · exact .refl s
    · next i _ =>
      dsimp only
      split
      · exact (requestSummary_tables i _).after (unbindLot_same i s)
      · exact .still (unbindLot_same i s)

theorem storeAsked_same (c : LineSettings) (replies : Bool) (s : State) : (storeAsked c replies s).tables = s.tables := rfl

theorem settingsWriteOwner_tables (body : List Byte) (s : State) : TablesKept s (settingsWriteOwner body s).1 := by
  unfold settingsWriteOwner
  split
  · exact .refl s
  · split
    · exact .refl s
    · split
      · exact .refl s
      · next c _ =>
        obtain ⟨u, -, put⟩ := putSettings_eq c (!s.link.quiet) s
        dsimp only
        rw [put]
        split
        · have left : TablesKept s (allBins.foldl leaveBin (inForce c u s)) :=
            TablesKept.after (t := inForce c u s) (TablesKept.foldl leaveBin_tables allBins _) rfl
          exact (left.trans (examine_tables _)).upTo (storeAsked_same c _ _)
        · exact .still rfl

theorem purgeAll_tables (tags : List Nat) (s : State) : TablesKept s (purgeAll tags s) :=
  TablesKept.foldl (fun t tag => complete_tables tag .purged none t) tags s

theorem purgeOwner_tables (body : List Byte) (s : State) : TablesKept s (purgeOwner body s).1 := by
  unfold purgeOwner
  split
  · unfold purgeByTag
    split
    · exact .refl s
    · split
      · exact .refl s
      · exact purgeAll_tables _ s
  · split
    · exact .refl s
    · exact purgeAll_tables _ s

theorem logTakeOwner_tables (body : List Byte) (s : State) : TablesKept s (logTakeOwner body s).1 :=
  takeEntries_tables _ s

theorem acknowledge_tables (s : State) : TablesKept s (acknowledge s) := by
  unfold acknowledge
  split
  · unfold releaseHeld
    split
    · split
      · exact (examine_tables _).after rfl
      · exact .still rfl
    · exact .still rfl
  · exact .refl s

theorem TablesKept.ite {p : Prop} [Decidable p] {f g : State → State × Answer} {s : State} (hf : TablesKept s (f s).1)
    (hg : TablesKept s (g s).1) : TablesKept s ((if p then f else g) s).1 := by
  split
  · exact hf
  · exact hg

/-- What the owner of a request does, in the order of the request table (R171). -/
theorem ownerOf_tables (code : Byte) (body : List Byte) (s : State) : TablesKept s (ownerOf code body s).1 := by
  obtain ⟨stationRead, lotRead, programRead, pieceRead, logPeek⟩ := readOwners_still body s
  unfold ownerOf
  refine .ite (feedOwner_tables body s) <| .ite (assignOwner_tables body s) <| .ite (enableOwner_tables body s) <|
    .ite (.of_eq stationRead) <| .ite (lotOpenOwner_tables body s) <| .ite (lotCloseOwner_tables body s) <|
    .ite (.of_eq lotRead) <| .ite (programWriteOwner_tables body s) <| .ite (.of_eq programRead) <|
    .ite (settingsWriteOwner_tables body s) <| .ite (.refl s) <| .ite (.of_eq pieceRead) <| .ite (purgeOwner_tables body s) <|
    .ite (.of_eq logPeek) <| .ite (logTakeOwner_tables body s) <| .ite (acknowledge_tables s) <| .ite (.refl s) <|
    .ite (.still rfl) <| .ite (.still rfl) <| .ite (restartAll_tables s) (.refl s)

theorem owe_same (code : Byte) (a : Answer) (s : State) : (owe code a s).tables = s.tables := by
  unfold owe
  split <;> rfl

theorem handleFrame_tables (addr code : Byte) (body : List Byte) (s : State) :
    TablesKept s (handleFrame addr code body s) := by
  have carried : TablesKept s (carryOut code body (ownerOf code body) s).1 := by
    unfold carryOut
    split
    · exact .refl s
    · split
      · exact .refl s
      · exact ownerOf_tables code body s
  unfold handleFrame
  split
  · split
    · exact carried
    · exact .refl s
  · split
    · split
      · exact .refl s
      · exact carried.upTo (owe_same _ _ _)
    · exact .refl s

theorem receiveChar_tables (s : State) (c : Byte) : TablesKept s (receiveChar s c) := by
  have buffered (t : State) : TablesKept t (takeBuffer t) := by
    unfold takeBuffer
    split
    · split
      · exact handleFrame_tables _ _ _ t
      · exact .refl t
    · exact .refl t
  unfold receiveChar
  dsimp only
  split
  · exact (buffered _).after rfl
  · exact .still rfl

theorem receiveChars_tables (s : State) (cs : List Byte) : TablesKept s (receiveChars s cs) :=
  TablesKept.foldl receiveChar_tables cs s

theorem takeFrame_tables (addr code : Byte) (body : List Byte) (s : State) : TablesKept s (takeFrame addr code body s) := by
  unfold takeFrame
  split
  · exact .refl s
  · split
    · exact receiveChars_tables s _
    · split
      · exact .still rfl
      · exact (handleFrame_tables _ _ _ _).after rfl

theorem sendReply_same (s : State) : (sendReply s).tables = s.tables := by
  unfold sendReply
  split
  · rfl
  · split
    · rfl
    · split <;> rfl

end Sys2Proof.Machine

namespace Sys2Proof.Machine

open Sys2Proof

/-! ### Every step keeps the log and the slot table (R116, R156, R159) -/

/-- From s to t P moves by at most one count, and then the log and the slot table stay right (R1). -/
def MovedAndKept (s t : State) : Prop :=
  ∃ p : Pos, (p = s.line.p ∨ p = s.line.p + 1#32 ∨ p = s.line.p - 1#32) ∧
    TablesKept { s with line := { s.line with p := p } } t

theorem TablesKept.moved {s t : State} (h : TablesKept s t) : MovedAndKept s t := ⟨s.line.p, .inl rfl, h⟩

/-- With P moved by at most one count, slots that lie nearer than the signed difference can tell stay in order: the move counts
alike for each of them (R2, R116). -/
theorem SlotsOrdered.movedBy {s : State} (h : SlotsOrdered s) (near : SlotsNear s) {p : Pos}
    (one : p = s.line.p ∨ p = s.line.p + 1#32 ∨ p = s.line.p - 1#32) :
    SlotsOrdered { s with line := { s.line with p := p } } := by
  refine ⟨List.Pairwise.imp_of_mem (fun {y z} hy hz le => ?_) h.order, h.places, h.inTable⟩
  obtain ⟨aheadY, behindY⟩ := posDiff_moved (near y hy)
  obtain ⟨aheadZ, behindZ⟩ := posDiff_moved (near z hz)
  show posDiff y.pos p ≤ posDiff z.pos p
  rcases one with rfl | rfl | rfl <;> omega

theorem whenPowered_tables {f : State → State} {s t : State} (hf : TablesKept s (f s)) (h : whenPowered f s = .next t) :
    TablesKept s t := by
  unfold whenPowered at h
  split at h
  · cases h
    exact hf
  · cases h
    exact .refl s

/-- The count of an edge moves P by one, forward or back, and what follows keeps the tables (R1). -/
theorem countedEdge_moved (ch : EncChannel) {s t : State} (h : exec (.countedEdge ch) s = .next t) : MovedAndKept s t := by
  by_cases powered : s.powered = true
  · rw [exec_countedEdge powered] at h
    cases h
    split
    · next forward =>
      refine ⟨s.line.p + 1#32, .inr (.inl rfl), (afterForward_tables _).after ?_⟩
      rw [countEdge_forward forward]
      rfl
    · next reverse =>
      refine ⟨s.line.p - 1#32, .inr (.inr rfl), (afterReverse_tables _).after ?_⟩
      rw [countEdge_reverse reverse]
      rfl
  · rw [exec_off (Bool.eq_false_iff.2 powered) fun _ e => Instr.noConfusion e] at h
    cases h
    exact (TablesKept.refl s).moved

/-- Every command but a counted edge keeps the log and the slot table right where P stands. -/
theorem exec_tables {c : Instr} (noEdge : ∀ ch, c ≠ .countedEdge ch) {s t : State} (h : exec c s = .next t) :
    TablesKept s t := by
  have frame {addr code : Byte} {body : List Byte}
      (g : (.next (takeFrame addr code body s) : Host.Outcome State Fault Refusal) = .next t) : TablesKept s t := by
    cases g
    exact takeFrame_tables addr code body s
  cases c with
  | powerOn smp =>
    cases h
    split
    · exact (switchOn_tables smp (failSupply s)).after rfl
    · exact switchOn_tables smp s
  | countedEdge ch => exact absurd rfl (noEdge ch)
  | invalidTransition =>
    simp only [exec, execInvalidTransition] at h
    refine whenPowered_tables ?_ h
    have paused : TablesKept s (runPause true (speedCleared s)) := .still (runPause_same true (speedCleared s))
    exact (paused.trans (notice_tables 1 s.line.p _)).upTo rfl
  | speedWindowEnd =>
    simp only [exec, execSpeedWindowEnd] at h
    exact whenPowered_tables (.still (runPause_same _ { s with line := endWindow s.line })) h
  | eyeDark e =>
    simp only [exec, execEyeDark] at h
    exact whenPowered_tables (goDark_tables e s) h
  | eyeLight e =>
    simp only [exec, execEyeLight] at h
    exact whenPowered_tables (goLight_tables e s) h
  | eyeAccept e =>
    simp only [exec, execEyeAccept] at h
    refine whenPowered_tables ?_ h
    split
    · exact (acceptEye_tables e (dropDue (.accept e) s)).after rfl
    · exact .refl s
  | eyeBlocked e =>
    simp only [exec, execEyeBlocked] at h
    refine whenPowered_tables ?_ h
    split
    · exact (blockEye_tables e (dropDue (.block e) s)).after rfl
    · exact .refl s
  | loadPress k =>
    simp only [exec, execLoadPress] at h
    refine whenPowered_tables ?_ h
    split
    · exact .refl s
    · exact (press_tables k (s.setButton k true)).after rfl
  | relPulseEnd k =>
    simp only [exec, execRelPulseEnd] at h
    refine whenPowered_tables ?_ h
    split
    · exact .still rfl
    · exact .refl s
  | pulseEnd c =>
    simp only [exec, execPulseEnd] at h
    refine whenPowered_tables ?_ h
    split
    · exact .refl s
    · split
      · exact .still (startHeld_same _ _)
      · exact .still rfl
  | estopActive =>
    simp only [exec, execEstopActive] at h
    refine whenPowered_tables ?_ h
    split
    · exact .refl s
    · exact stopAll_tables s
  | estopInactive =>
    simp only [exec, execEstopInactive] at h
    refine whenPowered_tables ?_ h
    split
    · exact releaseStop_tables s
    · exact .refl s
  | keyChange key =>
    simp only [exec, execKeyChange] at h
    refine whenPowered_tables ?_ h
    split
    · exact .still rfl
    · exact .still rfl
  | lineRunChange active =>
    simp only [exec, execLineRunChange] at h
    exact whenPowered_tables (.still (runPause_same _ { s with inputs := { s.inputs with lineRun := active } })) h
  | grantStep =>
    simp only [exec, execGrantStep] at h
    refine whenPowered_tables ?_ h
    split
    · exact (examine_tables (dropDue .grant s)).after rfl
    · exact .refl s
  | windowExpiry stage =>
    simp only [exec, execWindowExpiry] at h
    refine whenPowered_tables ?_ h
    split
    · next tag _ => exact (expireOrHold_tables stage tag (dropDue (.expiry tag) s)).after rfl
    · exact .refl s
  | foldSlotFire =>
    simp only [exec, execFoldSlotFire] at h
    refine whenPowered_tables ?_ h
    split
    · split
      · exact fireSlot_tables _ s
      · exact .refl s
    · exact .refl s
  | rejectSlotFire =>
    simp only [exec, execRejectSlotFire] at h
    refine whenPowered_tables ?_ h
    split
    · split
      · exact fireReject_tables _ s
      · exact .refl s
    · exact .refl s
  | dropSlotFire =>
    simp only [exec, execDropSlotFire] at h
    refine whenPowered_tables ?_ h
    split
    · split
      · exact fireDrop_tables _ s
      · exact .refl s
    · exact .refl s
  | idleUnbind slot =>
    simp only [exec, execIdleUnbind] at h
    refine whenPowered_tables ?_ h
    split
    · exact (examine_tables _).after (unbindLot_same slot (dropDue (.idle slot) s))
    · exact .refl s
  | storeWriteEnd =>
    simp only [exec, execStoreWriteEnd] at h
    refine whenPowered_tables ?_ h
    split
    · exact .refl s
    · split
      · exact .still rfl
      · exact .still rfl
  | reply =>
    simp only [exec, execReply] at h
    exact whenPowered_tables (.still (sendReply_same s)) h
  | lineQuiet chars =>
    simp only [exec, execLineQuiet] at h
    exact whenPowered_tables ((receiveChars_tables s chars).upTo rfl) h
  | frameDiscarded f =>
    simp only [exec, execFrameDiscarded] at h
    exact whenPowered_tables (receiveChars_tables s f) h
  | unknownRequest addr code body =>
    cases h
    split
    · exact .refl s
    · exact takeFrame_tables addr code body s
  | loadButtonRelease k =>
    simp only [exec, execLoadButtonRelease] at h
    exact whenPowered_tables (.still rfl) h
  | powerFail =>
    simp only [exec, execPowerFail] at h
    exact whenPowered_tables (.still rfl) h
  | parityOrFramingError chars =>
    simp only [exec, execParityOrFramingError] at h
    refine whenPowered_tables ?_ h
    split
    · exact (receiveChars_tables s _).upTo rfl
    · exact .refl s
  | lengthAbove240 addr code len =>
    simp only [exec, execLengthAbove240] at h
    refine whenPowered_tables ?_ h
    split
    · exact receiveChars_tables s _
    · exact .refl s
  | _ => exact frame h

theorem exec_moved {c : Instr} {s t : State} (h : exec c s = .next t) : MovedAndKept s t := by
  by_cases edge : ∃ ch, c = .countedEdge ch
  · obtain ⟨ch, rfl⟩ := edge
    exact countedEdge_moved ch h
  · exact (exec_tables (fun ch e => edge ⟨ch, e⟩) h).moved

theorem step_moved {s t : State} (h : step s = .next t) : MovedAndKept s t := by
  unfold step at h
  split at h
  · cases h
    refine TablesKept.moved ?_
    unfold idleTick
    split
    · exact .still rfl
    · exact .refl s
  · next c rest _ =>
    obtain ⟨p, one, kept⟩ := exec_moved h
    exact ⟨p, one, kept.after rfl⟩

/-- Settles O55: a step moves P by at most one count (`step_moved`), which the log and the size of the slot table do not read and
which keeps near slots in order (`SlotsOrdered.movedBy`); from there on `TablesKept` says the rest. -/
theorem stepKeepsTheLogAndTheSlotTable : Obligations.StepKeepsTheLogAndTheSlotTable := by
  intro s t h
  obtain ⟨p, one, kept⟩ := step_moved h
  exact ⟨fun bounded full numbers => ⟨kept.bounded bounded, kept.waiting bounded full, kept.numbers numbers⟩, kept.slots,
    fun ordered near => kept.ordered (ordered.movedBy near one)⟩

end Sys2Proof.Machine

namespace Sys2Proof.Machine

open Sys2Proof

/-! ### LOT OPEN (R131) -/

section
variable {lo hi size : Byte} {s : State}

/-- The id 0 and a stack size outside 1..50 are refused (R131). -/
theorem lotOpenOwner_badValue (bad : lo = 0 ∧ hi = 0 ∨ size.toNat = 0 ∨ 50 < size.toNat) :
    lotOpenOwner [lo, hi, size] s = (s, .refuse .badValue) := by
  by_cases zero : lo = 0 ∧ hi = 0
  · obtain ⟨rfl, rfl⟩ := zero
    rfl
  · have misfits : within 1 50 size.toNat = false := by
      rw [within, Bool.and_eq_false_iff, decide_eq_false_iff_not, decide_eq_false_iff_not]
      have := bad.resolve_left zero
      omega
    have third : rd8 [lo, hi, size] 2 = size.toNat := rfl
    simp only [lotOpenOwner, third, misfits, Bool.not_false, if_true, ite_self]

variable (named : ¬(lo = 0 ∧ hi = 0)) (least : 1 ≤ size.toNat) (most : size.toNat ≤ 50)
include named least most

/-- With its values in range LOT OPEN looks for the id, and then for a FREE slot (R131). -/
theorem lotOpenOwner_inRange :
    lotOpenOwner [lo, hi, size] s =
      if (s.lotOf? (lo.toNat + 256 * hi.toNat)).isSome then (s, .refuse .inUse)
      else
        (allLotSlots.find? fun i => decide (s.lot.lots[i].state = .free)).elim (s, .refuse .noRoom) fun i =>
          (s.modLot i fun _ => openedLot (lo.toNat + 256 * hi.toNat) size.toNat s.line.p, .reply [b8 (i.val + 1)]) := by
  have third : rd8 [lo, hi, size] 2 = size.toNat := rfl
  have id : within 1 65535 (lo.toNat + 256 * hi.toNat) = true := by
    have := word_ne_zero named
    have := lo.isLt
    have := hi.isLt
    rw [within, Bool.and_eq_true, decide_eq_true_eq, decide_eq_true_eq]
    omega
  have fits : within 1 50 size.toNat = true := by simp [within, least, most]
  simp only [lotOpenOwner, rd16_first, third, id, fits, Bool.not_true, Bool.false_eq_true, if_false]
  split
  · rfl
  · cases allLotSlots.find? fun i => decide (s.lot.lots[i].state = .free) <;> rfl

theorem lotOpenOwner_inUse
    (used : ∃ i : LotSlot, s.lot.lots[i].state ≠ .free ∧ s.lot.lots[i].id = lo.toNat + 256 * hi.toNat) :
    lotOpenOwner [lo, hi, size] s = (s, .refuse .inUse) := by
  obtain ⟨i, held, hid⟩ := used
  have found : (s.lotOf? (lo.toNat + 256 * hi.toNat)).isSome = true := by
    rw [State.lotOf?, List.find?_isSome]
    exact ⟨i, mem_allLotSlots i, by rw [Bool.and_eq_true]; exact ⟨decide_eq_true held, beq_iff_eq.2 hid⟩⟩
  rw [lotOpenOwner_inRange named least most, if_pos found]

variable (unused : ∀ i : LotSlot, s.lot.lots[i].state = .free ∨ s.lot.lots[i].id ≠ lo.toNat + 256 * hi.toNat)
include unused

theorem lotOpenOwner_noRoom (full : ∀ i : LotSlot, s.lot.lots[i].state ≠ .free) :
    lotOpenOwner [lo, hi, size] s = (s, .refuse .noRoom) := by
  have none_ : (allLotSlots.find? fun i => decide (s.lot.lots[i].state = .free)) = none :=
    List.find?_eq_none.2 fun i _ => mt of_decide_eq_true (full i)
  rw [lotOpenOwner_inRange named least most, lotOf?_none unused, none_]
  rfl

/-- An accepted LOT OPEN takes the FREE slot of lowest number (R131). -/
theorem lotOpenOwner_opens {i : LotSlot} (free : s.lot.lots[i].state = .free)
    (lowest : ∀ j : LotSlot, j < i → s.lot.lots[j].state ≠ .free) :
    lotOpenOwner [lo, hi, size] s =
      (s.modLot i fun _ => openedLot (lo.toNat + 256 * hi.toNat) size.toNat s.line.p, .reply [b8 (i.val + 1)]) := by
  have first : (allLotSlots.find? fun i => decide (s.lot.lots[i].state = .free)) = some i := by
    rw [allLotSlots_eq]
    exact find?_finRange (decide_eq_true free) fun j hj => decide_eq_false (lowest j hj)
  rw [lotOpenOwner_inRange named least most, lotOf?_none unused, first]
  rfl

end

/-- Settles O21: the checks of R131 in their order, and the slot found by the search from the front (`find?_finRange`). -/
theorem lotOpenTakesTheLowestFreeSlot : Obligations.LotOpenTakesTheLowestFreeSlot := by
  refine ⟨fun lo hi size s h => ?_, fun addr lo hi size s h => ⟨fun bad => ?_, fun named least most =>
    ⟨fun used => ?_, fun unused => ⟨fun full => ?_, fun i free lowest => ?_⟩⟩⟩⟩
  · exact congrArg _ (takeFrame_hears h 0 0x20 [lo, hi, size] (by simp))
  · exact takeFrame_turnedAway (code := 0x20) (body := [lo, hi, size]) h (by simp) rfl rfl (lotOpenOwner_badValue bad)
  · exact takeFrame_turnedAway (code := 0x20) (body := [lo, hi, size]) h (by simp) rfl rfl
      (lotOpenOwner_inUse named least most used)
  · exact takeFrame_turnedAway (code := 0x20) (body := [lo, hi, size]) h (by simp) rfl rfl
      (lotOpenOwner_noRoom named least most unused full)
  · exact congrArg Host.Outcome.next (takeFrame_reply (code := 0x20) (body := [lo, hi, size]) h (by simp) rfl rfl
      (lotOpenOwner_opens (s := s.received addr 0x20 [lo, hi, size]) named least most unused free lowest))

end Sys2Proof.Machine

namespace Sys2Proof.Machine

open Sys2Proof

/-! ### What holds of an examination because it holds of each of its grants (R46) -/

section
variable {R : State → State → Prop} (still : ∀ (s : State) q v, R s { s with seq := q, stations := v })
  (grants : ∀ k a pr i s, failing s k a = none → s.prog.programs[a.program] = some pr → openLot? s a.lotId = some i →
    R s (grant k a pr i s))
include still grants

theorem checkStation_rel (starving : Bool) (x : Exam) (k : StationIx) : R x.state (checkStation starving x k).state := by
  by_cases loaded : x.state.stations[k].state = .loaded
  · cases snapshot : x.state.stations[k].snapshot with
    | none => rw [checkStation_noSnapshot snapshot]; exact still x.state x.state.seq x.state.stations
    | some a =>
      cases passes : failing x.state k a with
      | some why => rw [checkStation_fails loaded snapshot passes]; exact still _ _ _
      | none =>
        obtain ⟨pr, i, program, lot⟩ := program_and_lot_of_failing_none passes
        by_cases shares : sharesLane (footprintOf pr.width k) x.blocked = true
        · rw [checkStation_starves loaded snapshot passes program _ shares]
          exact still _ _ _
        · rw [checkStation_grants_lot loaded snapshot passes program lot _ shares]
          exact grants _ _ _ _ _ passes program lot
  · rw [checkStation_pass loaded]
    exact still x.state x.state.seq x.state.stations

variable (trans : ∀ {s t u}, R s t → R t u → R s u)
include trans

theorem checkAll_rel (starving : Bool) (l : List StationIx) (x : Exam) :
    R x.state (l.foldl (checkStation starving) x).state := by
  induction l generalizing x with
  | nil => exact still x.state x.state.seq x.state.stations
  | cons k l ih => exact trans (checkStation_rel still grants starving x k) (ih _)

/-- Beyond the Release Sequencer and the stations an examination changes what its grants change. -/
theorem examine_rel (s : State) : R s (examine s) := by
  by_cases h : s.seq.feed = .run
  · rw [examine_in_run h]
    refine trans (trans (t := examStart s) (still s _ s.stations) ?_) (still _ _ (examined s).state.stations)
    unfold examined
    exact trans (checkAll_rel still grants trans true _ ⟨examStart s, 0#4, none⟩) (checkAll_rel still grants trans false _ _)
  · rw [examine_outside_run h]
    exact still _ _ _

end

theorem opened_of_openLot? {s : State} {id : Nat} {i : LotSlot} (h : openLot? s id = some i) :
    s.lot.lots[i].state = .opened ∧ s.lot.lots[i].id = id := by
  have found := List.find?_some h
  rw [Bool.and_eq_true, decide_eq_true_eq, beq_iff_eq] at found
  exact found

theorem mayEvict_of_evictable? {s : State} {j : LotSlot} {b : Bin} (h : evictable? s = some (j, b)) : MayEvict s j b := by
  have best := evictable?_best s
  rw [h] at best
  exact best.2.1

/-! ### What the examination leaves of a CLOSING lot (R51, R133) -/

/-- A lot slot without its stack, which a release clears whatever the state of the lot. -/
def Lot.unstacked (l : Lot) : Lot := { l with stackCount := 0 }

/-- Every lot keeps its state, and a CLOSING one its id, its bin and its counts besides. -/
structure ClosingKept (v w : Vector Lot 8) : Prop where
  states : ∀ i : LotSlot, w[i].state = v[i].state
  closing : ∀ i : LotSlot, v[i].state = .closing → w[i].unstacked = v[i].unstacked

theorem ClosingKept.refl (v : Vector Lot 8) : ClosingKept v v := ⟨fun _ => rfl, fun _ _ => rfl⟩

theorem ClosingKept.trans {v w x : Vector Lot 8} (h : ClosingKept v w) (k : ClosingKept w x) : ClosingKept v x where
  states i := (k.states i).trans (h.states i)
  closing i closing := (k.closing i ((h.states i).trans closing)).trans (h.closing i closing)

/-- A change of one lot that keeps its state, and of a CLOSING one all but the stack. -/
theorem vmod_closingKept {v : Vector Lot 8} {i : LotSlot} {f : Lot → Lot} (state : (f v[i]).state = v[i].state)
    (rest : v[i].state = .closing → (f v[i]).unstacked = v[i].unstacked) : ClosingKept v (vmod v i f) := by
  refine ⟨fun j => ?_, fun j closing => ?_⟩ <;> rw [vmod_get] <;> split
  · next e => exact e ▸ state
  · rfl
  · next e => exact e ▸ rest (e ▸ closing)
  · rfl

/-- A change of an OPEN lot that keeps its state. -/
theorem ClosingKept.openLot {v : Vector Lot 8} {i : LotSlot} {f : Lot → Lot} (opened : v[i].state = .opened)
    (state : (f v[i]).state = v[i].state) : ClosingKept v (vmod v i f) :=
  vmod_closingKept state fun closing => nomatch opened.symm.trans closing

/-- A release asked for changes of a lot the stack at most (R115, R137). -/
theorem releaseAsked_unstacked (b : Bin) (s : State) (i : LotSlot) :
    (s.releaseAsked b).lot.lots[i].unstacked = s.lot.lots[i].unstacked := by
  unfold State.releaseAsked State.releaseStarted
  split
  · rfl
  · split
    · rfl
    · cases s.lot.bins[b] with
      | none => rfl
      | some j =>
        have get := vmod_get s.lot.lots j i fun l => { l with stackCount := 0 }
        refine (congrArg Lot.unstacked get).trans ?_
        split <;> rfl

theorem requestRelease_closingKept (b : Bin) (s : State) : ClosingKept s.lot.lots (requestRelease b s).lot.lots := by
  rw [requestRelease_eq]
  exact ⟨fun i => (congrArg Lot.state (releaseAsked_unstacked b s i) :), fun i _ => releaseAsked_unstacked b s i⟩

/-- After an unbinding the lot is as it was but for its stack and its bin (R138). -/
theorem unbound_self (i : LotSlot) (b : Bin) (s : State) :
    (s.unbound i b).lot.lots[i] = { s.lot.lots[i] with stackCount := 0, bin := none } := by
  unfold State.unbound
  refine (Vector.getElem_set_self _).trans ?_
  split
  · rfl
  · exact congrArg (fun l : Lot => { l with bin := none }) (releaseAsked_unstacked b s i)

theorem unbindLot_closingKept {i : LotSlot} {s : State} (opened : s.lot.lots[i].state = .opened) :
    ClosingKept s.lot.lots (unbindLot i s).lot.lots := by
  unfold unbindLot
  split
  · exact .refl _
  · next b hb =>
    dsimp only
    split
    · have asked := requestRelease_closingKept b s
      exact asked.trans (.openLot (f := fun l => { l with stackCount := 0, bin := none }) ((asked.states i).trans opened) rfl)
    · exact .openLot (f := fun l => { l with stackCount := 0, bin := none }) opened rfl

/-- A binding takes the bin of an OPEN lot if it takes one (R133). -/
theorem bindLot_closingKept {i : LotSlot} {s : State} (opened : s.lot.lots[i].state = .opened) :
    ClosingKept s.lot.lots (bindLot i s).lot.lots := by
  unfold bindLot
  split
  · exact .openLot (f := fun l => { l with bin := some _ }) opened rfl
  · split
    · next evicts =>
      have unbinds := unbindLot_closingKept (mayEvict_of_evictable? evicts).2.1
      exact unbinds.trans (.openLot (f := fun l => { l with bin := some _ }) ((unbinds.states i).trans opened) rfl)
    · exact .refl _

theorem foldl_keeps {α β : Type} {π : State → β} {f : State → α → State} (hf : ∀ s a, π (f s a) = π s) (l : List α)
    (s : State) : π (l.foldl f s) = π s := by
  induction l generalizing s with
  | nil => rfl
  | cons a l ih => exact (ih (f s a)).trans (hf s a)

/-- A lot that a grant at position p takes a piece from (R56). -/
def grantedLot (p : Pos) (l : Lot) : Lot :=
  { l with released := satCount l.released, inFlight := satCount l.inFlight, lastUse := p }

/-- A grant counts its piece for an OPEN lot (R51). -/
theorem grant_closingKept (k : StationIx) (a : Assignment) (pr : ProgramRec) {i : LotSlot} {s : State}
    (opened : s.lot.lots[i].state = .opened) : ClosingKept s.lot.lots (grant k a pr i s).lot.lots := by
  have bound : ClosingKept s.lot.lots (if s.lot.lots[i].bin.isNone then bindLot i s else s).lot.lots := by
    split
    · exact bindLot_closingKept opened
    · exact .refl _
  have openStill := (bound.states i).trans opened
  unfold grant
  dsimp only
  rw [foldl_keeps (π := fun t => t.lot) fun t j => by split <;> rfl]
  exact bound.trans (.openLot (f := grantedLot _) openStill rfl)

theorem examine_closingKept (s : State) : ClosingKept s.lot.lots (examine s).lot.lots :=
  examine_rel (R := fun s t => ClosingKept s.lot.lots t.lot.lots) (fun _ _ _ => .refl _)
    (fun k a pr _ _ _ _ lot => grant_closingKept k a pr (opened_of_openLot? lot).1) .trans s

/-! ### The end of a close at LOT CLOSE (R139, R140) -/

/-- The close of slot i has begun (R139). -/
def State.closeBegun (s : State) (i : LotSlot) : State := s.modLot i fun l => { l with state := .closing }

/-- The slot is unbound, if it was bound, and the stations are examined for it (R133, R140). -/
def State.closeUnbound (s : State) (i : LotSlot) : State :=
  s.lot.lots[i].bin.elim (s.closeBegun i) fun b => examine ((s.closeBegun i).unbound i b)

theorem closeBegun_lot (s : State) (i : LotSlot) :
    (s.closeBegun i).lot.lots[i] = { s.lot.lots[i] with state := .closing } :=
  vmod_get_same ..

theorem closeLot_inFlight {i : LotSlot} {s : State} (h : 0 < s.lot.lots[i].inFlight) : closeLot i s = s.closeBegun i := by
  have counts : (s.closeBegun i).lot.lots[i].inFlight ≠ 0 := by rw [closeBegun_lot]; exact Nat.ne_of_gt h
  exact if_neg counts

theorem closeLot_ends {i : LotSlot} {s : State} (h : s.lot.lots[i].inFlight = 0) :
    closeLot i s = (s.closeUnbound i).summaryAsked i := by
  have counts : (s.closeBegun i).lot.lots[i].inFlight = 0 := by rw [closeBegun_lot]; exact h
  have bin : (s.closeBegun i).lot.lots[i].bin = s.lot.lots[i].bin := by rw [closeBegun_lot]
  have ends : closeLot i s = endClose i id (s.closeBegun i) := if_pos counts
  rw [ends, endClose, requestSummary_eq, State.closeUnbound]
  cases hb : s.lot.lots[i].bin with
  | none => rw [bin, hb]; rfl
  | some b => rw [unbindLot_eq i b _ (bin.trans hb), bin, hb]; rfl

/-- With its close under way and nothing in flight the slot awaits its summary, whatever the examination grants (R140). -/
theorem closeUnbound_lot {i : LotSlot} {s : State} (h : s.lot.lots[i].inFlight = 0) :
    (s.closeUnbound i).lot.lots[i].state = .closing ∧ (s.closeUnbound i).lot.lots[i].inFlight = 0 := by
  unfold State.closeUnbound
  cases s.lot.lots[i].bin with
  | none => exact (closeBegun_lot s i).symm ▸ ⟨rfl, h⟩
  | some b =>
    have lot : ((s.closeBegun i).unbound i b).lot.lots[i] =
        { s.lot.lots[i] with state := .closing, stackCount := 0, bin := none } := by
      rw [unbound_self, closeBegun_lot]
    have kept := examine_closingKept ((s.closeBegun i).unbound i b)
    have closing : ((s.closeBegun i).unbound i b).lot.lots[i].state = .closing := by rw [lot]
    exact ⟨(kept.states i).trans closing, (congrArg Lot.inFlight (kept.closing i closing)).trans (by rw [lot]; exact h)⟩

theorem closeUnbound_free {i : LotSlot} {s : State} (h : s.lot.lots[i].bin = none) : s.closeUnbound i = s.closeBegun i := by
  rw [State.closeUnbound, h, Option.elim_none]

theorem closeUnbound_bound {i : LotSlot} {b : Bin} {s : State} (h : s.lot.lots[i].bin = some b) :
    s.closeUnbound i = examine ((s.closeBegun i).unbound i b) := by
  rw [State.closeUnbound, h, Option.elim_some]

theorem closeUnbound_log (i : LotSlot) (s : State) : (s.closeUnbound i).log = s.log := by
  unfold State.closeUnbound
  cases s.lot.lots[i].bin with
  | none => rfl
  | some b => exact (examine_log _).trans (by rw [unbound_frame]; rfl)

section
variable {lo hi : Byte} {s : State}

theorem lotCloseOwner_unknown
    (none : ∀ i : LotSlot, s.lot.lots[i].state = .free ∨ s.lot.lots[i].id ≠ lo.toNat + 256 * hi.toNat) :
    lotCloseOwner [lo, hi] s = (s, .refuse .badIndex) := by
  simp only [lotCloseOwner, rd16_first, lotOf?_none none]

variable {i : LotSlot} (found : s.lotOf? (lo.toNat + 256 * hi.toNat) = some i)
include found

theorem lotCloseOwner_closing (closing : s.lot.lots[i].state = .closing) :
    lotCloseOwner [lo, hi] s = (s, .reply (2 :: le16 s.lot.lots[i].inFlight)) := by
  simp only [lotCloseOwner, rd16_first, found, closing, reduceCtorEq, if_false]
  rfl

variable (opened : s.lot.lots[i].state = .opened)
include opened

theorem lotCloseOwner_opened :
    lotCloseOwner [lo, hi] s =
      (closeLot i s,
        .reply (lotCode (closeLot i s).lot.lots[i].state :: le16 (closeLot i s).lot.lots[i].inFlight)) := by
  simp only [lotCloseOwner, rd16_first, found, if_pos opened]

theorem lotCloseOwner_inFlight (h : 0 < s.lot.lots[i].inFlight) :
    lotCloseOwner [lo, hi] s = (s.closeBegun i, .reply (2 :: le16 s.lot.lots[i].inFlight)) := by
  rw [lotCloseOwner_opened found opened, closeLot_inFlight h, closeBegun_lot]
  rfl

variable (empty : s.lot.lots[i].inFlight = 0)
include empty

/-- The summary is written and its slot freed (R140). -/
theorem lotCloseOwner_written (ready : s.log.entries.length < 32 ∧ s.log.order = []) :
    lotCloseOwner [lo, hi] s = ((s.closeUnbound i).summaryAsked i, .reply [0, 0, 0]) := by
  have freed : ((s.closeUnbound i).summaryAsked i).lot.lots[i] = Lot.free := by
    rw [State.summaryAsked, if_pos (by rw [closeUnbound_log]; exact ready)]
    exact Vector.getElem_set_self _
  rw [lotCloseOwner_opened found opened, closeLot_ends empty, freed]
  rfl

/-- The summary waits at the back of the order (R140, R159). -/
theorem lotCloseOwner_waits (full : ¬(s.log.entries.length < 32 ∧ s.log.order = [])) :
    lotCloseOwner [lo, hi] s = ((s.closeUnbound i).summaryAsked i, .reply [2, 0, 0]) := by
  obtain ⟨closing, none⟩ := closeUnbound_lot empty
  have waits : ((s.closeUnbound i).summaryAsked i).lot.lots[i] =
      { (s.closeUnbound i).lot.lots[i] with summaryPending := true } := by
    rw [State.summaryAsked, if_neg (by rw [closeUnbound_log]; exact full)]
    exact Vector.getElem_set_self _
  rw [lotCloseOwner_opened found opened, closeLot_ends empty, waits, closing, none]
  rfl

end

/-- Settles O22: the end of a close unbinds, examines and asks for the summary (`closeLot_ends`), and no examination changes the
state and the count of a CLOSING lot (`examine_closingKept`), which the reply then gives. -/
theorem lotCloseEndsWithTheLastPiece : Obligations.LotCloseEndsWithTheLastPiece := by
  refine fun addr lo hi s h distinct => ⟨fun none => ?_, fun i hid =>
    ⟨fun closing => ?_, fun opened flying => ?_, fun opened empty => ⟨fun room nothing => ?_, fun full => ?_⟩⟩⟩
  · exact takeFrame_turnedAway (code := 0x21) (body := [lo, hi]) h (by simp) rfl rfl (lotCloseOwner_unknown none)
  all_goals
    have found (used : s.lot.lots[i].state ≠ .free) :
        (s.received addr 0x21 [lo, hi]).lotOf? (lo.toNat + 256 * hi.toNat) = some i :=
      lotOf?_distinct (s := s.received addr 0x21 [lo, hi]) distinct used hid
  · exact takeFrame_told (code := 0x21) (body := [lo, hi]) h (by simp) rfl rfl
      (lotCloseOwner_closing (found (by rw [closing]; decide)) closing)
  all_goals
    have held := found (by rw [opened]; decide)
    have answers {t : State} {reply : List Byte}
        (owner : lotCloseOwner [lo, hi] (s.received addr 0x21 [lo, hi]) = (t, .reply reply)) :
        exec (.lotClose addr [lo, hi]) s = .next (t.answered addr 0x21 reply) :=
      congrArg Host.Outcome.next (takeFrame_reply (code := 0x21) (body := [lo, hi]) h (by simp) rfl rfl owner)
  · exact answers (lotCloseOwner_inFlight held opened flying)
  · refine (answers (lotCloseOwner_written held opened empty ⟨room, nothing⟩)).trans ?_
    rw [State.summaryAsked, if_pos (by rw [closeUnbound_log]; exact ⟨room, nothing⟩)]
    cases hb : s.lot.lots[i].bin with
    | none => rw [closeUnbound_free (s := s.received addr 0x21 [lo, hi]) hb]; rfl
    | some b => rw [closeUnbound_bound (s := s.received addr 0x21 [lo, hi]) hb]; rfl
  · refine (answers (lotCloseOwner_waits held opened empty full)).trans ?_
    rw [State.summaryAsked, if_neg (by rw [closeUnbound_log]; exact full)]
    cases hb : s.lot.lots[i].bin with
    | none => rw [closeUnbound_free (s := s.received addr 0x21 [lo, hi]) hb]; rfl
    | some b => rw [closeUnbound_bound (s := s.received addr 0x21 [lo, hi]) hb]; rfl

end Sys2Proof.Machine

namespace Sys2Proof.Machine

open Sys2Proof

/-! ### The ledger: what the accounts read of a state (R128 to R130, R148, R159) -/

/-- What the accounts read of a record: whether it has a completion, and whether it waits in the order of pending writes. -/
structure Standing where
  tag : Nat
  lot : Option LotRef
  program : Option ProgramIx
  done : Bool
  waits : Bool

def Piece.standing (r : Piece) : Standing where
  tag := r.tag
  lot := r.lot
  program := r.program
  done := r.completion.isSome
  waits := decide (r.state = .donePending)

/-- The record counts in lot slot i. -/
def Standing.inLot (i : LotSlot) (e : Standing) : Bool := e.lot.any fun l => decide (l.slot = i)

def Standing.ofProgram (ix : ProgramIx) (e : Standing) : Bool := decide (e.program = some ix)

structure Ledger where
  records : List Standing
  counter : Nat
  lots : Vector Lot 8
  bins : Vector (Option LotSlot) 6
  programs : Vector Nat 32
  usable : Nat
  order : List PendingWrite

def State.ledger (s : State) : Ledger where
  records := s.track.pool.map Piece.standing
  counter := s.track.tagCounter
  lots := s.lot.lots
  bins := s.lot.bins
  programs := s.prog.inFlight
  usable := s.prog.settings.binsEnabled
  order := s.log.order

/-! ### The accounts as an invariant of every operation

An operation finds the accounts right but for one lot at most, whose close has just lost its last piece and whose summary is
about to be asked for: the lot in hand. -/

/-- Released equals the sum of the completions and in_flight, in a lot that is not FREE, until a count saturates (R129). -/
def Conserves (l : Lot) : Prop :=
  l.state ≠ .free → unsaturated l = true →
    l.released = l.stacked + l.returned + l.rejected + l.lost + l.purged + l.inFlight

/-- The slot i of the ledger may hold the lot x: what the accounts say of one lot, with its records, its bin and its place in
the order of pending writes (R129, R130, R132, R140, R159). -/
structure LotRight (l : Ledger) (hand : Option LotSlot) (i : LotSlot) (x : Lot) : Prop where
  conserved : Conserves x
  inFlight : x.inFlight = l.records.countP (Standing.inLot i)
  named : ∀ r : LotRef, r ∈ l.records.filterMap (·.lot) → r.slot = i → x.state ≠ .free ∧ x.id = r.id
  bound : 0 < x.inFlight → x.bin.isSome
  agree : ∀ b : Bin, x.bin = some b ↔ l.bins[b] = some i
  free : x.state = .free → x = Lot.free
  usable : ∀ b : Bin, x.bin = some b → b.val < l.usable
  closed : x.state = .closing → x.inFlight = 0 → .lot i ∈ l.order ∨ hand = some i
  waiting : .lot i ∈ l.order → awaitsSummary x
  summary : x.summaryPending = true → .lot i ∈ l.order ∨ hand = some i
  inHand : hand = some i → x.state = .closing ∧ x.inFlight = 0 ∧ .lot i ∉ l.order

/-- Each lot id stands once (R128). -/
def DistinctIds (lots : Vector Lot 8) : Prop :=
  ∀ i j : LotSlot, lots[i].state ≠ .free → lots[j].state ≠ .free → lots[i].id = lots[j].id → i = j

/-- The books of a ledger are right, with a lot in hand or none: besides each lot, the records with a tag each and a completion
if they wait (R58, R59, R65), the counts of the programs (R148), the lot ids (R128), and the records in the order (R159). -/
structure Books (hand : Option LotSlot) (l : Ledger) : Prop where
  size : l.records.length ≤ 64
  tags : (l.records.map (·.tag)).Nodup
  counter : 1 ≤ l.counter ∧ l.counter ≤ 65535
  done : ∀ e ∈ l.records, e.waits = true → e.done = true
  programs : ∀ ix : ProgramIx, l.programs[ix] = l.records.countP (Standing.ofProgram ix)
  lots : ∀ i : LotSlot, LotRight l hand i l.lots[i]
  distinct : DistinctIds l.lots
  pieces : ∀ tag : Nat, .piece tag ∈ l.order ↔ ∃ e ∈ l.records, e.tag = tag ∧ e.waits = true
  orderNodup : l.order.Nodup

theorem countP_standing (p : Standing → Bool) (s : State) :
    s.ledger.records.countP p = (s.track.pool.filter fun r => p r.standing).length := by
  show (s.track.pool.map Piece.standing).countP p = _
  rw [List.countP_map, List.countP_eq_length_filter]
  rfl

/-- The records of the ledger that wait are the DONE_PENDING ones. -/
theorem exists_waits_iff (s : State) (tag : Nat) :
    (∃ e ∈ s.ledger.records, e.tag = tag ∧ e.waits = true) ↔ ∃ r ∈ s.track.pool, r.tag = tag ∧ r.state = .donePending := by
  show (∃ e ∈ s.track.pool.map Piece.standing, _) ↔ _
  simp only [List.mem_map, exists_exists_and_eq_and, Piece.standing, decide_eq_true_eq]

theorem mem_lotsNamed (s : State) (x : LotRef) :
    x ∈ s.ledger.records.filterMap (·.lot) ↔ ∃ r ∈ s.track.pool, r.lot = some x := by
  show x ∈ (s.track.pool.map Piece.standing).filterMap (·.lot) ↔ _
  rw [List.filterMap_map, List.mem_filterMap]
  rfl

/-- In the states that O59 speaks of the books are right. -/
theorem books_of_right {s : State} (pool : PoolRight s.track) (zones : ZonesRight s.track) (a : AccountsRight s) :
    Books none s.ledger where
  size := by
    show (s.track.pool.map Piece.standing).length ≤ 64
    rw [List.length_map]
    exact pool.size
  tags := by
    show ((s.track.pool.map Piece.standing).map (·.tag)).Nodup
    rw [List.map_map]
    exact pool.nodup
  counter := pool.counter
  done e he waits := by
    obtain ⟨r, hr, rfl⟩ := List.mem_map.1 he
    exact (zones.done r hr).2 (of_decide_eq_true waits)
  programs ix := (a.programs ix).trans (countP_standing (Standing.ofProgram ix) s).symm
  lots i := {
    conserved := a.conserved i
    inFlight := (a.inFlight i).trans (countP_standing (Standing.inLot i) s).symm
    named := fun x hx hi => by
      subst hi
      obtain ⟨r, hr, hx⟩ := (mem_lotsNamed s x).1 hx
      exact a.ids r hr x hx
    bound := a.bound i
    agree := a.agree i
    free := a.free i
    usable := a.usable i
    closed := fun closing empty => .inl (a.closed i closing empty)
    waiting := a.waiting i
    summary := fun pending => .inl (a.summary i pending)
    inHand := nofun }
  distinct := a.distinct
  pieces tag := (a.pieces tag).trans (exists_waits_iff s tag).symm
  orderNodup := a.orderNodup

theorem Books.accountsRight {s : State} (h : Books none s.ledger) : AccountsRight s where
  conserved i := (h.lots i).conserved
  inFlight i := (h.lots i).inFlight.trans (countP_standing _ s)
  programs ix := (h.programs ix).trans (countP_standing _ s)
  ids r hr x hx := (h.lots x.slot).named x ((mem_lotsNamed s x).2 ⟨r, hr, hx⟩) rfl
  bound i := (h.lots i).bound
  agree i := (h.lots i).agree
  free i := (h.lots i).free
  usable i := (h.lots i).usable
  distinct := h.distinct
  closed i closing empty := ((h.lots i).closed closing empty).resolve_right nofun
  waiting i := (h.lots i).waiting
  pieces tag := (h.pieces tag).trans (exists_waits_iff s tag)
  summary i pending := ((h.lots i).summary pending).resolve_right nofun
  orderNodup := h.orderNodup

end Sys2Proof.Machine

namespace Sys2Proof.Machine

open Sys2Proof

/-! ### One lot changed -/

/-- What holds of the changed element and of each other one holds of all of them. -/
theorem forall_vmod {α : Type} {n : Nat} {P : Fin n → α → Prop} {v : Vector α n} {i : Fin n} {f : α → α}
    (own : P i (f v[i])) (others : ∀ j, i ≠ j → P j v[j]) (j : Fin n) : P j (vmod v i f)[j] := by
  rw [vmod_get]
  split
  · next e => exact e ▸ own
  · next e => exact others j e

/-- A change of one lot that gives it no id keeps the ids apart (R128). -/
theorem DistinctIds.vmod {v : Vector Lot 8} (h : DistinctIds v) {i : LotSlot} {f : Lot → Lot}
    (own : (f v[i]).state ≠ .free → v[i].state ≠ .free ∧ v[i].id = (f v[i]).id) : DistinctIds (Machine.vmod v i f) := by
  have old : ∀ j : LotSlot, (Machine.vmod v i f)[j].state ≠ .free → v[j].state ≠ .free ∧ v[j].id = (Machine.vmod v i f)[j].id :=
    forall_vmod (P := fun (j : LotSlot) (x : Lot) => x.state ≠ .free → v[j].state ≠ .free ∧ v[j].id = x.id) own
      fun j _ used => ⟨used, rfl⟩
  intro j k hj hk same
  obtain ⟨usedJ, idJ⟩ := old j hj
  obtain ⟨usedK, idK⟩ := old k hk
  exact h j k usedJ usedK (idJ.trans (same.trans idK.symm))

section
variable {hand : Option LotSlot} {l : Ledger}

/-- Changes of the ledger that concern another slot. -/
theorem LotRight.elsewhere {l' : Ledger} {hand' : Option LotSlot} {i : LotSlot} {x : Lot} (h : LotRight l hand i x)
    (counts : l'.records.countP (Standing.inLot i) = l.records.countP (Standing.inLot i) := by rfl)
    (named : ∀ r : LotRef, r ∈ l'.records.filterMap (·.lot) → r.slot = i → r ∈ l.records.filterMap (·.lot) := by
      exact fun _ h _ => h)
    (bins : ∀ b : Bin, l'.bins[b] = some i ↔ l.bins[b] = some i := by exact fun _ => Iff.rfl)
    (usable : l'.usable = l.usable := by rfl)
    (order : .lot i ∈ l'.order ↔ .lot i ∈ l.order := by exact Iff.rfl)
    (held : hand' = some i ↔ hand = some i := by exact Iff.rfl) : LotRight l' hand' i x where
  conserved := h.conserved
  inFlight := h.inFlight.trans counts.symm
  named r hr hi := h.named r (named r hr hi) hi
  bound := h.bound
  agree b := (h.agree b).trans (bins b).symm
  free := h.free
  usable := usable ▸ h.usable
  closed := by rw [order, held]; exact h.closed
  waiting := by rw [order]; exact h.waiting
  summary := by rw [order, held]; exact h.summary
  inHand := by rw [order, held]; exact h.inHand

/-! ### Bindings, releases and uses of a lot (R115, R130, R132, R133, R137, R138) -/

/-- The stack and the last use of a lot that is not FREE are no matter of the books. -/
theorem Books.used (h : Books hand l) {i : LotSlot} (used : l.lots[i].state ≠ .free) (stack : Lot → Nat) (last : Lot → Pos) :
    Books hand { l with lots := vmod l.lots i fun x => { x with stackCount := stack x, lastUse := last x } } :=
  have own := h.lots i
  { h with
    lots := forall_vmod { own with free := fun free => absurd free used } fun j _ => (h.lots j).elsewhere
    distinct := h.distinct.vmod fun used => ⟨used, rfl⟩ }

/-- A bound lot is not FREE (R128). -/
theorem LotRight.used_of_bin {i : LotSlot} {x : Lot} (h : LotRight l hand i x) {b : Bin} (hb : x.bin = some b) :
    x.state ≠ .free := fun free => by
  rw [h.free free] at hb
  cases hb

/-- A lot without a piece in flight gives up its bin (R138). -/
theorem Books.unbound (h : Books hand l) {i : LotSlot} {b : Bin} (hb : l.lots[i].bin = some b)
    (empty : l.lots[i].inFlight = 0) :
    Books hand
      { l with lots := vmod l.lots i fun x => { x with stackCount := 0, bin := none }, bins := l.bins.set b none } := by
  have own := h.lots i
  have first := (own.agree b).1 hb
  refine { h with lots := forall_vmod ?_ fun j hj => (h.lots j).elsewhere (bins := fun c => ?_)
                  distinct := h.distinct.vmod fun used => ⟨used, rfl⟩ }
  · refine { own with
      bound := fun flying => absurd empty (Nat.ne_of_gt flying)
      agree := fun c => iff_of_false nofun fun hc => ?_
      free := fun free => absurd free (own.used_of_bin hb)
      usable := nofun
      waiting := fun waits => absurd (hb.symm.trans (own.waiting waits).2.1) nofun }
    rw [set_get] at hc
    split at hc
    · cases hc
    · next other =>
      rw [(own.agree c).2 hc, Option.some_inj] at hb
      exact other hb.symm
  · rw [set_get]
    split
    · next e => exact iff_of_false nofun fun hj' => hj (Option.some.inj ((e ▸ first).symm.trans hj'))
    · rfl

/-- An OPEN unbound lot takes a free usable bin (R132). -/
theorem Books.bound (h : Books hand l) {i : LotSlot} {b : Bin} (opened : l.lots[i].state = .opened)
    (unbound : l.lots[i].bin = none) (free : l.bins[b] = none) (usable : b.val < l.usable) :
    Books hand { l with lots := vmod l.lots i fun x => { x with bin := some b }, bins := l.bins.set b (some i) } := by
  have own := h.lots i
  refine { h with lots := forall_vmod ?_ fun j hj => (h.lots j).elsewhere (bins := fun c => ?_)
                  distinct := h.distinct.vmod fun used => ⟨used, rfl⟩ }
  · refine { own with
      bound := fun _ => rfl
      agree := fun c => ?_
      free := fun g => absurd (opened.symm.trans g) nofun
      usable := fun c hc => Option.some.inj hc ▸ usable
      waiting := fun waits => absurd (opened.symm.trans (own.waiting waits).1) nofun }
    rw [set_get, Option.some_inj]
    split
    · next e => exact iff_of_true e rfl
    · next e => exact iff_of_false e fun hc => absurd (unbound.symm.trans ((own.agree c).2 hc)) nofun
  · rw [set_get]
    split
    · next e => exact iff_of_false (fun g => hj (Option.some.inj g)) (by rw [← e, free]; nofun)
    · rfl

end

end Sys2Proof.Machine

namespace Sys2Proof.Machine

open Sys2Proof

/-! ### Records taken into use (R56, R59, R64, R129) -/

/-- A lot conserves its pieces through a grant: released and in_flight rise together, until one saturates (R56, R129). -/
theorem Conserves.granted {l : Lot} (h : Conserves l) (p : Pos) : Conserves (grantedLot p l) := by
  intro used unsaturated
  have conserved := h used
  simp only [Machine.unsaturated, grantedLot, satCount, List.all_cons, List.all_nil, Bool.and_eq_true, decide_eq_true_eq]
    at conserved unsaturated ⊢
  split at unsaturated <;> split at unsaturated <;> grind

section
variable {hand : Option LotSlot} {l : Ledger} (h : Books hand l)
include h

theorem Books.inFlight_le (i : LotSlot) : l.lots[i].inFlight ≤ 64 := by
  rw [(h.lots i).inFlight]
  exact List.countP_le_length.trans h.size

theorem Books.tags_taken {e : Standing} (fresh : ∀ q ∈ l.records, q.tag ≠ e.tag) :
    ((l.records ++ [e]).map (·.tag)).Nodup := by
  rw [List.map_append, List.map_singleton, List.nodup_append]
  refine ⟨h.tags, List.nodup_singleton _, fun a ha b hb => ?_⟩
  obtain ⟨q, hq, rfl⟩ := List.mem_map.1 ha
  rw [List.mem_singleton.1 hb]
  exact fresh q hq

variable {e : Standing} (going : e.waits = false)
include going

theorem Books.done_taken : ∀ q ∈ l.records ++ [e], q.waits = true → q.done = true := fun q hq waits => by
  rcases List.mem_append.1 hq with hq | hq
  · exact h.done q hq waits
  · rw [List.mem_singleton.1 hq, going] at waits
    cases waits

theorem Books.pieces_taken (tag : Nat) :
    .piece tag ∈ l.order ↔ ∃ q ∈ l.records ++ [e], q.tag = tag ∧ q.waits = true := by
  simp [h.pieces, or_and_right, exists_or, going]

variable (room : l.records.length < 64) (fresh : ∀ q ∈ l.records, q.tag ≠ e.tag)
  {counter : Nat} (range : 1 ≤ counter ∧ counter ≤ 65535)
include room fresh range

/-- A stray counts for no lot and no program (R64). -/
theorem Books.strayTaken (lot : e.lot = none) (program : e.program = none) :
    Books hand { l with records := l.records ++ [e], counter := counter } where
  size := by simpa using room
  tags := h.tags_taken fresh
  counter := range
  done := h.done_taken going
  programs ix := by simpa [List.countP_append, Standing.ofProgram, program] using h.programs ix
  lots i := (h.lots i).elsewhere (counts := by simp [List.countP_append, Standing.inLot, lot])
    (named := fun r hr _ => by simpa [lot] using hr)
  distinct := h.distinct
  pieces := h.pieces_taken going
  orderNodup := h.orderNodup

/-- A grant takes a record for a bound OPEN lot and counts it for the lot and the program (R56). -/
theorem Books.granted {i : LotSlot} {id : Nat} {ix : ProgramIx} (lot : e.lot = some { slot := i, id := id })
    (program : e.program = some ix) (opened : l.lots[i].state = .opened) (hid : l.lots[i].id = id)
    (bound : l.lots[i].bin.isSome) (p : Pos) :
    Books hand
      { l with
        records := l.records ++ [e], counter := counter
        lots := vmod l.lots i (grantedLot p), programs := vmod l.programs ix (· + 1) } := by
  have own := h.lots i
  have names (r : LotRef) (hr : r ∈ (l.records ++ [e]).filterMap (·.lot)) :
      r ∈ l.records.filterMap (·.lot) ∨ r = { slot := i, id := id } := by
    rw [List.filterMap_append, List.mem_append] at hr
    exact hr.imp_right fun new => by simpa [lot, eq_comm] using new
  refine {
    size := by simpa using room
    tags := h.tags_taken fresh
    counter := range
    done := h.done_taken going
    programs := fun jx => ?_
    lots := forall_vmod ?_ fun j hj => (h.lots j).elsewhere (counts := ?_) (named := fun r hr hi => ?_)
    distinct := h.distinct.vmod fun used => ⟨used, rfl⟩
    pieces := h.pieces_taken going
    orderNodup := h.orderNodup }
  · rw [List.countP_append, List.countP_singleton, ← h.programs jx, vmod_get]
    simp only [Standing.ofProgram, program, Option.some_inj, decide_eq_true_eq]
    split <;> rfl
  · have least : satCount l.lots[i].inFlight = l.lots[i].inFlight + 1 :=
      if_pos (Nat.lt_of_le_of_lt (h.inFlight_le i) (by omega))
    have notClosing : l.lots[i].state ≠ .closing := by rw [opened]; nofun
    exact {
      conserved := own.conserved.granted p
      inFlight := by
        rw [List.countP_append, ← own.inFlight, List.countP_singleton]
        exact least.trans (by simp [Standing.inLot, lot])
      named := fun r hr hi => by
        rcases names r hr with old | rfl
        · exact own.named r old hi
        · exact ⟨fun free => absurd (opened.symm.trans free) nofun, hid⟩
      bound := fun _ => bound
      agree := own.agree
      free := fun free => absurd (opened.symm.trans free) nofun
      usable := own.usable
      closed := fun closing => absurd closing notClosing
      waiting := fun waits => absurd (own.waiting waits).1 notClosing
      summary := own.summary
      inHand := fun held => absurd (own.inHand held).1 notClosing }
  · simp [List.countP_append, Standing.inLot, lot, hj]
  · refine (names r hr).resolve_right ?_
    rintro rfl
    exact hj hi

end

/-! ### Records completed and written (R70, R129, R159) -/

/-- The record of a tag has its completion and waits (R159). -/
def Standing.completedAt (tag : Nat) (e : Standing) : Standing :=
  if e.tag = tag then { e with done := true, waits := true } else e

section
variable {hand : Option LotSlot} {l : Ledger}

/-- The entry of a completed record goes to the back of the order (R70, R159). -/
theorem Books.completionWaits (h : Books hand l) {e : Standing} (he : e ∈ l.records) (going : .piece e.tag ∉ l.order) :
    Books hand { l with records := l.records.map (Standing.completedAt e.tag), order := l.order ++ [.piece e.tag] } := by
  have tag (q : Standing) : (q.completedAt e.tag).tag = q.tag := by unfold Standing.completedAt; split <;> rfl
  have lot (q : Standing) : (q.completedAt e.tag).lot = q.lot := by unfold Standing.completedAt; split <;> rfl
  have program (q : Standing) : (q.completedAt e.tag).program = q.program := by
    unfold Standing.completedAt; split <;> rfl
  refine { h with
    size := by simpa using h.size
    tags := ?_
    done := fun q hq => ?_
    programs := fun ix => ?_
    lots := fun i => (h.lots i).elsewhere (counts := ?_) (named := fun r hr _ => ?_) (order := by simp)
    pieces := fun g => ?_
    orderNodup := ?_ }
  · have same : (fun q : Standing => q.tag) ∘ Standing.completedAt e.tag = (·.tag) := funext tag
    rw [List.map_map, same]
    exact h.tags
  · obtain ⟨o, ho, rfl⟩ := List.mem_map.1 hq
    unfold Standing.completedAt
    split
    · exact fun _ => rfl
    · exact h.done o ho
  · have same : Standing.ofProgram ix ∘ Standing.completedAt e.tag = Standing.ofProgram ix :=
      funext fun q => by rw [Function.comp, Standing.ofProgram, program]; rfl
    rw [List.countP_map, same]
    exact h.programs ix
  · have same : Standing.inLot i ∘ Standing.completedAt e.tag = Standing.inLot i :=
      funext fun q => by rw [Function.comp, Standing.inLot, lot]; rfl
    rw [List.countP_map, same]
  · have same : (fun q : Standing => q.lot) ∘ Standing.completedAt e.tag = (·.lot) := funext lot
    rwa [List.filterMap_map, same] at hr
  · have waits : (∃ q ∈ l.records, q.tag = g ∧ q.waits = true) ∨ g = e.tag ↔
        ∃ q ∈ l.records, (q.completedAt e.tag).tag = g ∧ (q.completedAt e.tag).waits = true := by
      refine ⟨?_, ?_⟩
      · rintro (⟨q, hq, rfl, waits⟩ | rfl)
        · refine ⟨q, hq, tag q, ?_⟩
          unfold Standing.completedAt
          split
          · rfl
          · exact waits
        · exact ⟨e, he, tag e, by rw [Standing.completedAt, if_pos rfl]⟩
      · rintro ⟨q, hq, rfl, waits⟩
        rw [tag]
        by_cases own : q.tag = e.tag
        · exact .inr own
        · rw [Standing.completedAt, if_neg own] at waits
          exact .inl ⟨q, hq, rfl, waits⟩
    simpa [h.pieces] using waits
  · refine List.nodup_append.2 ⟨h.orderNodup, List.nodup_singleton _, fun a ha b hb => ?_⟩
    rintro rfl
    exact going (List.mem_singleton.1 hb ▸ ha)

end

/-- The entry of record e is written with completion k: the record is in use no longer, and its lot and its program count it so
(R70, R129, R148). -/
def Ledger.written (l : Ledger) (e : Standing) (k : CompletionKind) : Ledger :=
  { l with
    records := l.records.filter fun q => q.tag ≠ e.tag
    lots := e.lot.elim l.lots fun x => vmod l.lots x.slot (counted k)
    programs := e.program.elim l.programs fun ix => vmod l.programs ix (· - 1) }

/-- The lot of e, if its close has just lost its last piece (R140). -/
def Ledger.lastOf (l : Ledger) (e : Standing) : Option LotSlot :=
  (e.lot.map (·.slot)).filter fun i => decide (l.lots[i].state = .closing ∧ l.lots[i].inFlight = 0)

theorem lastOf_eq_some {l : Ledger} {e : Standing} {i : LotSlot} :
    l.lastOf e = some i ↔ (∃ x, e.lot = some x ∧ x.slot = i) ∧ l.lots[i].state = .closing ∧ l.lots[i].inFlight = 0 := by
  simp [Ledger.lastOf, Option.filter_eq_some_iff, Option.map_eq_some_iff]

/-- A completion that is counted leaves released equal to the sum: it takes the piece out of in_flight (R129). -/
theorem Conserves.counted {l : Lot} (h : Conserves l) (k : CompletionKind) (flying : 0 < l.inFlight) (most : l.inFlight ≤ 64) :
    Conserves (Machine.counted k l) := by
  intro used unsaturated
  have conserved := h used
  simp only [Machine.unsaturated, Machine.counted, List.all_cons, List.all_nil, Bool.and_eq_true, decide_eq_true_eq]
    at conserved unsaturated ⊢
  cases k <;> simp at conserved unsaturated ⊢ <;> omega

section
variable {l : Ledger} (h : Books none l) {e : Standing} (he : e ∈ l.records)
include h he

/-- The record of a tag stands alone among the records (R59). -/
theorem Books.split_at : ∃ a b, l.records = a ++ e :: b ∧ (l.records.filter fun q => q.tag ≠ e.tag) = a ++ b := by
  obtain ⟨a, b, whole⟩ := List.append_of_mem he
  refine ⟨a, b, whole, ?_⟩
  have tags := h.tags
  rw [whole, List.map_append, List.map_cons, List.nodup_middle, List.nodup_cons, ← List.map_append] at tags
  rw [whole, List.filter_append, List.filter_cons_of_neg (by simp), ← List.filter_append]
  exact List.filter_eq_self.2 fun q hq => decide_eq_true fun same => tags.1 (List.mem_map.2 ⟨q, hq, same⟩)

theorem Books.countP_written (p : Standing → Bool) :
    l.records.countP p = (l.records.filter fun q => q.tag ≠ e.tag).countP p + if p e then 1 else 0 := by
  obtain ⟨a, b, whole, rest⟩ := h.split_at he
  rw [rest, whole, List.countP_append, List.countP_append, List.countP_cons, Nat.add_assoc]

/-- What the books say of the slot of the record's lot once its entry is written. -/
theorem Books.ownLot_written (k : CompletionKind) {x : LotRef} (lot : e.lot = some x) :
    LotRight (l.written e k) ((l.written e k).lastOf e) x.slot (counted k l.lots[x.slot]) := by
  have own := h.lots x.slot
  have one := h.countP_written he (Standing.inLot x.slot)
  rw [Standing.inLot, lot, Option.any_some, decide_eq_true rfl, if_pos rfl, ← own.inFlight] at one
  have used := (own.named x (List.mem_filterMap.2 ⟨e, he, lot⟩) rfl).1
  have notWaiting : .lot x.slot ∉ l.order := fun waits => by
    have := (own.waiting waits).2.2.1
    omega
  have now : (l.written e k).lots[x.slot] = counted k l.lots[x.slot] := by
    simp only [Ledger.written, lot, Option.elim_some]
    exact vmod_get_same ..
  have last := lastOf_eq_some (l := l.written e k) (e := e) (i := x.slot)
  rw [now] at last
  exact {
    conserved := own.conserved.counted k (by omega) (h.inFlight_le _)
    inFlight := by
      show l.lots[x.slot].inFlight - 1 = _
      rw [one]
      rfl
    named := fun r hr hi => own.named r ((List.filter_sublist.filterMap _).subset hr) hi
    bound := fun _ => own.bound (by omega)
    agree := own.agree
    free := fun free => absurd free used
    usable := own.usable
    closed := fun closing empty => .inr (last.2 ⟨⟨x, lot, rfl⟩, closing, empty⟩)
    waiting := fun waits => absurd waits notWaiting
    summary := fun pending => absurd ((own.summary pending).resolve_right nofun) notWaiting
    inHand := fun held => ⟨(last.1 held).2.1, (last.1 held).2.2, notWaiting⟩ }

/-- The books after a written entry: in hand is the lot whose close has thereby ended (R70, R140). -/
theorem Books.written (going : e.waits = false) (k : CompletionKind) :
    Books ((l.written e k).lastOf e) (l.written e k) := by
  have elsewhere (j : LotSlot) (hj : ∀ x, e.lot = some x → x.slot ≠ j) :
      LotRight (l.written e k) ((l.written e k).lastOf e) j l.lots[j] := by
    refine (h.lots j).elsewhere (counts := ?_)
      (named := fun r hr _ => (List.filter_sublist.filterMap _).subset hr)
      (held := iff_of_false (fun held => ?_) nofun)
    · have none_ : Standing.inLot j e = false := by
        cases lot : e.lot with
        | none => rw [Standing.inLot, lot]; rfl
        | some x => rw [Standing.inLot, lot]; exact decide_eq_false (hj x lot)
      have one := h.countP_written he (Standing.inLot j)
      rw [none_] at one
      exact one.symm
    · obtain ⟨⟨x, lot, own⟩, -⟩ := lastOf_eq_some.1 held
      exact hj x lot own
  refine {
    size := (List.length_filter_le _ _).trans h.size
    tags := (List.filter_sublist.map _).nodup h.tags
    counter := h.counter
    done := fun q hq => h.done q (List.mem_of_mem_filter hq)
    programs := fun ix => ?_
    lots := ?_
    distinct := ?_
    pieces := fun tag => ?_
    orderNodup := h.orderNodup }
  · have one := h.countP_written he (Standing.ofProgram ix)
    rw [← h.programs] at one
    cases program : e.program with
    | none =>
      have none_ : Standing.ofProgram ix e = false := by rw [Standing.ofProgram, program]; rfl
      rw [none_] at one
      rw [Ledger.written, program]
      exact one
    | some jx =>
      rw [Standing.ofProgram, program] at one
      rw [Ledger.written, program]
      show (vmod l.programs jx (· - 1))[ix] = _
      rw [vmod_get]
      split
      · next same =>
        rw [one, if_pos (decide_eq_true (congrArg some same))]
        rfl
      · next other =>
        rw [one, if_neg fun same => other (Option.some.inj (of_decide_eq_true same))]
        rfl
  · cases lot : e.lot with
    | none =>
      have same : (l.written e k).lots = l.lots := by rw [Ledger.written, lot]; rfl
      rw [same]
      exact fun j => elsewhere j fun x hx => nomatch lot.symm.trans hx
    | some x =>
      have changed : (l.written e k).lots = vmod l.lots x.slot (counted k) := by rw [Ledger.written, lot]; rfl
      rw [changed]
      exact forall_vmod (h.ownLot_written he k lot) fun j hj => elsewhere j fun y hy =>
        Option.some.inj (lot.symm.trans hy) ▸ hj
  · unfold Ledger.written
    cases e.lot with
    | none => exact h.distinct
    | some x => exact h.distinct.vmod fun used => ⟨used, rfl⟩
  · refine (h.pieces tag).trans ⟨fun ⟨q, hq, own, waits⟩ => ⟨q, List.mem_filter.2 ⟨hq, ?_⟩, own, waits⟩,
      fun ⟨q, hq, own⟩ => ⟨q, List.mem_of_mem_filter hq, own⟩⟩
    refine decide_eq_true fun same => ?_
    rw [List.inj_on_of_nodup_map h.tags hq he same, going] at waits
    cases waits

end

end Sys2Proof.Machine

namespace Sys2Proof.Machine

open Sys2Proof

/-! ### Summaries and the order of pending writes (R140, R159, R162) -/

section
variable {l : Ledger} {i : LotSlot}

/-- A lot without a piece in flight has no record. -/
theorem LotRight.unnamed {hand : Option LotSlot} {x : Lot} (h : LotRight l hand i x) (empty : x.inFlight = 0) :
    ∀ r : LotRef, r ∈ l.records.filterMap (·.lot) → r.slot ≠ i := by
  intro r hr own
  obtain ⟨e, he, lot⟩ := List.mem_filterMap.1 hr
  have none_ := List.countP_eq_zero.1 (h.inFlight.symm.trans empty) e he
  exact none_ (by rw [Standing.inLot, lot]; exact decide_eq_true own)

theorem held_iff_of_ne {j : LotSlot} (h : i ≠ j) : none = some j ↔ some i = some j :=
  iff_of_false nofun fun g => h (Option.some.inj g)

/-- The summary of the lot in hand is written, and its slot freed (R140). -/
theorem Books.freed (h : Books (some i) l) (unbound : l.lots[i].bin = none) :
    Books none { l with lots := vmod l.lots i fun _ => Lot.free } := by
  have own := h.lots i
  obtain ⟨-, empty, notWaiting⟩ := own.inHand rfl
  refine { h with
    lots := forall_vmod ?_ fun j hj => (h.lots j).elsewhere (held := held_iff_of_ne hj)
    distinct := h.distinct.vmod fun used => absurd rfl used }
  exact {
    conserved := fun used => absurd rfl used
    inFlight := empty.symm.trans own.inFlight
    named := fun r hr hi => absurd hi (own.unnamed empty r hr)
    bound := nofun
    agree := fun b => by rw [← own.agree b, unbound]; rfl
    free := fun _ => rfl
    usable := nofun
    closed := nofun
    waiting := fun waits => absurd waits notWaiting
    summary := nofun
    inHand := nofun }

/-- The summary of the lot in hand goes to the back of the order (R159). -/
theorem Books.pended (h : Books (some i) l) (unbound : l.lots[i].bin = none) :
    Books none
      { l with lots := vmod l.lots i fun x => { x with summaryPending := true }, order := l.order ++ [.lot i] } := by
  have own := h.lots i
  obtain ⟨closing, empty, notWaiting⟩ := own.inHand rfl
  have last : PendingWrite.lot i ∈ l.order ++ [.lot i] := List.mem_append_right _ (List.mem_singleton.2 rfl)
  refine { h with
    lots := forall_vmod ?_ fun j hj => (h.lots j).elsewhere (held := held_iff_of_ne hj) (order := ?_)
    distinct := h.distinct.vmod fun used => ⟨used, rfl⟩
    pieces := fun tag => by simpa using h.pieces tag
    orderNodup := List.nodup_append.2 ⟨h.orderNodup, List.nodup_singleton _, fun a ha b hb => ?_⟩ }
  · exact { own with
      free := fun free => absurd (closing.symm.trans free) nofun
      closed := fun _ _ => .inl last
      waiting := fun _ => ⟨closing, unbound, empty, rfl⟩
      summary := fun _ => .inl last
      inHand := nofun }
  · rw [List.mem_append, List.mem_singleton, PendingWrite.lot.injEq]
    exact or_iff_left (Ne.symm hj)
  · rintro rfl
    exact notWaiting (List.mem_singleton.1 hb ▸ ha)

/-- A waiting summary taken from the front of the order leaves its lot in hand, unbound (R162). -/
theorem Books.lotTaken (h : Books none l) {ws : List PendingWrite} (order : l.order = .lot i :: ws) :
    Books (some i) { l with order := ws } ∧ l.lots[i].bin = none := by
  have own := h.lots i
  have front : .lot i ∈ l.order := order ▸ List.mem_cons_self
  obtain ⟨closing, unbound, empty, -⟩ := own.waiting front
  obtain ⟨once, nodup⟩ := List.nodup_cons.1 (order ▸ h.orderNodup)
  refine ⟨{ h with lots := fun j => ?_, pieces := fun tag => ?_, orderNodup := nodup }, unbound⟩
  · by_cases hj : i = j
    · subst hj
      exact { own with
        closed := fun _ _ => .inr rfl
        waiting := fun waits => absurd waits once
        summary := fun _ => .inr rfl
        inHand := fun _ => ⟨closing, empty, once⟩ }
    · refine (h.lots j).elsewhere (held := (held_iff_of_ne hj).symm) (order := ?_)
      rw [order, List.mem_cons, PendingWrite.lot.injEq]
      exact (or_iff_right (Ne.symm hj)).symm
  · rw [← h.pieces, order, List.mem_cons]
    exact (or_iff_right nofun).symm

/-- The record of a tag waits no longer. -/
def Standing.resumed (tag : Nat) (e : Standing) : Standing := if e.tag = tag then { e with waits := false } else e

theorem resumed_tag (tag : Nat) (e : Standing) : (e.resumed tag).tag = e.tag := by unfold Standing.resumed; split <;> rfl

theorem resumed_lot (tag : Nat) (e : Standing) : (e.resumed tag).lot = e.lot := by unfold Standing.resumed; split <;> rfl

theorem resumed_program (tag : Nat) (e : Standing) : (e.resumed tag).program = e.program := by
  unfold Standing.resumed; split <;> rfl

/-- A waiting record taken from the front of the order is like one completed just now (R162). -/
theorem Books.pieceTaken (h : Books none l) {tag : Nat} {ws : List PendingWrite} (order : l.order = .piece tag :: ws) :
    Books none { l with records := l.records.map (Standing.resumed tag), order := ws } := by
  have tags : (fun q : Standing => q.tag) ∘ Standing.resumed tag = (·.tag) := funext (resumed_tag tag)
  have lots : (fun q : Standing => q.lot) ∘ Standing.resumed tag = (·.lot) := funext (resumed_lot tag)
  have inLot (i : LotSlot) : Standing.inLot i ∘ Standing.resumed tag = Standing.inLot i :=
    funext fun q => by rw [Function.comp, Standing.inLot, resumed_lot]; rfl
  have ofProgram (ix : ProgramIx) : Standing.ofProgram ix ∘ Standing.resumed tag = Standing.ofProgram ix :=
    funext fun q => by rw [Function.comp, Standing.ofProgram, resumed_program]; rfl
  obtain ⟨once, nodup⟩ := List.nodup_cons.1 (order ▸ h.orderNodup)
  refine {
    size := by simpa using h.size
    tags := by rw [List.map_map, tags]; exact h.tags
    counter := h.counter
    done := fun q hq => ?_
    programs := fun ix => by rw [List.countP_map, ofProgram]; exact h.programs ix
    lots := fun j => (h.lots j).elsewhere (counts := by rw [List.countP_map, inLot])
      (named := fun r hr _ => by rwa [List.filterMap_map, lots] at hr) (order := by simp [order])
    distinct := h.distinct
    pieces := fun g => ?_
    orderNodup := nodup }
  · obtain ⟨o, ho, rfl⟩ := List.mem_map.1 hq
    unfold Standing.resumed
    split
    · nofun
    · exact h.done o ho
  · have waits : (∃ q ∈ l.records, (q.resumed tag).tag = g ∧ (q.resumed tag).waits = true) ↔
        g ≠ tag ∧ ∃ q ∈ l.records, q.tag = g ∧ q.waits = true := by
      refine ⟨fun ⟨q, hq, own, waits⟩ => ?_, fun ⟨other, q, hq, own, waits⟩ => ⟨q, hq, (resumed_tag tag q).trans own, ?_⟩⟩
      · unfold Standing.resumed at waits
        rw [resumed_tag] at own
        split at waits
        · cases waits
        · next other => exact ⟨own ▸ other, q, hq, own, waits⟩
      · rw [Standing.resumed, if_neg (own ▸ other)]
        exact waits
    have front := h.pieces g
    rw [order, List.mem_cons, PendingWrite.piece.injEq] at front
    simp only [List.mem_map, exists_exists_and_eq_and]
    rw [waits, ← front]
    by_cases own : g = tag
    · exact iff_of_false (own ▸ once) fun k => k.1 own
    · exact ⟨fun k => ⟨own, .inr k⟩, fun k => k.2.resolve_left own⟩

/-- A written record is gone, whether it waited or not. -/
theorem written_resumed (l : Ledger) (e : Standing) (k : CompletionKind) :
    { l with records := l.records.map (Standing.resumed e.tag) }.written { e with waits := false } k = l.written e k := by
  have records : (l.records.map (Standing.resumed e.tag)).filter (fun q => q.tag ≠ e.tag) =
      l.records.filter fun q => q.tag ≠ e.tag := by
    have tags : (fun q : Standing => decide (q.tag ≠ e.tag)) ∘ Standing.resumed e.tag = fun q => decide (q.tag ≠ e.tag) :=
      funext fun q => by rw [Function.comp, resumed_tag]
    rw [List.filter_map, tags]
    refine (List.map_congr_left fun q hq => ?_).trans (List.map_id _)
    exact if_neg (of_decide_eq_true (List.mem_filter.1 hq).2)
  exact congrArg (fun r => { l.written e k with records := r }) records

end

/-! ### Lots opened and closed, bins out of use (R131, R139, R142) -/

section
variable {hand : Option LotSlot} {l : Ledger} {i : LotSlot}

/-- A FREE slot becomes OPEN under an id that no other holds (R131). -/
theorem Books.opened (h : Books hand l) (free : l.lots[i].state = .free) {id : Nat}
    (unused : ∀ j : LotSlot, l.lots[j].state = .free ∨ l.lots[j].id ≠ id) (size : Nat) (p : Pos) :
    Books hand { l with lots := vmod l.lots i fun _ => openedLot id size p } := by
  have own := h.lots i
  have empty : l.lots[i].inFlight = 0 := by rw [own.free free]; rfl
  have unbound : l.lots[i].bin = none := by rw [own.free free]; rfl
  have notClosing : l.lots[i].state ≠ .closing := by rw [free]; nofun
  refine { h with lots := forall_vmod ?_ fun j _ => (h.lots j).elsewhere, distinct := ?_ }
  · exact {
      conserved := fun _ _ => rfl
      inFlight := empty.symm.trans own.inFlight
      named := fun r hr hi => absurd hi (own.unnamed empty r hr)
      bound := nofun
      agree := fun b => by rw [← own.agree b, unbound]; rfl
      free := nofun
      usable := nofun
      closed := nofun
      waiting := fun waits => absurd (own.waiting waits).1 notClosing
      summary := nofun
      inHand := fun held => absurd (own.inHand held).1 notClosing }
  · have other {j : LotSlot} (hj : i ≠ j) : (vmod l.lots i fun _ => openedLot id size p)[j] = l.lots[j] := vmod_get_other _ _ hj
    have new : (vmod l.lots i fun _ => openedLot id size p)[i] = openedLot id size p := vmod_get_same ..
    intro j k hj hk same
    by_cases ij : i = j
    · by_cases ik : i = k
      · exact ij.symm.trans ik
      · rw [← ij, new, other ik] at same
        rw [other ik] at hk
        exact absurd same.symm ((unused k).resolve_left hk)
    · rw [other ij] at hj same
      by_cases ik : i = k
      · rw [← ik, new] at same
        exact absurd same ((unused j).resolve_left hj)
      · rw [other ik] at hk same
        exact h.distinct j k hj hk same

/-- An OPEN lot becomes CLOSING: with nothing in flight it is then in hand (R139). -/
theorem Books.closing (h : Books none l) (opened : l.lots[i].state = .opened) :
    Books (if l.lots[i].inFlight = 0 then some i else none)
      { l with lots := vmod l.lots i fun x => { x with state := .closing } } := by
  have own := h.lots i
  have notWaiting : .lot i ∉ l.order := fun waits => absurd (opened.symm.trans (own.waiting waits).1) nofun
  refine { h with
    lots := forall_vmod ?_ fun j hj => (h.lots j).elsewhere (held := ?_)
    distinct := h.distinct.vmod fun _ => ⟨fun free => absurd (opened.symm.trans free) nofun, rfl⟩ }
  · exact { own with
      conserved := fun _ => own.conserved fun free => absurd (opened.symm.trans free) nofun
      named := fun r hr hi => ⟨nofun, (own.named r hr hi).2⟩
      free := nofun
      closed := fun _ empty => .inr (if_pos empty)
      waiting := fun waits => absurd waits notWaiting
      summary := fun pending => absurd ((own.summary pending).resolve_right nofun) notWaiting
      inHand := fun held => by
        split at held
        · next empty => exact ⟨rfl, empty, notWaiting⟩
        · cases held }
  · split
    · exact (held_iff_of_ne hj).symm
    · rfl

/-- More bins in use than before. -/
theorem Books.widened (h : Books hand l) {n : Nat} (more : l.usable ≤ n) : Books hand { l with usable := n } :=
  { h with lots := fun j => { h.lots j with usable := fun b hb => Nat.lt_of_lt_of_le ((h.lots j).usable b hb) more } }

/-- With nothing in flight the bins from n on go out of use, and their lots are unbound (R142). -/
theorem Books.narrowed (h : Books hand l) {n : Nat} (empty : ∀ j : LotSlot, l.lots[j].inFlight = 0) {lots : Vector Lot 8}
    {bins : Vector (Option LotSlot) 6} (gone : ∀ b : Bin, bins[b] = if n ≤ b.val then none else l.bins[b])
    (unbound : ∀ (j : LotSlot) (b : Bin), l.lots[j].bin = some b → n ≤ b.val →
      lots[j] = { l.lots[j] with bin := none, stackCount := 0 })
    (kept : ∀ j : LotSlot, (∀ b, l.lots[j].bin = some b → b.val < n) → lots[j] = l.lots[j]) :
    Books hand { l with lots := lots, bins := bins, usable := n } := by
  have leaves {j : LotSlot} {b : Bin} (hb : l.lots[j].bin = some b) (out : n ≤ b.val) :
      LotRight { l with lots := lots, bins := bins, usable := n } hand j { l.lots[j] with bin := none, stackCount := 0 } := by
    have own := h.lots j
    refine { own with
      bound := fun flying => absurd (empty j) (Nat.ne_of_gt flying)
      agree := fun c => iff_of_false nofun fun hc => ?_
      free := fun free => absurd free (own.used_of_bin hb)
      usable := nofun
      waiting := fun waits => absurd (hb.symm.trans (own.waiting waits).2.1) nofun }
    rw [gone] at hc
    split at hc
    · cases hc
    · next use =>
      have same := hb.symm.trans ((own.agree c).2 hc)
      exact use (Option.some.inj same ▸ out)
  have stays {j : LotSlot} (use : ∀ b, l.lots[j].bin = some b → b.val < n) :
      LotRight { l with lots := lots, bins := bins, usable := n } hand j l.lots[j] := by
    have own := h.lots j
    refine { own with agree := fun c => (own.agree c).trans ?_, usable := use }
    rw [gone]
    split
    · next out => exact iff_of_false (fun hc => absurd (use c ((own.agree c).2 hc)) (Nat.not_lt.2 out)) nofun
    · rfl
  have each (j : LotSlot) : LotRight { l with lots := lots, bins := bins, usable := n } hand j lots[j] ∧
      lots[j].state = l.lots[j].state ∧ lots[j].id = l.lots[j].id := by
    by_cases out : ∃ b, l.lots[j].bin = some b ∧ n ≤ b.val
    · obtain ⟨b, hb, out⟩ := out
      rw [unbound j b hb out]
      exact ⟨leaves hb out, rfl, rfl⟩
    · have use (b : Bin) (hb : l.lots[j].bin = some b) : b.val < n := Nat.lt_of_not_le fun k => out ⟨b, hb, k⟩
      rw [kept j use]
      exact ⟨stays use, rfl, rfl⟩
  refine { h with lots := fun j => (each j).1, distinct := fun j k hj hk same => ?_ }
  obtain ⟨-, stateJ, idJ⟩ := each j
  obtain ⟨-, stateK, idK⟩ := each k
  rw [stateJ] at hj
  rw [stateK] at hk
  exact h.distinct j k hj hk (idJ.symm.trans (same.trans idK))

end

end Sys2Proof.Machine

namespace Sys2Proof.Machine

open Sys2Proof

/-! ### Operations that keep the books -/

/-- With the same lot in hand, or none, the books stay right from s to t. -/
def BooksKept (hand : Option LotSlot) (s t : State) : Prop := Books hand s.ledger → Books hand t.ledger

section
variable {hand : Option LotSlot} {s t u : State}

theorem BooksKept.still (same : t.ledger = s.ledger) : BooksKept hand s t := fun h => by rwa [same]

theorem BooksKept.refl (s : State) : BooksKept hand s s := id

theorem BooksKept.trans (h : BooksKept hand s t) (k : BooksKept hand t u) : BooksKept hand s u := k ∘ h

/-- An operation that starts from a state of the same ledger. -/
theorem BooksKept.after (h : BooksKept hand t u) (same : t.ledger = s.ledger) : BooksKept hand s u :=
  (BooksKept.still same).trans h

/-- An operation that ends in a state of the same ledger. -/
theorem BooksKept.upTo (h : BooksKept hand s t) (same : u.ledger = t.ledger) : BooksKept hand s u := h.trans (.still same)

theorem BooksKept.foldl {α : Type} {f : State → α → State} (hf : ∀ s a, BooksKept hand s (f s a)) (l : List α) (s : State) :
    BooksKept hand s (l.foldl f s) := by
  induction l generalizing s with
  | nil => exact .refl s
  | cons a l ih => exact (hf s a).trans (ih (f s a))

end

/-! ### Records changed in what the accounts do not read -/

/-- Records changed in what the accounts do not read. -/
theorem mapped_ledger {s : State} {g : Piece → Piece} (hg : ∀ r ∈ s.track.pool, (g r).standing = r.standing) :
    ({ s with track := { s.track with pool := s.track.pool.map g } } : State).ledger = s.ledger := by
  have same : (s.track.pool.map g).map Piece.standing = s.track.pool.map Piece.standing := by
    rw [List.map_map]
    exact List.map_congr_left hg
  exact congrArg (fun l => { s.ledger with records := l }) same

theorem modPiece_ledger {s : State} {tag : Nat} {f : Piece → Piece}
    (hf : ∀ r ∈ s.track.pool, r.tag = tag → (f r).standing = r.standing) : (s.modPiece tag f).ledger = s.ledger := by
  refine mapped_ledger fun r hr => ?_
  split
  · next own => exact hf r hr (beq_iff_eq.1 own)
  · rfl

/-! ### The examination (R46, R56, R132, R133) -/

section
variable {hand : Option LotSlot} {s : State}

theorem unbound_books {i : LotSlot} {b : Bin} (hb : s.lot.lots[i].bin = some b) (empty : s.lot.lots[i].inFlight = 0) :
    BooksKept hand s (s.unbound i b) := fun h => by
  have same : (s.unbound i b).ledger =
      { s.ledger with
        lots := vmod s.lot.lots i fun x => { x with stackCount := 0, bin := none }, bins := s.lot.bins.set b none } := by
    rw [unbound_frame]
    have lot := unbound_lot (s := s) (i := i) ((h.lots i).agree b |>.1 hb)
    exact congrArg (fun u : LotUnit => { s.ledger with lots := u.lots, bins := u.bins }) lot
  rw [same]
  exact h.unbound hb empty

theorem unbindLot_books {i : LotSlot} (empty : s.lot.lots[i].inFlight = 0) : BooksKept hand s (unbindLot i s) := by
  cases hb : s.lot.lots[i].bin with
  | none =>
    have stays : unbindLot i s = s := by rw [unbindLot, hb]
    rw [stays]
    exact .refl s
  | some b =>
    rw [unbindLot_eq i b s hb]
    exact unbound_books hb empty

/-- A grant that all conditions allow has room for its record, and for an unbound lot a bin to take (R52, R53). -/
theorem room_of_failing_none {k : StationIx} {a : Assignment} {pr : ProgramRec} {i : LotSlot} (passes : failing s k a = none)
    (program : s.prog.programs[a.program] = some pr) (lot : openLot? s a.lotId = some i) :
    ¬NoBin s i ∧ s.track.pool.length ≤ 62 := by
  have run := run_of_failing_none passes
  have lanes (w : Lane) (foot : hasLane (footprintOf pr.width k) w = true) : hasLane s.prog.settings.lanes w = true := by
    by_contra missing
    have fails := failing_lane run k program ⟨w, foot, Bool.eq_false_iff.2 missing⟩
    exact absurd (passes.symm.trans fails) nofun
  obtain ⟨noBin, bins⟩ := failing_of_lot run k program lanes lot
  have bin : ¬NoBin s i := fun none_ => absurd (passes.symm.trans (noBin none_)) nofun
  exact ⟨bin, Nat.le_of_not_lt fun full => absurd (passes.symm.trans ((bins bin).1 full)) nofun⟩

/-- The ledger with a record taken into use (R59). -/
theorem takeRecord_ledger (z : Zone) (f : Nat → Pos → Piece) (s : State) :
    (takeRecord z f s).2.ledger =
      { s.ledger with
        records := s.ledger.records ++ [(f (takeRecord z f s).1 s.track.takeCounter).standing]
        counter := nextTag (takeRecord z f s).1 } := by
  have pool : (takeRecord z f s).2.track.pool.map Piece.standing =
      s.track.pool.map Piece.standing ++ [(f (takeRecord z f s).1 s.track.takeCounter).standing] := by
    rw [takeRecord_pool, List.map_append, List.map_singleton]
  have counter := (takeRecord_counters z f s).1
  show { s.ledger with
    records := (takeRecord z f s).2.track.pool.map Piece.standing, counter := (takeRecord z f s).2.track.tagCounter } = _
  rw [pool, counter]
  rfl

/-- The tag that a record takes is new, and the counter stays in range (R59). -/
theorem takeRecord_fresh (h : Books hand s.ledger) (room : s.track.pool.length < 64) (z : Zone) (f : Nat → Pos → Piece) :
    (∀ q ∈ s.ledger.records, q.tag ≠ (takeRecord z f s).1) ∧
      1 ≤ nextTag (takeRecord z f s).1 ∧ nextTag (takeRecord z f s).1 ≤ 65535 := by
  have fresh := freeTag_fresh s.track.pool Config.poolSize s.track.tagCounter h.counter (by decide) room
  have range := freeTag_range s.track.pool Config.poolSize s.track.tagCounter h.counter
  refine ⟨fun q hq => ?_, ?_⟩
  · obtain ⟨r, hr, rfl⟩ := List.mem_map.1 hq
    exact fresh r hr
  · show 1 ≤ nextTag (freeTag s.track.pool Config.poolSize s.track.tagCounter) ∧
      nextTag (freeTag s.track.pool Config.poolSize s.track.tagCounter) ≤ 65535
    unfold nextTag
    split <;> omega

/-- The grant of a bound OPEN lot (R56). -/
theorem grant_bound_books {k : StationIx} {a : Assignment} {pr : ProgramRec} {i : LotSlot}
    (opened : s.lot.lots[i].state = .opened) (hid : s.lot.lots[i].id = a.lotId) (bound : s.lot.lots[i].bin.isSome)
    (room : s.track.pool.length < 64) : BooksKept hand s (grant k a pr i s) := fun h => by
  have waits : (grant k a pr i s).ledger = (grantedAlone k a pr i s).ledger := by
    rw [grant_bound k a pr bound]
    exact foldl_keeps (fun t j => by unfold waitMore; split <;> rfl) _ _
  have taken := takeRecord_ledger .feed (fedRecord s k a pr i) s
  have size : s.ledger.records.length < 64 := by
    show (s.track.pool.map Piece.standing).length < 64
    rwa [List.length_map]
  obtain ⟨fresh, range⟩ := takeRecord_fresh h room .feed (fedRecord s k a pr i)
  have alone : (grantedAlone k a pr i s).ledger =
      { (takeRecord .feed (fedRecord s k a pr i) s).2.ledger with
        lots := vmod s.lot.lots i (grantedLot s.line.p), programs := vmod s.prog.inFlight a.program (· + 1) } := rfl
  rw [waits, alone, taken]
  exact h.granted rfl size fresh range rfl rfl opened hid bound s.line.p

/-- A grant that binds its lot first, to a free usable bin or to that of a lot it evicts (R132, R133). -/
theorem grant_books {k : StationIx} {a : Assignment} {pr : ProgramRec} {i : LotSlot} (passes : failing s k a = none)
    (program : s.prog.programs[a.program] = some pr) (lot : openLot? s a.lotId = some i) :
    BooksKept hand s (grant k a pr i s) := fun h => by
  obtain ⟨opened, hid⟩ := opened_of_openLot? lot
  obtain ⟨bin, room⟩ := room_of_failing_none passes program lot
  cases hb : s.lot.lots[i].bin with
  | some b => exact grant_bound_books opened hid (by rw [hb]; rfl) (by omega) h
  | none =>
    -- after the binding the grant is that of a bound lot
    have go {u : State} {b : Bin} (binds : bindLot i s = bindTo i b u) (h : Books hand u.ledger)
        (own : u.lot.lots[i] = s.lot.lots[i]) (pool : u.track.pool = s.track.pool) (free : u.lot.bins[b] = none)
        (usable : b.val < u.prog.settings.binsEnabled) : Books hand (grant k a pr i s).ledger := by
      have now : (bindTo i b u).lot.lots[i] = { s.lot.lots[i] with bin := some b } := by
        rw [← own]
        exact vmod_get_same ..
      rw [grant_after_bindLot k a pr hb binds (bindTo_bound i b u)]
      refine grant_bound_books (by rw [now]; exact opened) (by rw [now]; exact hid) (by rw [now]; rfl) ?_ ?_
      · show u.track.pool.length < 64
        rw [pool]
        omega
      · exact h.bound (by rw [show u.ledger.lots = u.lot.lots from rfl, own]; exact opened)
          (by rw [show u.ledger.lots = u.lot.lots from rfl, own]; exact hb) free usable
    cases free : freeBin? s with
    | some b =>
      have found := List.find?_some free
      rw [Bool.and_eq_true, decide_eq_true_eq, Option.isNone_iff_eq_none] at found
      exact go (bindLot_lowest free) h rfl rfl found.2 found.1
    | none =>
      cases evicts : evictable? s with
      | none => exact absurd ((noBin_iff s i).1 (by rw [hb, free, evicts]; rfl)) bin
      | some jb =>
        obtain ⟨j, b⟩ := jb
        obtain ⟨holds, -, empty⟩ := mayEvict_of_evictable? evicts
        have bound := ((h.lots j).agree b).2 holds
        have other : j ≠ i := by
          rintro rfl
          exact absurd (hb.symm.trans bound) nofun
        have lot := unbound_lot holds
        refine go (bindLot_evicts free evicts bound) (unbound_books bound empty h) ?_ (by rw [unbound_frame]) ?_ ?_
        · rw [lot]
          exact (set_get _ _ _ _).trans (if_neg other)
        · rw [lot]
          exact (set_get _ _ _ _).trans (if_pos rfl)
        · rw [unbound_frame]
          exact (h.lots j).usable b bound

end

/-- An examination keeps the books: its grants do (R46). -/
theorem examine_books {hand : Option LotSlot} (s : State) : BooksKept hand s (examine s) :=
  examine_rel (R := BooksKept hand) (fun _ _ _ => .still rfl) (fun _ _ _ _ _ => grant_books) .trans s

end Sys2Proof.Machine

namespace Sys2Proof.Machine

open Sys2Proof

/-! ### The writer's work (R70, R133, R140, R148, R159) -/

theorem stagedApplied_books {hand : Option LotSlot} (r : Piece) (s : State) : BooksKept hand s (s.stagedApplied r) := by
  unfold State.stagedApplied
  split
  · exact .refl s
  · split
    · exact .refl s
    · split
      · exact (examine_books _).after rfl
      · exact .refl s

theorem ClosingKept.examined {v : Vector Lot 8} {s : State} (h : ClosingKept v s.lot.lots) :
    ClosingKept v (examine s).lot.lots :=
  h.trans (examine_closingKept s)

theorem stagedApplied_closingKept (r : Piece) (s : State) : ClosingKept s.lot.lots (s.stagedApplied r).lot.lots := by
  unfold State.stagedApplied
  split
  · exact .refl _
  · split
    · exact .refl _
    · split
      · exact .examined (.refl _)
      · exact .refl _

/-- An unbound CLOSING lot is not bound again (R51, R132). -/
theorem ClosingKept.unbound {v w : Vector Lot 8} (h : ClosingKept v w) {i : LotSlot} (closing : v[i].state = .closing)
    (unbound : v[i].bin = none) : w[i].bin = none :=
  (congrArg Lot.bin (h.closing i closing) :).trans unbound

theorem summaryAsked_books {i : LotSlot} {s : State} (h : Books (some i) s.ledger) (unbound : s.lot.lots[i].bin = none) :
    Books none (s.summaryAsked i).ledger := by
  unfold State.summaryAsked
  split
  · exact h.freed unbound
  · exact h.pended unbound

/-- What a written entry brings leaves no lot in hand (R140, R148). -/
theorem closedAndApplied_books {r : Piece} {s : State} (h : Books (s.ledger.lastOf r.standing) s.ledger) :
    Books none (s.closedAndApplied r).ledger := by
  have last (i : LotSlot) := lastOf_eq_some (l := s.ledger) (e := r.standing) (i := i)
  have noLot (none_ : ∀ i, s.ledger.lastOf r.standing ≠ some i) : Books none (s.stagedApplied r).ledger :=
    stagedApplied_books r s (Option.eq_none_iff_forall_ne_some.2 none_ ▸ h)
  unfold State.closedAndApplied
  split
  · next lot =>
    refine noLot fun i held => ?_
    obtain ⟨⟨x, hx, -⟩, -⟩ := (last i).1 held
    exact absurd (lot.symm.trans hx) nofun
  · next x lot =>
    split
    · next ended =>
      rw [(last x.slot).2 ⟨⟨x, lot, rfl⟩, ended⟩] at h
      split
      · next b hb =>
        have own := unbound_self x.slot b s
        have closing : (s.unbound x.slot b).lot.lots[x.slot].state = .closing := by rw [own]; exact ended.1
        have kept := (stagedApplied_closingKept r (s.unbound x.slot b)).examined
        exact summaryAsked_books (((unbound_books hb ended.2).trans (stagedApplied_books r _)).trans (examine_books _) h)
          (kept.unbound closing (by rw [own]))
      · next hb =>
        exact summaryAsked_books (stagedApplied_books r s h) ((stagedApplied_closingKept r s).unbound ended.1 hb)
    · next going =>
      refine noLot fun i held => ?_
      obtain ⟨⟨y, hy, rfl⟩, ended⟩ := (last i).1 held
      exact going (Option.some.inj (lot.symm.trans hy) ▸ ended)

theorem pieceWritten_ledger (s : State) (r : Piece) (c : Completion) :
    (s.pieceWritten r c).ledger = s.ledger.written r.standing c.kind := by
  have records : (s.track.pool.filter fun q => q.tag ≠ r.tag).map Piece.standing =
      (s.track.pool.map Piece.standing).filter fun q => q.tag ≠ r.tag := by
    rw [List.filter_map]
    rfl
  have lots : (s.pieceWritten r c).lot.lots = (s.ledger.written r.standing c.kind).lots := by
    unfold State.pieceWritten Ledger.written Piece.standing
    cases r.lot <;> rfl
  have bins : (s.pieceWritten r c).lot.bins = s.lot.bins := by
    unfold State.pieceWritten
    cases r.lot <;> rfl
  have programs : (s.pieceWritten r c).prog.inFlight = (s.ledger.written r.standing c.kind).programs := by
    unfold State.pieceWritten Ledger.written Piece.standing
    cases r.program <;> rfl
  have usable : (s.pieceWritten r c).prog.settings = s.prog.settings := by
    unfold State.pieceWritten
    cases r.program <;> rfl
  show Ledger.mk ((s.track.pool.filter fun q => q.tag ≠ r.tag).map Piece.standing) _ _ _ _ _ _ = _
  rw [records, lots, bins, programs, usable]
  rfl

/-- The entry of a record is written, with all the work that the writer does at once (R70, R140, R148). -/
theorem pieceDone_books {r : Piece} {c : Completion} {s : State}
    (written : Books ((s.ledger.written r.standing c.kind).lastOf r.standing) (s.ledger.written r.standing c.kind)) :
    Books none (s.pieceDone r c).ledger := by
  rw [← pieceWritten_ledger] at written
  exact examine_books _ (closedAndApplied_books written)

/-! ### Completions (R69, R70, R159) -/

section
variable {hand : Option LotSlot} {s : State} (h : Books hand s.ledger) {r : Piece} (hr : r ∈ s.track.pool)
include h hr

/-- The record of a tag is found by it (R59). -/
theorem Books.piece? : s.piece? r.tag = some r := by
  have tags : (s.track.pool.map (·.tag)).Nodup := by
    have tags := h.tags
    rwa [show s.ledger.records = s.track.pool.map Piece.standing from rfl, List.map_map] at tags
  cases found : s.piece? r.tag with
  | none => exact absurd (beq_self_eq_true r.tag) (List.find?_eq_none.1 found r hr)
  | some q =>
    obtain ⟨hq, own⟩ := piece?_some found
    rw [List.inj_on_of_nodup_map tags hq hr own]

/-- Its entry stands in the order exactly while it waits (R159). -/
theorem Books.piece_in_order : .piece r.tag ∈ s.log.order ↔ r.state = .donePending := by
  refine (h.pieces r.tag).trans ⟨fun ⟨e, he, own, waits⟩ => ?_, fun waits => ?_⟩
  · rw [List.inj_on_of_nodup_map h.tags he (List.mem_map_of_mem hr) own] at waits
    exact of_decide_eq_true waits
  · exact ⟨r.standing, List.mem_map_of_mem hr, rfl, decide_eq_true waits⟩

theorem Books.going (incomplete : r.completion = none) : r.standing.waits = false := by
  refine Bool.eq_false_iff.2 fun waits => ?_
  have done := h.done r.standing (List.mem_map_of_mem hr) waits
  rw [show r.standing.done = r.completion.isSome from rfl, incomplete] at done
  cases done

end

theorem waitsDone_ledger (s : State) (r : Piece) (c : Completion) :
    (s.waitsDone r c).ledger =
      { s.ledger with
        records := s.ledger.records.map (Standing.completedAt r.tag), order := s.ledger.order ++ [.piece r.tag] } := by
  have records : (s.track.pool.map fun q => if q.tag == r.tag then standsDone c q else q).map Piece.standing =
      (s.track.pool.map Piece.standing).map (Standing.completedAt r.tag) := by
    rw [List.map_map, List.map_map]
    refine List.map_congr_left fun q _ => ?_
    by_cases own : q.tag = r.tag
    · simp only [Function.comp, Standing.completedAt, beq_iff_eq, if_pos own, show q.standing.tag = q.tag from rfl]
      rfl
    · simp only [Function.comp, Standing.completedAt, beq_iff_eq, if_neg own, show q.standing.tag = q.tag from rfl]
  exact congrArg (fun l => { s.ledger with records := l, order := s.ledger.order ++ [PendingWrite.piece r.tag] }) records

/-- A completion is written at once, or waits (R69, R70, R159). -/
theorem complete_books (tag : Nat) (k : CompletionKind) (st : Option Stage) (s : State) :
    BooksKept none s (complete tag k st s) := fun h => by
  cases hr : s.piece? tag with
  | none =>
    have nothing : complete tag k st s = s := by rw [complete, hr]
    rwa [nothing]
  | some r =>
    obtain ⟨mem, rfl⟩ := piece?_some hr
    cases incomplete : r.completion with
    | some c => rwa [complete_of_done hr (by rw [incomplete]; rfl)]
    | none =>
      have going := h.going mem incomplete
      have record : r.standing ∈ s.ledger.records := List.mem_map_of_mem mem
      by_cases room : s.log.entries.length < 32 ∧ s.log.order = []
      · rw [complete_written hr incomplete k st room]
        exact pieceDone_books (s := s.offLine r) (h.written record going _)
      · rw [complete_waits hr incomplete k st room, waitsDone_ledger]
        refine h.completionWaits record fun waits => ?_
        exact of_decide_eq_false going ((h.piece_in_order mem).1 waits)

/-! ### LOG TAKE (R162) -/

theorem writePending_books {w : PendingWrite} {ws : List PendingWrite} {s : State} (order : s.log.order = w :: ws)
    (h : Books none s.ledger) : Books none (writePending w { s with log := { s.log with order := ws } }).ledger := by
  cases w with
  | lot i =>
    obtain ⟨taken, unbound⟩ := h.lotTaken order
    exact taken.freed unbound
  | piece tag =>
    have front : .piece tag ∈ s.log.order := order ▸ List.mem_cons_self
    obtain ⟨r, mem, rfl, waits⟩ := (exists_waits_iff s tag).1 ((h.pieces tag).1 front)
    have done := h.done r.standing (List.mem_map_of_mem mem) (decide_eq_true waits)
    obtain ⟨c, hc⟩ := Option.isSome_iff_exists.1 done
    let t : State := { s with log := { s.log with order := ws } }
    have written : writePiece r.tag t = t.pieceDone r c := writePiece_eq (h.piece? mem) hc
    rw [writePending, written]
    refine pieceDone_books ?_
    have taken := h.pieceTaken order
    have record : ({ r.standing with waits := false } : Standing) ∈ s.ledger.records.map (Standing.resumed r.tag) :=
      List.mem_map.2 ⟨r.standing, List.mem_map_of_mem mem, if_pos rfl⟩
    have resumed := taken.written record rfl c.kind
    exact (written_resumed t.ledger r.standing c.kind) ▸ resumed

theorem fillLog_books (fuel : Nat) (s : State) : BooksKept none s (fillLog fuel s) := by
  induction fuel generalizing s with
  | zero => exact .refl s
  | succ n ih =>
    unfold fillLog
    split
    · exact .refl s
    · next order =>
      split
      · exact fun h => ih _ (writePending_books order h)
      · exact .refl s

theorem takeEntries_books (n : Nat) (s : State) : BooksKept none s (takeEntries n s) :=
  (fillLog_books _ _).after rfl

end Sys2Proof.Machine

namespace Sys2Proof.Machine

open Sys2Proof

/-! ### Slots, records and notices: no matter of the books (R62, R98, R116 to R120, R160) -/

theorem notice_ledger (code : Nat) (pos : Pos) (s : State) : (notice code pos s).ledger = s.ledger := by
  unfold notice
  split <;> rfl

theorem takeReason_ledger (tag : Nat) (why : RejectReason) (s : State) : (takeReason tag why s).ledger = s.ledger :=
  modPiece_ledger fun r _ _ => by split <;> rfl

theorem writeEstimate_ledger (tag : Nat) (s : State) : (writeEstimate tag s).ledger = s.ledger := by
  unfold writeEstimate
  split
  · split
    · exact modPiece_ledger fun _ _ _ => rfl
    · rfl
  · rfl

theorem makeSlot_ledger {pos : Pos} {a : SlotAction} {d : Drive} {tag : Nat} {s t : State}
    (h : makeSlot pos a d tag s = some t) : t.ledger = s.ledger := by
  obtain ⟨place, rfl⟩ := makeSlot_some h
  exact modPiece_ledger (s := s) (tag := tag) (f := fun r => { r with actions := r.actions ++ [place] }) fun _ _ _ => rfl

theorem joinSlot_ledger (place tag : Nat) (s : State) : (joinSlot place tag s).ledger = s.ledger :=
  modPiece_ledger fun _ _ _ => rfl

theorem cancelSlots_ledger (tag : Nat) (places : List Nat) (s : State) : (cancelSlots tag places s).ledger = s.ledger := by
  rw [cancelSlots_eq]
  exact modPiece_ledger fun _ _ _ => rfl

theorem moveSlot_ledger (place : Nat) (pos : Pos) (s : State) : (moveSlot place pos s).ledger = s.ledger := by
  unfold moveSlot
  split <;> rfl

theorem refineSlot_ledger (tag : Nat) (x : Pos) (len : Nat) (pr : ProgramRec) (s : State) (place : Nat) :
    (refineSlot tag x len pr s place).ledger = s.ledger := by
  unfold refineSlot
  split
  · split
    · split
      · exact moveSlot_ledger _ _ s
      · rfl
    · rfl
  · rfl

theorem withoutSlot_ledger (y : Slot) (s : State) : (s.withoutSlot y).ledger = s.ledger :=
  mapped_ledger (s := s) fun r _ => by split <;> rfl

theorem removeSlot_ledger (y : Slot) (s : State) : (removeSlot y s).ledger = s.ledger := by
  rw [removeSlot_eq]
  exact withoutSlot_ledger y s

theorem fireSlot_ledger (y : Slot) (s : State) : (fireSlot y s).ledger = s.ledger := by
  rw [fireSlot_eq]
  exact withoutSlot_ledger y s

/-! ### Stack releases and drops counted (R115, R136, R137) -/

section
variable {hand : Option LotSlot}

theorem startRelease_books (b : Bin) (s : State) : BooksKept hand s (startRelease b s) := fun h => by
  unfold startRelease
  dsimp only
  split
  · next i holds =>
    exact h.used ((h.lots i).used_of_bin (((h.lots i).agree b).2 holds)) (fun _ => 0) Lot.lastUse
  · exact h

theorem requestRelease_books (b : Bin) (s : State) : BooksKept hand s (requestRelease b s) := by
  unfold requestRelease
  split
  · exact .refl s
  · split
    · exact .still rfl
    · exact startRelease_books b s

theorem startHeld_books (b : Bin) (s : State) : BooksKept hand s (startHeld b s) := by
  unfold startHeld
  split
  · exact startRelease_books b s
  · exact .refl s

/-- The drop of a record in use is counted for its lot, which is not FREE (R123, R136). -/
theorem countDropOf_books (d : Drive) {r : Piece} {s : State} (hr : r ∈ s.track.pool) :
    BooksKept hand s (countDropOf d r s) := fun h => by
  unfold countDropOf
  split
  · next b x lot =>
    have used := ((h.lots x.slot).named x ((mem_lotsNamed s x).2 ⟨r, hr, lot⟩) rfl).1
    have counted := h.used used (fun l => satStack l.stackCount) fun _ => s.line.p
    unfold countDrop
    dsimp only
    split
    · exact requestRelease_books b _ counted
    · exact counted
  · exact h

theorem measureTails_books (tag : Nat) (foot : LaneSet) (t : Pos) (s : State) :
    BooksKept hand s (measureTails tag foot t s) := by
  unfold measureTails
  dsimp only
  split
  · exact (examine_books _).after rfl
  · exact .refl s

end

/-! ### The Fold Planner and the expiries (R92 to R94, R100 to R112) -/

theorem expire_books (st : Stage) (tag : Nat) (s : State) : BooksKept none s (expire st tag s) :=
  (complete_books tag .lost (some st) (latchFault .lost s)).after rfl

theorem expireOrHold_books (st : Stage) (tag : Nat) (s : State) : BooksKept none s (expireOrHold st tag s) := by
  unfold expireOrHold
  split
  · split
    · exact .still rfl
    · exact expire_books st tag s
  · exact .refl s

theorem settleHeld_books (s : State) : BooksKept none s (settleHeld s) := by
  refine BooksKept.foldl (fun t tag => ?_) _ s
  unfold settleOne
  split
  · exact .still rfl
  · split
    · exact .still rfl
    · split
      · exact .still rfl
      · split
        · exact .refl t
        · exact (expire_books _ tag _).after rfl

theorem becomeUndiverted_books (tag : Nat) (s : State) : BooksKept none s (becomeUndiverted tag s) := by
  have changed : (s.modPiece tag fun r => { r with undiverted := true }).ledger = s.ledger := modPiece_ledger fun _ _ _ => rfl
  unfold becomeUndiverted
  dsimp only
  split
  · split
    · exact (expireOrHold_books .fold tag _).after changed
    · exact .still changed
  · exact .still changed

theorem lostForSlot_books (tag : Nat) (s : State) : BooksKept none s (lostForSlot tag s) :=
  (complete_books tag .lost (some .fold) (latchFault .noSlot (takeReason tag .slotFull s))).after
    (takeReason_ledger tag .slotFull s)

theorem rejectPlan_books (tag : Nat) (s : State) : BooksKept none s (rejectPlan tag s) := by
  unfold rejectPlan
  split
  · split
    · exact .refl s
    · dsimp only
      split
      · exact (becomeUndiverted_books tag (latchFault .undiverted s)).after rfl
      · split
        · next made => exact .still (makeSlot_ledger made)
        · exact lostForSlot_books tag s
  · exact .refl s

theorem planAway_books (tag : Nat) (s : State) : BooksKept none s (planAway tag s) := by
  unfold planAway
  split
  · exact (rejectPlan_books tag _).after (cancelSlots_ledger tag _ s)
  · exact .refl s

theorem reasonArrives_books (tag : Nat) (why : RejectReason) (s : State) : BooksKept none s (reasonArrives tag why s) := by
  unfold reasonArrives
  split
  · split
    · exact .refl s
    · dsimp only
      split
      · exact (planAway_books tag _).after (takeReason_ledger tag why s)
      · exact .still (takeReason_ledger tag why s)
  · exact .refl s

theorem askAll_books (tag : Nat) (l : List PlanRequest) (s : State) : BooksKept none s (askAll tag l s) := by
  induction l generalizing s with
  | nil => exact .refl s
  | cons q l ih =>
    cases q with
    | join place => exact (ih _).after (joinSlot_ledger place tag s)
    | make pos a d =>
      unfold askAll
      split
      · next made => exact (ih _).after (makeSlot_ledger made)
      · exact (planAway_books tag _).after (takeReason_ledger tag .slotFull s)

theorem foldPlan_books (tag : Nat) (r : Piece) (pr : ProgramRec) (s : State) : BooksKept none s (foldPlan tag r pr s) := by
  have rejected (why : RejectReason) : BooksKept none s (rejectPlan tag (takeReason tag why s)) :=
    (rejectPlan_books tag _).after (takeReason_ledger tag why s)
  unfold foldPlan
  extract_lets x len folds cross
  split
  · exact rejected .lateFold
  · clear_value cross
    cases cross with
    | none => exact askAll_books tag _ s
    | some q =>
      dsimp only
      split
      · exact rejected .xfConflict
      · exact askAll_books tag _ s
      · exact askAll_books tag _ s

theorem planExit_books (tag : Nat) (s : State) : BooksKept none s (planExit tag s) := by
  have estimated := writeEstimate_ledger tag s
  unfold planExit
  dsimp only
  split
  · split
    · split
      · exact (foldPlan_books tag _ _ _).after estimated
      · exact (rejectPlan_books tag _).after estimated
    · exact (rejectPlan_books tag _).after estimated
  · exact .still estimated

theorem exitLengthKnown_books (tag len : Nat) (s : State) : BooksKept none s (exitLengthKnown tag len s) := by
  unfold exitLengthKnown
  split
  · split
    · split
      · exact reasonArrives_books tag .exitMismatch s
      · exact .still (foldl_keeps (fun t place => refineSlot_ledger _ _ _ _ t place) _ s)
    · exact .refl s
  · exact .refl s

theorem planDrop_books (tag : Nat) (s : State) : BooksKept none s (planDrop tag s) := by
  unfold planDrop
  split
  · split
    · next b _ =>
      have noted : (s.modPiece tag fun r => { r with bin := some b }).ledger = s.ledger := modPiece_ledger fun _ _ _ => rfl
      dsimp only
      split
      · next made => exact .still ((makeSlot_ledger made).trans noted)
      · exact (lostForSlot_books tag _).after noted
    · exact complete_books tag .stacked none s
  · exact .refl s

end Sys2Proof.Machine

namespace Sys2Proof.Machine

open Sys2Proof

/-! ### Records that move from zone to zone (R68) -/

/-- The record of a tag, if there is one, does not wait for its entry. -/
def Going (s : State) (tag : Nat) : Prop := ∀ r ∈ s.track.pool, r.tag = tag → r.state ≠ .donePending

/-- A record that does not wait, changed into one that does not either, in what the accounts do not read. -/
theorem standing_of_going {r q : Piece} (tag : q.tag = r.tag) (lot : q.lot = r.lot) (program : q.program = r.program)
    (completion : q.completion = r.completion) (going : r.state ≠ .donePending) (still : q.state ≠ .donePending) :
    q.standing = r.standing := by
  simp only [Piece.standing, tag, lot, program, completion, going, still]

theorem moveRecord_ledger {tag : Nat} {z : Zone} {f : Piece → Piece} {s : State}
    (hf : ∀ r ∈ s.track.pool, r.tag = tag → (f r).standing = r.standing) : (moveRecord tag z f s).ledger = s.ledger := by
  have changed := modPiece_ledger hf
  unfold moveRecord
  dsimp only
  split
  · refine Eq.trans ?_ changed
    cases z <;> rfl
  · exact changed

section
variable {s : State} (pool : PoolRight s.track) (zones : ZonesRight s.track) {tag : Nat}
include pool

theorem going_of_mem {r : Piece} (hr : r ∈ s.track.pool) (own : r.tag = tag) (going : r.state ≠ .donePending) :
    Going s tag := by
  intro q hq tag
  rw [List.inj_on_of_nodup_map pool.nodup hq hr (tag.trans own.symm)]
  exact going

include zones

/-- The records in the lists of the lanes and in the FOLD zone do not wait (R66, R67). -/
theorem going_of_entry {w : Lane} (h : tag ∈ s.track.entryLists[w]) : Going s tag := by
  obtain ⟨r, hr, own, state, -⟩ := (zones.entry w tag).1 h
  exact going_of_mem pool hr own (by rw [state]; nofun)

theorem going_of_exit {w : Lane} (h : tag ∈ s.track.exitLists[w]) : Going s tag := by
  obtain ⟨r, hr, own, state, -⟩ := (zones.exit w tag).1 h
  exact going_of_mem pool hr own (by rw [state]; nofun)

theorem going_of_fold (h : tag ∈ s.track.foldZone) : Going s tag := by
  obtain ⟨r, hr, own, state⟩ := (zones.holds .fold tag).1 h
  exact going_of_mem pool hr own (by rw [state]; nofun)

end

/-- A record taken into use for a stray (R64). -/
theorem strayTaken_books {hand : Option LotSlot} {z : Zone} {f : Nat → Pos → Piece} {s : State} (room : 0 < s.freeRecords)
    (tag : ∀ g q, (f g q).tag = g) (lot : ∀ g q, (f g q).lot = none) (program : ∀ g q, (f g q).program = none)
    (going : ∀ g q, (f g q).state ≠ .donePending) : BooksKept hand s (takeRecord z f s).2 := fun h => by
  have room : s.track.pool.length < 64 := Nat.lt_of_sub_pos room
  have size : s.ledger.records.length < 64 := by
    show (s.track.pool.map Piece.standing).length < 64
    rwa [List.length_map]
  obtain ⟨fresh, range⟩ := takeRecord_fresh h room z f
  rw [takeRecord_ledger]
  refine h.strayTaken (decide_eq_false (going _ _)) size (fun q hq => ?_) range (lot _ _) (program _ _)
  rw [show (f (takeRecord z f s).1 s.track.takeCounter).standing.tag = (takeRecord z f s).1 from tag _ _]
  exact fresh q hq

/-! ### Accepted leading edges (R79 to R82, R85 to R87) -/

theorem untracked_ledger (code : Nat) (c : Pos) (s : State) : (untracked code c s).ledger = s.ledger := notice_ledger code c s

/-- Records changed but for tag and state. -/
theorem Going.mapped {s : State} {tag : Nat} (h : Going s tag) {g : Piece → Piece} (tags : ∀ r, (g r).tag = r.tag)
    (states : ∀ r, (g r).state = r.state) : Going { s with track := { s.track with pool := s.track.pool.map g } } tag := by
  intro q hq own
  obtain ⟨r, hr, rfl⟩ := List.mem_map.1 hq
  rw [states]
  exact h r hr ((tags r).symm.trans own)

theorem closeEntryLane_ledger (w : Lane) (s : State) : (closeEntryLane w s).ledger = s.ledger :=
  mapped_ledger (s := s) fun r _ => by split <;> rfl

theorem closeExitLane_ledger (w : Lane) (s : State) : (closeExitLane w s).ledger = s.ledger :=
  mapped_ledger (s := s) fun r _ => by split <;> rfl

section
variable {s : State} (pool : PoolRight s.track) (zones : ZonesRight s.track)
include pool zones

theorem leadEntry_books (w : Lane) (c : Pos) : BooksKept none s (leadEntry w c s) := by
  have closed := closeEntryLane_ledger w s
  unfold leadEntry
  dsimp only
  split
  · exact .still (Eq.trans (modPiece_ledger (by exact fun _ _ _ => rfl)) closed)
  · split
    · next t _ row =>
      have mem : t ∈ s.track.entryLists[w] :=
        ((mem_select (closeEntryLane w s) _ _ t).1 (row ▸ List.mem_cons_self)).1
      have going : Going (closeEntryLane w s) t :=
        (going_of_entry pool zones mem).mapped (fun r => by split <;> rfl) fun r => by split <;> rfl
      refine .still (Eq.trans (moveRecord_ledger fun r hr own => ?_) closed)
      exact standing_of_going rfl rfl rfl rfl (going r hr own) (nofun : PieceState.ironing ≠ .donePending)
    · split
      · next room =>
        exact (strayTaken_books room (fun _ _ => rfl) (fun _ _ => rfl) (fun _ _ => rfl)
          fun _ _ => (nofun : PieceState.ironing ≠ .donePending)).after closed
      · exact .still ((untracked_ledger _ c _).trans closed)

theorem leadExit_books (w : Lane) (c : Pos) : BooksKept none s (leadExit w c s) := by
  have closed := closeExitLane_ledger w s
  unfold leadExit
  dsimp only
  split
  · exact .still (Eq.trans (modPiece_ledger (by exact fun _ _ _ => rfl)) closed)
  · split
    · next t _ row =>
      have mem : t ∈ s.track.exitLists[w] := ((mem_select (closeExitLane w s) _ _ t).1 (row ▸ List.mem_cons_self)).1
      have going : Going (closeExitLane w s) t :=
        (going_of_exit pool zones mem).mapped (fun r => by split <;> rfl) fun r => by split <;> rfl
      refine (planExit_books t _).after (Eq.trans (moveRecord_ledger fun r hr own => ?_) closed)
      exact standing_of_going rfl rfl rfl rfl (going r hr own) (nofun : PieceState.folding ≠ .donePending)
    · split
      · next room =>
        have taken := strayTaken_books (hand := none) (z := .fold) (f := exitStray w c) room (fun _ _ => rfl)
          (fun _ _ => rfl) (fun _ _ => rfl) fun _ _ => (nofun : PieceState.folding ≠ .donePending)
        exact (taken.after closed).trans (planExit_books _ _)
      · exact .still ((untracked_ledger _ c _).trans closed)

end

/-! ### The stacker's row (R90)

The records of a row are completed one after another; none of them waits before its turn comes. -/

/-- A written record puts no other record in the order (R140). -/
theorem writePiece_pieces {g tag : Nat} {s : State} (h : .piece g ∈ (writePiece tag s).log.order) :
    .piece g ∈ s.log.order := by
  have order {t u : State} (same : t.tables = u.tables) : t.log.order = u.log.order :=
    congrArg (fun v : CompletionLog × List Slot × Pos => v.1.order) same
  rcases writePiece_writes tag s with nothing | ⟨b, u, same, none_ | ⟨i, summary⟩⟩
  · rwa [nothing] at h
  · rwa [order none_, order same] at h
  · have old : u.log.order = s.log.order := (order same).trans rfl
    rw [order summary, requestSummary_eq] at h
    unfold State.summaryAsked at h
    split at h
    · exact old ▸ h
    · rw [← old]
      exact (List.mem_append.1 h).resolve_right fun k => nomatch List.mem_singleton.1 k

/-- A completion puts no record but its own in the order (R159). -/
theorem complete_pieces {g tag : Nat} (other : g ≠ tag) {k : CompletionKind} {st : Option Stage} {s : State}
    (h : .piece g ∈ (complete tag k st s).log.order) : .piece g ∈ s.log.order := by
  cases hr : s.piece? tag with
  | none => rwa [show complete tag k st s = s by rw [complete, hr]] at h
  | some r =>
    obtain ⟨-, rfl⟩ := piece?_some hr
    cases incomplete : r.completion with
    | some c => rwa [complete_of_done hr (by rw [incomplete]; rfl)] at h
    | none =>
      rw [complete_eq hr incomplete, requestPiece] at h
      split at h
      · exact (writePiece_pieces h :)
      · exact (List.mem_append.1 h).resolve_right fun k =>
          other (PendingWrite.piece.inj (List.mem_singleton.1 k))

theorem planDrop_pieces {g tag : Nat} (other : g ≠ tag) {s : State} (h : .piece g ∈ (planDrop tag s).log.order) :
    .piece g ∈ s.log.order := by
  unfold planDrop at h
  split at h
  · split at h
    · dsimp only at h
      split at h
      · next made =>
        obtain ⟨place, rfl⟩ := makeSlot_some made
        exact h
      · exact (complete_pieces other h :)
    · exact complete_pieces other h
  · exact h

theorem matchStacker_pieces {g tag : Nat} (other : g ≠ tag) {c : Pos} {s : State}
    (h : .piece g ∈ (matchStacker c s tag).log.order) : .piece g ∈ s.log.order := by
  have moved := planDrop_pieces other h
  rwa [moveRecord_track] at moved

theorem matchRow_books (c : Pos) {row : List Nat} {s : State} (once : row.Nodup)
    (going : ∀ t ∈ row, .piece t ∉ s.log.order) : BooksKept none s (row.foldl (matchStacker c) s) := by
  induction row generalizing s with
  | nil => exact .refl s
  | cons t row ih =>
    intro h
    obtain ⟨fresh, once⟩ := List.nodup_cons.1 once
    have moved : (moveRecord t .drop (fun r => { r with state := .dropping, stackerLead := some c }) s).ledger = s.ledger :=
      moveRecord_ledger fun r hr own => standing_of_going rfl rfl rfl rfl
        (fun waits => going t List.mem_cons_self (own ▸ (h.piece_in_order hr).2 waits))
        (nofun : PieceState.dropping ≠ .donePending)
    have dropped : Books none (matchStacker c s t).ledger := (planDrop_books t _).after moved h
    refine ih once (fun u hu waits => ?_) dropped
    have other : u ≠ t := fun e => fresh (e ▸ hu)
    exact going u (List.mem_cons_of_mem t hu) (matchStacker_pieces other waits)

theorem leadStacker_books {s : State} (pool : PoolRight s.track) (zones : ZonesRight s.track) (c : Pos) :
    BooksKept none s (leadStacker c s) := by
  unfold leadStacker
  split
  · exact .still (notice_ledger 48 c s)
  · refine fun h => matchRow_books c ((zones.nodup .fold).filter _) (fun t ht waits => ?_) h
    obtain ⟨r, hr, own, state⟩ := (exists_waits_iff s t).1 ((h.pieces t).1 waits)
    exact going_of_fold pool zones ((mem_select s _ _ t).1 ht).1 r hr own state

theorem leadingEdge_books {s : State} (pool : PoolRight s.track) (zones : ZonesRight s.track) (e : Eye) (c : Pos) :
    BooksKept none s (leadingEdge e c s) := by
  cases e with
  | n w => exact leadEntry_books pool zones w c
  | x w => exact leadExit_books pool zones w c
  | k => exact leadStacker_books pool zones c

end Sys2Proof.Machine

namespace Sys2Proof.Machine

open Sys2Proof

/-! ### Trailing edges and the eyes (R9 to R17, R83, R84, R88) -/

theorem lengthCheck_books (tag len : Nat) (pr : ProgramRec) (s : State) : BooksKept none s (lengthCheck tag len pr s) := by
  unfold lengthCheck
  split
  · exact reasonArrives_books tag .joined s
  · split
    · exact reasonArrives_books tag .short s
    · exact .refl s

theorem trailEntry_books (w : Lane) (t : Pos) (s : State) : BooksKept none s (trailEntry w t s) := by
  unfold trailEntry
  split
  · exact .refl s
  · next r _ =>
    have ended (e : LaneSet) : (s.modPiece r.tag fun r => { r with entryEnded := e }).ledger = s.ledger :=
      modPiece_ledger fun _ _ _ => rfl
    have measured (e : LaneSet) (len : Nat) : ((s.modPiece r.tag fun r => { r with entryEnded := e }).modPiece r.tag
        fun r => { r with entryLength := some len }).ledger = s.ledger :=
      (modPiece_ledger (by exact fun _ _ _ => rfl)).trans (ended e)
    dsimp only
    split
    · exact .still (ended _)
    · split
      · exact .still (measured _ _)
      · refine BooksKept.trans ?_ (measureTails_books _ _ _ _)
        split
        · exact (lengthCheck_books _ _ _ _).after (measured _ _)
        · exact .still (measured _ _)

theorem trailExit_books (w : Lane) (t : Pos) (s : State) : BooksKept none s (trailExit w t s) := by
  unfold trailExit
  split
  · exact .refl s
  · next r _ =>
    have ended (e : LaneSet) : (s.modPiece r.tag fun r => { r with exitEnded := e }).ledger = s.ledger :=
      modPiece_ledger fun _ _ _ => rfl
    dsimp only
    split
    · exact .still (ended _)
    · exact (exitLengthKnown_books _ _ _).after ((modPiece_ledger (by exact fun _ _ _ => rfl)).trans (ended _))

theorem trailingEdge_books (e : Eye) (t : Pos) (s : State) : BooksKept none s (trailingEdge e t s) := by
  cases e with
  | n w => exact trailEntry_books w t s
  | x w => exact trailExit_books w t s
  | k => exact .refl s

theorem goDark_ledger (e : Eye) (s : State) : (goDark e s).ledger = s.ledger := by
  unfold goDark
  split <;> rfl

theorem goLight_books (e : Eye) (s : State) : BooksKept none s (goLight e s) := by
  unfold goLight
  dsimp only
  split
  · exact .refl s
  · split
    · exact ((trailingEdge_books e _ _).trans (settleHeld_books _)).after rfl
    · exact (settleHeld_books _).after rfl

theorem acceptEye_books {s : State} (pool : PoolRight s.track) (zones : ZonesRight s.track) (e : Eye) :
    BooksKept none s (acceptEye e s) :=
  have lead := leadingEdge_books (s := s.modEye e fun x => { x with state := .accepted }) pool zones e (s.eye e).cLead
  (lead.trans (settleHeld_books _)).after rfl

theorem blockEye_ledger (e : Eye) (s : State) : (blockEye e s).ledger = s.ledger := notice_ledger _ _ _

/-! ### What an edge brings after the count (R9, R14, R15, R124) -/

theorem afterForward_books (s : State) : BooksKept none s (afterForward s) := by
  have eyes : BooksKept none s (eyesForward { s with due := [], heldExpiry := [] }) := by
    obtain ⟨u, hu, -⟩ := foldl_eyeForward { s with due := [], heldExpiry := [] }
    unfold eyesForward
    rw [hu]
    exact (BooksKept.foldl (fun t e => trailingEdge_books e t.line.p t) _ _).after rfl
  unfold afterForward
  dsimp only
  split
  · exact eyes.upTo rfl
  · exact eyes.upTo rfl

theorem afterReverse_ledger (s : State) : (afterReverse s).ledger = s.ledger := by
  obtain ⟨u, hu, -⟩ := afterReverse_eq s
  rw [hu]
  rfl

/-! ### The panel, ESTOP and the slots that fire (R20, R37, R113, R120 to R125) -/

theorem runPause_books (lost : Bool) (s : State) : BooksKept none s (runPause lost s) := by
  unfold runPause
  split
  · split <;> exact .still rfl
  · split
    · exact (examine_books _).after rfl
    · exact .refl s
  · exact .refl s

theorem press_books (k : StationIx) (s : State) : BooksKept none s (press k s) := by
  unfold press
  split
  · exact (examine_books _).after rfl
  · exact .refl s

theorem stopAll_ledger (s : State) : (stopAll s).ledger = s.ledger := by
  unfold stopAll
  rw [endRels_eq]
  rfl

theorem droppedFor_books (a : SlotAction) (s : State) (tag : Nat) : BooksKept none s (droppedFor a s tag) := by
  unfold droppedFor
  split
  · exact (becomeUndiverted_books tag (latchFault .undiverted s)).after rfl
  · exact expire_books .fold tag s
  · exact reasonArrives_books tag .foldMissed s

theorem dropPassed_books (fuel : Nat) (s : State) : BooksKept none s (dropPassed fuel s) := by
  induction fuel generalizing s with
  | zero => exact .refl s
  | succ n ih =>
    unfold dropPassed
    split
    · next y _ =>
      have dropped : BooksKept none s (dropSlot y s) :=
        BooksKept.after (BooksKept.foldl (droppedFor_books y.action) _ _)
          ((removeSlot_ledger y _).trans (notice_ledger _ _ s))
      exact dropped.trans (ih _)
    · exact .refl s

theorem releaseStop_books (s : State) : BooksKept none s (releaseStop s) :=
  have dropped : BooksKept none s (dropPassed Config.slotPlaces { s with inputs := { s.inputs with estop := false } }) :=
    (dropPassed_books _ _).after rfl
  dropped.trans (BooksKept.foldl (fun t b => startHeld_books b t) _ _)

theorem fireReject_books (y : Slot) (s : State) : BooksKept none s (fireReject y s) := by
  refine BooksKept.after (BooksKept.foldl (fun t tag => ?_) _ _) (fireSlot_ledger y s)
  split
  · exact complete_books tag _ none t
  · exact .refl t

theorem fireDrop_books (y : Slot) (s : State) : BooksKept none s (fireDrop y s) := by
  refine BooksKept.after (BooksKept.foldl (fun t tag => ?_) _ _) (fireSlot_ledger y s)
  split
  · next r hr => exact (countDropOf_books y.drive (piece?_some hr).1).trans (complete_books tag .stacked none _)
  · exact .refl t

/-! ### The values at reset (R34, R75, R127, R166) -/

/-- Without records, lots and waiting entries the books are right. -/
theorem books_of_initial {s : State} (track : s.track = TrackStore.initial) (lot : s.lot = LotUnit.initial)
    (programs : s.prog.inFlight = Vector.replicate 32 0) (log : s.log = CompletionLog.initial) : Books none s.ledger := by
  have records : s.ledger.records = [] := by
    show s.track.pool.map Piece.standing = []
    rw [track]
    rfl
  have order : s.ledger.order = [] := congrArg CompletionLog.order log
  have free (i : LotSlot) : s.ledger.lots[i] = Lot.free := by
    show s.lot.lots[i] = _
    rw [lot]
    exact Vector.getElem_replicate ..
  have unbound (b : Bin) : s.ledger.bins[b] = none := by
    show s.lot.bins[b] = _
    rw [lot]
    exact Vector.getElem_replicate ..
  refine {
    size := by rw [records]; exact Nat.zero_le _
    tags := by rw [records]; exact List.nodup_nil
    counter := ?_
    done := by rw [records]; nofun
    programs := fun ix => ?_
    lots := fun i => ?_
    distinct := fun i j hi => absurd (congrArg Lot.state (free i)) hi
    pieces := fun tag => by simp [records, order]
    orderNodup := by rw [order]; exact List.nodup_nil }
  · show 1 ≤ s.track.tagCounter ∧ s.track.tagCounter ≤ 65535
    rw [track]
    decide
  · show s.prog.inFlight[ix] = _
    rw [programs, records]
    exact Vector.getElem_replicate ..
  · rw [free]
    exact {
      conserved := fun used => absurd rfl used
      inFlight := by rw [records]; rfl
      named := by rw [records]; nofun
      bound := nofun
      agree := fun b => by rw [unbound]; exact iff_of_false nofun nofun
      free := fun _ => rfl
      usable := nofun
      closed := nofun
      waiting := by rw [order]; nofun
      summary := nofun
      inHand := nofun }

theorem switchOn_books (smp : PowerSamples) (s : State) : Books none (switchOn smp s).ledger := by
  obtain ⟨u, hu, -⟩ := resetEyes_eq (poweredUp smp s)
  rw [switchOn_eq, hu]
  exact books_of_initial rfl rfl rfl rfl

theorem restartAll_books (s : State) : Books none (restartAll s).ledger := by
  unfold restartAll
  extract_lets prog u
  obtain ⟨eyes, hu, -⟩ := resetEyes_eq u
  rw [hu]
  exact books_of_initial rfl rfl rfl rfl

end Sys2Proof.Machine

namespace Sys2Proof.Machine

open Sys2Proof

/-! ### The owners of the requests (R171) -/

theorem feedOwner_books (body : List Byte) (s : State) : BooksKept none s (feedOwner body s).1 := by
  have on : BooksKept none s (turnFeedOn s).1 := by
    unfold turnFeedOn
    split
    · exact .refl s
    · dsimp only
      split
      · exact .refl s
      · split
        · exact .still rfl
        · split
          · exact (examine_books (s.setFeed .run)).after rfl
          · exact .still rfl
  unfold feedOwner
  split
  · exact .still rfl
  · exact on
  · exact .refl s

theorem assignOwner_ledger (body : List Byte) (s : State) : (assignOwner body s).1.ledger = s.ledger := by
  unfold assignOwner
  dsimp only
  split
  · rfl
  · split
    · rfl
    · split
      · split <;> rfl
      · rfl

theorem enableOwner_books (body : List Byte) (s : State) : BooksKept none s (enableOwner body s).1 := by
  unfold enableOwner
  split
  · exact .refl s
  · split
    · exact .still rfl
    · unfold doEnable
      dsimp only [enableReply]
      split
      · exact (examine_books _).after rfl
      · exact .still rfl
    · unfold doClear
      split
      · exact .still rfl
      · exact .refl s
    · exact .refl s

theorem lotOf?_eq_none {s : State} {id : Nat} (h : s.lotOf? id = none) (j : LotSlot) :
    s.lot.lots[j].state = .free ∨ s.lot.lots[j].id ≠ id := by
  have passed := List.find?_eq_none.1 h j (mem_allLotSlots j)
  rw [Bool.and_eq_true, decide_eq_true_eq, beq_iff_eq] at passed
  by_cases free : s.lot.lots[j].state = .free
  · exact .inl free
  · exact .inr fun same => passed ⟨free, same⟩

theorem lotOpenOwner_books (body : List Byte) (s : State) : BooksKept none s (lotOpenOwner body s).1 := by
  unfold lotOpenOwner
  dsimp only
  split
  · exact .refl s
  · split
    · exact .refl s
    · split
      · exact .refl s
      · next unused =>
        split
        · exact .refl s
        · next i found =>
          have slot := List.find?_some found
          have free : s.lot.lots[i].state = .free := of_decide_eq_true slot
          have none_ := Option.not_isSome_iff_eq_none.1 unused
          exact fun h => h.opened free (lotOf?_eq_none none_) _ _

/-- A close with nothing in flight ends at once, and leaves no lot in hand (R139, R140). -/
theorem closeLot_books {i : LotSlot} {s : State} (opened : s.lot.lots[i].state = .opened) :
    BooksKept none s (closeLot i s) := fun h => by
  have begun : Books _ (s.closeBegun i).ledger := h.closing opened
  rcases Nat.eq_zero_or_pos s.lot.lots[i].inFlight with empty | flying
  · rw [show s.ledger.lots[i].inFlight = s.lot.lots[i].inFlight from rfl, if_pos empty] at begun
    rw [closeLot_ends empty]
    cases hb : s.lot.lots[i].bin with
    | none =>
      rw [closeUnbound_free hb]
      exact summaryAsked_books begun (by rw [closeBegun_lot]; exact hb)
    | some b =>
      have own := unbound_self i b (s.closeBegun i)
      rw [closeBegun_lot] at own
      have left : BooksKept (some i) (s.closeBegun i) ((s.closeBegun i).unbound i b) :=
        unbound_books (by rw [closeBegun_lot]; exact hb) (by rw [closeBegun_lot]; exact empty)
      rw [closeUnbound_bound hb]
      exact summaryAsked_books (left.trans (examine_books _) begun)
        ((examine_closingKept _).unbound (by rw [own]) (by rw [own]))
  · rw [show s.ledger.lots[i].inFlight = s.lot.lots[i].inFlight from rfl, if_neg (Nat.ne_of_gt flying)] at begun
    rwa [closeLot_inFlight flying]

theorem lotCloseOwner_books (body : List Byte) (s : State) : BooksKept none s (lotCloseOwner body s).1 := by
  unfold lotCloseOwner
  split
  · exact .refl s
  · dsimp only
    split
    · next opened => exact closeLot_books opened
    · exact .refl s

theorem programWriteOwner_books (body : List Byte) (s : State) : BooksKept none s (programWriteOwner body s).1 := by
  unfold programWriteOwner
  split
  · exact .refl s
  · split
    · exact .refl s
    · split
      · exact .refl s
      · split
        · exact (examine_books _).after rfl
        · exact .still rfl

/-- A settings record is put in force while no record is in use: the bins that leave use lose their lots, none of which ends a
close by it (R142, R153). -/
theorem leaveBins_books {s : State} (empty : s.track.pool = []) (c : LineSettings) (u : Vector EyeRec 9) :
    BooksKept none s (allBins.foldl leaveBin (inForce c u s)) := fun h => by
  have noPiece (j : LotSlot) : s.lot.lots[j].inFlight = 0 := by
    refine (h.lots j).inFlight.trans ?_
    rw [show s.ledger.records = s.track.pool.map Piece.standing from rfl, empty]
    rfl
  have noIdleClose : NoIdleClose (inForce c u s) := fun j closing bound => by
    have waits := ((h.lots j).closed closing (noPiece j)).resolve_right nofun
    have unbound : (inForce c u s).lot.lots[j].bin = none := ((h.lots j).waiting waits).2.1
    rw [unbound] at bound
    cases bound
  have left := leaveBins_left (s := inForce c u s) (fun j => (h.lots j).agree) noIdleClose
  have same : (allBins.foldl leaveBin (inForce c u s)).ledger =
      { s.ledger with
        lots := (allBins.foldl leaveBin (inForce c u s)).lot.lots
        bins := (allBins.foldl leaveBin (inForce c u s)).lot.bins
        usable := c.binsEnabled } := by
    generalize allBins.foldl leaveBin (inForce c u s) = t at left
    rw [left.rest]
    rfl
  rw [same]
  refine h.narrowed noPiece (fun b => ?_) (fun j b hb out => ?_) fun j use => left.kept j fun b hb _ => use b hb
  · rw [left.bins]
    exact if_congr (and_iff_right (mem_allBins b)) rfl rfl
  · exact left.unbound j b hb (mem_allBins b) out

theorem storeAsked_ledger (c : LineSettings) (replies : Bool) (s : State) : (storeAsked c replies s).ledger = s.ledger := rfl

theorem settingsWriteOwner_books (body : List Byte) (s : State) : BooksKept none s (settingsWriteOwner body s).1 := by
  unfold settingsWriteOwner
  split
  · exact .refl s
  · split
    · exact .refl s
    · next ready =>
      have empty : s.track.pool = [] := not_not.1 (not_or.1 ready).2
      split
      · exact .refl s
      · next c _ =>
        obtain ⟨u, -, put⟩ := putSettings_eq c (!s.link.quiet) s
        dsimp only
        rw [put]
        split
        · exact ((leaveBins_books empty c u).trans (examine_books _)).upTo (storeAsked_ledger c _ _)
        · next more => exact fun h => h.widened (Nat.le_of_not_lt more)

theorem purgeAll_books (tags : List Nat) (s : State) : BooksKept none s (purgeAll tags s) :=
  BooksKept.foldl (fun t tag => complete_books tag .purged none t) tags s

theorem purgeOwner_books (body : List Byte) (s : State) : BooksKept none s (purgeOwner body s).1 := by
  unfold purgeOwner
  split
  · unfold purgeByTag
    split
    · exact .refl s
    · split
      · exact .refl s
      · exact purgeAll_books _ s
  · split
    · exact .refl s
    · exact purgeAll_books _ s

theorem acknowledge_books (s : State) : BooksKept none s (acknowledge s) := by
  unfold acknowledge
  split
  · unfold releaseHeld
    split
    · split
      · exact (examine_books _).after rfl
      · exact .still rfl
    · exact .still rfl
  · exact .refl s

theorem BooksKept.ite {p : Prop} [Decidable p] {f g : State → State × Answer} {s : State} (hf : BooksKept none s (f s).1)
    (hg : BooksKept none s (g s).1) : BooksKept none s ((if p then f else g) s).1 := by
  split
  · exact hf
  · exact hg

/-- What the owner of a request does, in the order of the request table (R171). -/
theorem ownerOf_books (code : Byte) (body : List Byte) (s : State) : BooksKept none s (ownerOf code body s).1 := by
  obtain ⟨stationRead, lotRead, programRead, pieceRead, logPeek⟩ := readOwners_still body s
  have read {t : State} (same : t = s) : BooksKept none s t := .still (same ▸ rfl)
  unfold ownerOf
  refine .ite (feedOwner_books body s) <| .ite (.still (assignOwner_ledger body s)) <| .ite (enableOwner_books body s) <|
    .ite (read stationRead) <| .ite (lotOpenOwner_books body s) <| .ite (lotCloseOwner_books body s) <|
    .ite (read lotRead) <| .ite (programWriteOwner_books body s) <| .ite (read programRead) <|
    .ite (settingsWriteOwner_books body s) <| .ite (.refl s) <| .ite (read pieceRead) <| .ite (purgeOwner_books body s) <|
    .ite (read logPeek) <| .ite (takeEntries_books _ s) <| .ite (acknowledge_books s) <| .ite (.refl s) <|
    .ite (.still rfl) <| .ite (.still rfl) <| .ite (fun _ => restartAll_books s) (.refl s)

/-! ### The taking of a frame (R169 to R174) -/

theorem owe_ledger (code : Byte) (a : Answer) (s : State) : (owe code a s).ledger = s.ledger := by
  unfold owe
  split <;> rfl

theorem handleFrame_books (addr code : Byte) (body : List Byte) (s : State) :
    BooksKept none s (handleFrame addr code body s) := by
  have carried : BooksKept none s (carryOut code body (ownerOf code body) s).1 := by
    unfold carryOut
    split
    · exact .refl s
    · split
      · exact .refl s
      · exact ownerOf_books code body s
  unfold handleFrame
  split
  · split
    · exact carried
    · exact .refl s
  · split
    · split
      · exact .refl s
      · exact carried.upTo (owe_ledger _ _ _)
    · exact .refl s

theorem receiveChar_books (s : State) (c : Byte) : BooksKept none s (receiveChar s c) := by
  have buffered (t : State) : BooksKept none t (takeBuffer t) := by
    unfold takeBuffer
    split
    · split
      · exact handleFrame_books _ _ _ t
      · exact .refl t
    · exact .refl t
  unfold receiveChar
  dsimp only
  split
  · exact (buffered _).after rfl
  · exact .still rfl

theorem receiveChars_books (s : State) (cs : List Byte) : BooksKept none s (receiveChars s cs) :=
  BooksKept.foldl receiveChar_books cs s

theorem takeFrame_books (addr code : Byte) (body : List Byte) (s : State) : BooksKept none s (takeFrame addr code body s) := by
  unfold takeFrame
  split
  · exact .refl s
  · split
    · exact receiveChars_books s _
    · split
      · exact .still rfl
      · exact (handleFrame_books _ _ _ _).after rfl

theorem sendReply_ledger (s : State) : (sendReply s).ledger = s.ledger := by
  unfold sendReply
  split
  · rfl
  · split
    · rfl
    · split <;> rfl

end Sys2Proof.Machine

namespace Sys2Proof.Machine

open Sys2Proof

/-! ### Every step keeps the accounts -/

/-- The Program Store in what the accounts do not read: the records and their entries in the store. -/
theorem stored_ledger {s : State} {p : ProgramStore} (programs : p.inFlight = s.prog.inFlight)
    (settings : p.settings = s.prog.settings) : ({ s with prog := p } : State).ledger = s.ledger := by
  show { s.ledger with programs := p.inFlight, usable := p.settings.binsEnabled } = _
  rw [programs, settings]
  rfl

theorem failSupply_ledger (s : State) : (failSupply s).ledger = s.ledger := by
  unfold failSupply
  dsimp only
  split
  · rfl
  · next w _ _ => exact stored_ledger (s := s) (by cases w.record <;> rfl) (by cases w.record <;> rfl)

theorem whenPowered_books {f : State → State} {s t : State} (hf : BooksKept none s (f s)) (h : whenPowered f s = .next t) :
    BooksKept none s t := by
  unfold whenPowered at h
  split at h
  · cases h
    exact hf
  · cases h
    exact .refl s

/-- Every command keeps the books, where the zones hold the records that their states say. -/
theorem exec_books {c : Instr} {s t : State} (pool : PoolRight s.track) (zones : ZonesRight s.track)
    (h : exec c s = .next t) : BooksKept none s t := by
  have frame {addr code : Byte} {body : List Byte}
      (g : (.next (takeFrame addr code body s) : Host.Outcome State Fault Refusal) = .next t) : BooksKept none s t := by
    cases g
    exact takeFrame_books addr code body s
  cases c with
  | powerOn smp =>
    cases h
    split
    · exact fun _ => switchOn_books smp _
    · exact fun _ => switchOn_books smp s
  | countedEdge ch =>
    simp only [exec, execCountedEdge] at h
    refine whenPowered_books ?_ h
    split
    · exact (afterForward_books _).after rfl
    · exact .still (afterReverse_ledger _)
  | invalidTransition =>
    simp only [exec, execInvalidTransition] at h
    refine whenPowered_books ?_ h
    exact ((runPause_books true (speedCleared s)).after rfl).upTo (notice_ledger 1 s.line.p _)
  | speedWindowEnd =>
    simp only [exec, execSpeedWindowEnd] at h
    refine whenPowered_books ?_ h
    exact (runPause_books _ _).after rfl
  | eyeDark e =>
    simp only [exec, execEyeDark] at h
    exact whenPowered_books (.still (goDark_ledger e s)) h
  | eyeLight e =>
    simp only [exec, execEyeLight] at h
    exact whenPowered_books (goLight_books e s) h
  | eyeAccept e =>
    simp only [exec, execEyeAccept] at h
    refine whenPowered_books ?_ h
    split
    · exact (acceptEye_books (s := dropDue (.accept e) s) pool zones e).after rfl
    · exact .refl s
  | eyeBlocked e =>
    simp only [exec, execEyeBlocked] at h
    refine whenPowered_books ?_ h
    split
    · exact .still (blockEye_ledger e (dropDue (.block e) s))
    · exact .refl s
  | loadPress k =>
    simp only [exec, execLoadPress] at h
    refine whenPowered_books ?_ h
    split
    · exact .refl s
    · exact (press_books k (s.setButton k true)).after rfl
  | relPulseEnd k =>
    simp only [exec, execRelPulseEnd] at h
    refine whenPowered_books ?_ h
    split
    · exact .still rfl
    · exact .refl s
  | pulseEnd c =>
    simp only [exec, execPulseEnd] at h
    refine whenPowered_books ?_ h
    split
    · exact .refl s
    · split
      · exact (startHeld_books _ _).after rfl
      · exact .still rfl
  | estopActive =>
    simp only [exec, execEstopActive] at h
    refine whenPowered_books ?_ h
    split
    · exact .refl s
    · exact .still (stopAll_ledger s)
  | estopInactive =>
    simp only [exec, execEstopInactive] at h
    refine whenPowered_books ?_ h
    split
    · exact releaseStop_books s
    · exact .refl s
  | keyChange key =>
    simp only [exec, execKeyChange] at h
    refine whenPowered_books ?_ h
    split <;> exact .still rfl
  | lineRunChange active =>
    simp only [exec, execLineRunChange] at h
    refine whenPowered_books ?_ h
    exact (runPause_books _ _).after rfl
  | grantStep =>
    simp only [exec, execGrantStep] at h
    refine whenPowered_books ?_ h
    split
    · exact (examine_books (dropDue .grant s)).after rfl
    · exact .refl s
  | windowExpiry stage =>
    simp only [exec, execWindowExpiry] at h
    refine whenPowered_books ?_ h
    split
    · next tag _ => exact (expireOrHold_books stage tag (dropDue (.expiry tag) s)).after rfl
    · exact .refl s
  | foldSlotFire =>
    simp only [exec, execFoldSlotFire] at h
    refine whenPowered_books ?_ h
    split
    · split
      · exact .still (fireSlot_ledger _ s)
      · exact .refl s
    · exact .refl s
  | rejectSlotFire =>
    simp only [exec, execRejectSlotFire] at h
    refine whenPowered_books ?_ h
    split
    · split
      · exact fireReject_books _ s
      · exact .refl s
    · exact .refl s
  | dropSlotFire =>
    simp only [exec, execDropSlotFire] at h
    refine whenPowered_books ?_ h
    split
    · split
      · exact fireDrop_books _ s
      · exact .refl s
    · exact .refl s
  | idleUnbind slot =>
    simp only [exec, execIdleUnbind] at h
    refine whenPowered_books ?_ h
    split
    · next ready =>
      have empty : s.lot.lots[slot].inFlight = 0 := by
        simp only [idleReady, Bool.and_eq_true, beq_iff_eq] at ready
        exact ready.2.1.1.2
      exact ((unbindLot_books (s := dropDue (.idle slot) s) empty).after rfl).trans (examine_books _)
    · exact .refl s
  | storeWriteEnd =>
    simp only [exec, execStoreWriteEnd] at h
    refine whenPowered_books ?_ h
    split
    · exact .refl s
    · next w ws _ =>
      have ended : ({ s with prog := { storeEntry s.prog w.record with queue := ws } } : State).ledger = s.ledger :=
        stored_ledger (by cases w.record <;> rfl) (by cases w.record <;> rfl)
      split
      · exact .still ended
      · exact .still ended
  | reply =>
    simp only [exec, execReply] at h
    exact whenPowered_books (.still (sendReply_ledger s)) h
  | lineQuiet chars =>
    simp only [exec, execLineQuiet] at h
    exact whenPowered_books ((receiveChars_books s chars).upTo rfl) h
  | frameDiscarded f =>
    simp only [exec, execFrameDiscarded] at h
    exact whenPowered_books (receiveChars_books s f) h
  | unknownRequest addr code body =>
    cases h
    split
    · exact .refl s
    · exact takeFrame_books addr code body s
  | loadButtonRelease k =>
    simp only [exec, execLoadButtonRelease] at h
    exact whenPowered_books (.still rfl) h
  | powerFail =>
    simp only [exec, execPowerFail] at h
    exact whenPowered_books (.still (failSupply_ledger s)) h
  | parityOrFramingError chars =>
    simp only [exec, execParityOrFramingError] at h
    refine whenPowered_books ?_ h
    split
    · exact (receiveChars_books s _).upTo rfl
    · exact .refl s
  | lengthAbove240 addr code len =>
    simp only [exec, execLengthAbove240] at h
    refine whenPowered_books ?_ h
    split
    · exact receiveChars_books s _
    · exact .refl s
  | _ => exact frame h

/-- Settles O59: with its premises the books are right (`books_of_right`), every command keeps them so (`exec_books`), and right
books are right accounts. -/
theorem stepKeepsTheAccounts : Obligations.StepKeepsTheAccounts := by
  intro s t pool zones accounts h
  have books := books_of_right pool zones accounts
  unfold step at h
  split at h
  · cases h
    unfold idleTick
    split <;> exact Books.accountsRight (by exact books)
  · next c rest _ => exact (exec_books (s := { s with pending := rest }) pool zones h books).accountsRight

end Sys2Proof.Machine

namespace Sys2Proof.Machine

open Sys2Proof

/-! ### The store and its writes (R155, R175) -/

section
variable {s : State} (on : s.powered = true)
include on

theorem exec_powerFail : exec .powerFail s = .next (failSupply s) := whenPowered_on on failSupply

/-- The write under way ends: its record stands in its entry, and the reply that waited for it may be sent (R155, R175). -/
theorem exec_storeWriteEnd_underWay {w : StoreWrite} {rest : List StoreWrite} (queue : s.prog.queue = w :: rest) :
    exec .storeWriteEnd s =
      .next
        { s with
          prog := { storeEntry s.prog w.record with queue := rest }
          link := if w.replies then { s.link with owed := s.link.owed.map storeReady } else s.link } := by
  simp only [exec, execStoreWriteEnd, whenPowered_on on, queue]
  cases w.replies <;> rfl

end

theorem failSupply_noWrites {s : State} (empty : s.prog.queue = []) :
    failSupply s =
      { s with powered := false, sched := { s.sched with out := Outputs.allOff }, due := [], heldExpiry := [] } := by
  simp only [failSupply, empty]
  rfl

/-- The entry whose write is under way is spoilt, and the writes that wait are dropped (R155). -/
theorem failSupply_writes {s : State} {w : StoreWrite} {rest : List StoreWrite} (queue : s.prog.queue = w :: rest) :
    failSupply s =
      { s with
        powered := false, sched := { s.sched with out := Outputs.allOff }, due := [], heldExpiry := []
        prog := { spoilEntry s.prog w.record with queue := [] } } := by
  simp only [failSupply, queue]
  rfl

/-- Settles O31, by the write under way, and by the kind of record that it carries. -/
theorem storeWritesEndOrAreCutOff : Obligations.StoreWritesEndOrAreCutOff := by
  refine ⟨fun w rest s on queue => ?_, fun s on => ⟨fun empty => ?_, fun w rest queue => ?_⟩⟩
  · rw [exec_storeWriteEnd_underWay on queue]
    cases w.record <;> rfl
  · rw [exec_powerFail on, failSupply_noWrites empty]
  · rw [exec_powerFail on, failSupply_writes queue]
    cases w.record <;> rfl

/-! ### PROGRAM WRITE (R146, R147) -/

section
variable {ixb : Byte} {rec : List Byte} {s : State}

theorem programWriteOwner_locked (run : s.inputs.key = .run) :
    programWriteOwner (ixb :: rec) s = (s, .refuse .locked) := if_pos run

variable (setup : s.inputs.key = .setup)
include setup

theorem programWriteOwner_badIndex (bad : 32 ≤ ixb.toNat) :
    programWriteOwner (ixb :: rec) s = (s, .refuse .badIndex) := by
  simp only [programWriteOwner, setup, reduceCtorEq, if_false, rd8_first, programOf_none bad]

variable {ix : ProgramIx} (hix : ixb.toNat = ix.val)
include hix

theorem programWriteOwner_badValue (bad : readProgram (ixb :: rec) 1 = none) :
    programWriteOwner (ixb :: rec) s = (s, .refuse .badValue) := by
  simp only [programWriteOwner, setup, reduceCtorEq, if_false, rd8_first, programOf_some hix, bad]

/-- A record that passes is applied, or staged while the program has pieces in flight (R147). -/
theorem programWriteOwner_accepts {p : Program} (good : readProgram (ixb :: rec) 1 = some p) :
    programWriteOwner (ixb :: rec) s =
      if s.prog.inFlight[ix] = 0 then (applyProgram ix p (!s.link.quiet) s, .afterStore [1])
      else ({ s with prog := { s.prog with staged := s.prog.staged.set ix (some p) } }, .reply [2]) := by
  simp only [programWriteOwner, setup, reduceCtorEq, if_false, rd8_first, programOf_some hix, good]
  rfl

end

/-- A body of 19 characters is one of PROGRAM WRITE (R171). -/
theorem programWrite_fits {ixb : Byte} {rec : List Byte} (length : rec.length = 18) :
    (ixb :: rec).length ≤ 240 ∧ lengthFits 0x30 (ixb :: rec).length = true := by
  rw [List.length_cons, length]
  decide

section
variable {s : State} {addr ixb : Byte} {rec : List Byte} (h : Takes s addr) (length : rec.length = 18)
include h length

theorem programWrite_refused {why : RefuseReason}
    (owner : programWriteOwner (ixb :: rec) (s.received addr 0x30 (ixb :: rec)) =
      (s.received addr 0x30 (ixb :: rec), .refuse why)) :
    exec (.programWrite addr (ixb :: rec)) s = .next (s.turnedAway addr 0x30 (ixb :: rec) why) :=
  takeFrame_turnedAway h (programWrite_fits length).1 rfl (programWrite_fits length).2 owner

theorem programWrite_staged {t : State} {reply : List Byte}
    (owner : programWriteOwner (ixb :: rec) (s.received addr 0x30 (ixb :: rec)) = (t, .reply reply)) :
    exec (.programWrite addr (ixb :: rec)) s = .next (t.answered addr 0x30 reply) :=
  congrArg Host.Outcome.next (takeFrame_reply h (programWrite_fits length).1 rfl (programWrite_fits length).2 owner)

/-- The reply APPLIED waits for the store write (R155, R175). -/
theorem programWrite_applied {t : State} {reply : List Byte}
    (owner : programWriteOwner (ixb :: rec) (s.received addr 0x30 (ixb :: rec)) = (t, .afterStore reply)) :
    exec (.programWrite addr (ixb :: rec)) s = .next (owe 0x30 (.afterStore reply) t) := by
  obtain ⟨short, fits⟩ := programWrite_fits (ixb := ixb) length
  show Host.Outcome.next (takeFrame addr 0x30 (ixb :: rec) s) = _
  rw [takeFrame_takes h 0x30 (ixb :: rec) short, carryOut_fits _ _ rfl fits, ownerOf_programWrite, owner]

end

/-- Settles O23: the checks of R146 in their order; the examination after an apply leaves the link as it is
(`applyProgram_kept`), so that the quiet flag decides on the reply as before it. -/
theorem programWriteAppliesOrStages : Obligations.ProgramWriteAppliesOrStages := by
  intro addr ixb rec s h length
  let r := s.received addr 0x30 (ixb :: rec)
  refine ⟨fun run => ?_, fun setup => ⟨fun bad => ?_, fun ix hix => ⟨fun bad => ?_, fun p good =>
    ⟨fun flying => ?_, fun still => ?_⟩⟩⟩⟩
  · exact programWrite_refused h length (programWriteOwner_locked (s := r) run)
  · exact programWrite_refused h length (programWriteOwner_badIndex (s := r) setup bad)
  · exact programWrite_refused h length (programWriteOwner_badValue (s := r) setup hix bad)
  · exact programWrite_staged h length
      ((programWriteOwner_accepts (s := r) setup hix good).trans (if_neg (Nat.ne_of_gt flying)))
  · have quiet : (applyProgram ix p (!s.link.quiet) r).link.quiet = s.link.quiet := by
      rw [(applyProgram_kept ix p _ r).link]
      rfl
    refine (programWrite_applied h length ((programWriteOwner_accepts (s := r) setup hix good).trans (if_pos still))).trans ?_
    show Host.Outcome.next (owe 0x30 (.afterStore [1]) (applyProgram ix p (!s.link.quiet) r)) = _
    rw [owe, quiet]
    rfl

end Sys2Proof.Machine

namespace Sys2Proof.Machine

open Sys2Proof

/-! ### Numbers that fit their characters (R168) -/

/-- A number that fits two characters (R168). -/
theorem rd16_small {b : List Byte} {i n : Nat} (h : [b.getD i 0, b.getD (i + 1) 0] = le16 n) (small : n < 65536) :
    rd16 b i = n := by
  rw [rd16_of h, Nat.mod_eq_of_lt small]

/-- A number that fits four characters (R168). -/
theorem rd32_small {b : List Byte} {i n : Nat}
    (h : [b.getD i 0, b.getD (i + 1) 0, b.getD (i + 2) 0, b.getD (i + 3) 0] = le32 n) (small : n < 4294967296) :
    rd32 b i = n := by
  have fits : (BitVec.ofNat 32 n).toNat = n := Nat.mod_eq_of_lt small
  refine (rd32_of (p := BitVec.ofNat 32 n) ?_).trans fits
  rw [h, posBytes, fits]

theorem testBit_of_flags {b : List Byte} {i : Nat} {flags : List Bool} (h : b.getD i 0 = flagByte flags)
    (short : flags.length ≤ 8) (n : Nat) : (rd8 b i).testBit n = flags.getD n false := by
  rw [rd8, h]
  exact flagByte_getLsbD flags short n

/-! ### The tables of a settings record -/

theorem vector_ext_get {α : Type} {n : Nat} {v w : Vector α n} (h : ∀ i : Fin n, v[i] = w[i]) : v = w :=
  Vector.ext fun i hi => h ⟨i, hi⟩

theorem toList_four {α : Type} (v : Vector α 4) : v.toList = [v[0], v[1], v[2], v[3]] := by
  have parts : v = #v[v[0], v[1], v[2], v[3]] := vector_ext_get fun i =>
    match i with
    | 0 | 1 | 2 | 3 => rfl
  exact congrArg Vector.toList parts

theorem toList_six {α : Type} (v : Vector α 6) : v.toList = [v[0], v[1], v[2], v[3], v[4], v[5]] := by
  have parts : v = #v[v[0], v[1], v[2], v[3], v[4], v[5]] := vector_ext_get fun i =>
    match i with
    | 0 | 1 | 2 | 3 | 4 | 5 => rfl
  exact congrArg Vector.toList parts

/-- A check of a table, made index by index. -/
theorem vector_all_iff {α : Type} {n : Nat} {v : Vector α n} {p : α → Bool} :
    v.toList.all p = true ↔ ∀ i : Fin n, p v[i] = true := by
  rw [List.all_eq_true]
  refine ⟨fun h i => h _ (by simp), fun h x hx => ?_⟩
  obtain ⟨i, hi, rfl⟩ := List.getElem_of_mem hx
  exact h ⟨i, by simpa using hi⟩

/-! ### The checks of R145 and R152 -/

theorem within_iff {a b n : Nat} : within a b n = true ↔ a ≤ n ∧ n ≤ b := by
  rw [within, Bool.and_eq_true, decide_eq_true_eq, decide_eq_true_eq]

/-- The checks of a VALID program record (R145). -/
theorem programPasses_iff (r : ProgramRec) :
    programPasses (some r) = true ↔
      (200 ≤ r.nominal ∧ r.nominal ≤ 6000) ∧ (r.minLength ≤ r.nominal ∧ r.nominal ≤ r.maxLength ∧ r.maxLength ≤ 16383) ∧
        (50 ≤ r.gapMin ∧ r.gapMin ≤ 3000) ∧ (900 ≤ r.shrink ∧ r.shrink ≤ 1100) ∧ r.refineWindow ≤ 500 ∧
        r.folds.length ≤ 2 ∧ (∀ f ∈ r.folds, 1 ≤ f ∧ f ≤ 255) ∧ (∀ f g, r.folds = [f, g] → f < g) ∧
        (r.fold = false → r.folds = [] ∧ r.cross = false) := by
  have fold : (r.fold || (r.folds.isEmpty && !r.cross)) = true ↔ (r.fold = false → r.folds = [] ∧ r.cross = false) := by
    cases r.fold <;> simp
  simp only [programPasses, ProgramRec.passes, Bool.and_eq_true, within_iff, decide_eq_true_eq, List.all_eq_true,
    fold, Nat.zero_le, true_and, and_assoc]
  split
  · next f g two => simp [two]
  · next other =>
    have ascend : ∀ f g, r.folds = [f, g] → f < g := fun f g two => absurd two (other f g)
    rw [eq_true ascend, eq_self]

/-- The ranges of the line settings, and the order of the distances (R151, R152). -/
theorem settingsPass_iff (c : LineSettings) :
    c.passes = true ↔
      c.lanes ≠ 0#4 ∧ (∀ k : StationIx, c.dStation[k] ≤ 4000) ∧ (1000 ≤ c.lIron ∧ c.lIron ≤ 30000) ∧
        (∀ d ∈ [c.dPf, c.dRj, c.dXf, c.dStk], 100 ≤ d ∧ d ≤ 20000) ∧ (c.dPf ≤ c.dRj ∧ c.dRj < c.dXf ∧ c.dXf < c.dStk) ∧
        (∀ b : Bin, 100 ≤ c.dBin[b] ∧ c.dBin[b] ≤ 3000) ∧
        (∀ x ∈ [c.tolEntryEarly, c.tolEntryLate, c.tolExitEarly, c.tolExitLate, c.tolStkEarly, c.tolStkLate], x ≤ 2000) ∧
        (∀ x ∈ [c.tRel, c.tPf, c.tXf, c.tRj, c.tBin], x ≤ 250) ∧
        (∀ x ∈ [c.wRel, c.wPf, c.wXf, c.wRj, c.wBin, c.wSr], 5 ≤ x ∧ x ≤ 500) ∧ c.leadMax ≤ 1000 ∧
        (16 ≤ c.arming ∧ c.arming ≤ 1000) ∧ (100 ≤ c.xfCycle ∧ c.xfCycle ≤ 3000) ∧ (1 ≤ c.eyeMin ∧ c.eyeMin ≤ 50) ∧
        (1000 ≤ c.eyeBlock ∧ c.eyeBlock ≤ 30000) ∧ (50 ≤ c.speedMin ∧ c.speedMin ≤ 2000) ∧
        (50 ≤ c.speedNominal ∧ c.speedNominal ≤ 5000) ∧ c.lotGap ≤ 5000 ∧ (1 ≤ c.binsEnabled ∧ c.binsEnabled ≤ 6) ∧
        c.idleDistance ≤ 2000000 ∧ c.starveLimit ≤ 15 := by
  unfold LineSettings.passes
  simp only [Bool.and_eq_true, vector_all_iff]
  simp only [decide_eq_true_eq, List.all_eq_true, within_iff, Nat.zero_le, true_and, and_assoc]

/-! ### The program record in its characters (R176) -/

/-- The number in the byte of a width class (R176). -/
def widthNumber : WidthClass → Nat
  | .single => 1
  | .double => 2
  | .full => 3

theorem widthOf_some {n : Nat} {w : WidthClass} : widthOf n = some w ↔ n = widthNumber w := by
  constructor
  · intro h
    unfold widthOf at h
    split at h <;> cases h <;> rfl
  · rintro rfl
    cases w <;> rfl

/-- The program record of a width class w in the 18 characters b (R176). -/
def programFields (b : List Byte) (w : WidthClass) : ProgramRec where
  width := w
  nominal := rd16 b 2
  minLength := rd16 b 4
  maxLength := rd16 b 6
  gapMin := rd16 b 8
  shrink := rd16 b 10
  folds := [rd8 b 13, rd8 b 14].take (rd8 b 12)
  fold := (rd8 b 15).testBit 0
  cross := (rd8 b 15).testBit 1
  stack := (rd8 b 15).testBit 2
  refineWindow := rd16 b 16

/-- The record r stands in the 18 characters b, each field at its byte (R176). -/
def ProgramStands (b : List Byte) (r : ProgramRec) : Prop :=
  rd8 b 1 = widthNumber r.width ∧
    [2, 4, 6, 8, 10, 16].map (rd16 b) = [r.nominal, r.minLength, r.maxLength, r.gapMin, r.shrink, r.refineWindow] ∧
    rd8 b 12 = r.folds.length ∧ r.folds = [rd8 b 13, rd8 b 14].take (rd8 b 12) ∧
    [0, 1, 2].map (rd8 b 15).testBit = [r.fold, r.cross, r.stack]

theorem programStands_iff {b : List Byte} {r : ProgramRec} :
    ProgramStands b r ↔
      rd8 b 1 = widthNumber r.width ∧ rd8 b 12 ≤ 2 ∧ programFields b r.width = r := by
  have count : rd8 b 12 = ([rd8 b 13, rd8 b 14].take (rd8 b 12)).length ↔ rd8 b 12 ≤ 2 := by
    rw [List.length_take]
    simp
  constructor
  · rintro ⟨width, words, length, folds, flags⟩
    refine ⟨width, count.1 (folds ▸ length), ?_⟩
    simp only [List.map_cons, List.map_nil, List.cons.injEq, and_true] at words flags
    simp only [programFields, words, flags, ← folds]
  · rintro ⟨width, few, fields⟩
    refine ⟨width, ?_⟩
    rw [← fields]
    exact ⟨rfl, count.2 few, rfl, rfl⟩

section
variable {ix : Byte} {b : List Byte}

theorem readProgram_empty (h : rd8 b 0 = 0) : readProgram (ix :: b) 1 = some none := by
  have first : rd8 (ix :: b) 1 = 0 := h
  rw [readProgram, first]
  rfl

theorem readProgram_valid (h : rd8 b 0 = 1) :
    readProgram (ix :: b) 1 =
      (widthOf (rd8 b 1)).bind fun w =>
        if decide (rd8 b 12 ≤ 2) && programPasses (some (programFields b w)) then some (some (programFields b w))
        else none := by
  have first : rd8 (ix :: b) 1 = 1 := h
  have second : rd8 (ix :: b) (1 + 1) = rd8 b 1 := rfl
  rw [readProgram, first, second]
  cases widthOf (rd8 b 1) <;> rfl

theorem readProgram_neither (empty : rd8 b 0 ≠ 0) (valid : rd8 b 0 ≠ 1) : readProgram (ix :: b) 1 = none := by
  unfold readProgram
  split
  · next h => exact absurd h empty
  · next h => exact absurd h valid
  · rfl

theorem readProgram_empty_iff : readProgram (ix :: b) 1 = some none ↔ rd8 b 0 = 0 := by
  refine ⟨fun h => by_contra fun empty => ?_, readProgram_empty⟩
  by_cases valid : rd8 b 0 = 1
  · rw [readProgram_valid valid, Option.bind_eq_some_iff] at h
    obtain ⟨w, -, h⟩ := h
    split at h <;> cases h
  · rw [readProgram_neither empty valid] at h
    cases h

theorem readProgram_valid_iff {r : ProgramRec} :
    readProgram (ix :: b) 1 = some (some r) ↔ rd8 b 0 = 1 ∧ ProgramStands b r ∧ programPasses (some r) = true := by
  by_cases valid : rd8 b 0 = 1
  · rw [readProgram_valid valid, programStands_iff, Option.bind_eq_some_iff, and_iff_right valid]
    constructor
    · rintro ⟨w, width, h⟩
      split at h
      · next good =>
        cases h
        rw [Bool.and_eq_true, decide_eq_true_eq] at good
        exact ⟨⟨widthOf_some.1 width, good.1, rfl⟩, good.2⟩
      · cases h
    · rintro ⟨⟨width, few, fields⟩, passes⟩
      refine ⟨r.width, widthOf_some.2 width, ?_⟩
      rw [fields, passes, decide_eq_true few]
      rfl
  · refine ⟨fun h => ?_, fun h => absurd h.1 valid⟩
    by_cases empty : rd8 b 0 = 0
    · rw [readProgram_empty empty] at h
      cases h
    · rw [readProgram_neither empty valid] at h
      cases h

end

/-- The fractions read from the number and the two bytes that a list of at most two fractions is sent as. -/
theorem folds_of_bytes {l : List Nat} (few : l.length ≤ 2) (small : ∀ f ∈ l, 1 ≤ f ∧ f ≤ 255) :
    [(b8 (l.getD 0 0)).toNat, (b8 (l.getD 1 0)).toNat].take l.length = l := by
  have fits {n : Nat} (h : 1 ≤ n ∧ n ≤ 255) : (b8 n).toNat = n := (b8_toNat n).trans (Nat.mod_eq_of_lt (by omega))
  match l, few with
  | [], _ => rfl
  | [f], _ => exact congrArg (fun x => [x]) (fits (small f (by simp)))
  | [f, g], _ => exact congrArg₂ (fun x y => [x, y]) (fits (small f (by simp))) (fits (small g (by simp)))

/-- A record that passes stands in the characters it is sent as (R145, R176). -/
theorem programBytes_stands {r : ProgramRec} (passes : programPasses (some r) = true) :
    ProgramStands (programBytes (some r)) r := by
  obtain ⟨nominal, length, gap, shrink, window, few, folds, -⟩ := (programPasses_iff r).1 passes
  have count : rd8 (programBytes (some r)) 12 = r.folds.length := rd8_small rfl (by omega)
  refine ⟨?width, ?words, count, ?folds, ?flags⟩
  case width =>
    show (widthCode r.width).toNat = _
    cases r.width <;> rfl
  case words =>
    simp only [List.map_cons, List.map_nil, List.cons.injEq, and_true]
    exact ⟨rd16_small rfl (by omega), rd16_small rfl (by omega), rd16_small rfl (by omega), rd16_small rfl (by omega),
      rd16_small rfl (by omega), rd16_small rfl (by omega)⟩
  case folds =>
    rw [count]
    exact (folds_of_bytes few folds).symm
  case flags =>
    have bit := testBit_of_flags (b := programBytes (some r)) (i := 15) rfl (Nat.le_of_ble_eq_true rfl)
    simp only [List.map_cons, List.map_nil, List.cons.injEq, and_true]
    exact ⟨bit 0, bit 1, bit 2⟩

theorem readProgram_programBytes {p : Program} (ix : Byte) (passes : programPasses p = true) :
    readProgram (ix :: programBytes p) 1 = some p := by
  cases p with
  | none => exact readProgram_empty rfl
  | some r => exact readProgram_valid_iff.2 ⟨rfl, programBytes_stands passes, passes⟩

/-! ### The line settings record in its characters (R171) -/

/-- The byte of a fault mode (R171). -/
def faultModeByte : FaultMode → Nat
  | .hold => 0
  | .carryOn => 1

/-- The byte of a rotation order (R171). -/
def rotationByte : Rotation → Nat
  | .sequential => 0
  | .crossed => 1

theorem faultModeOf_some {n : Nat} {m : FaultMode} : faultModeOf n = some m ↔ n = faultModeByte m := by
  constructor
  · intro h
    unfold faultModeOf at h
    split at h <;> cases h <;> rfl
  · rintro rfl
    cases m <;> rfl

theorem rotationOf_some {n : Nat} {r : Rotation} : rotationOf n = some r ↔ n = rotationByte r := by
  constructor
  · intro h
    unfold rotationOf at h
    split at h <;> cases h <;> rfl
  · rintro rfl
    cases r <;> rfl

/-- The record c stands in the 83 characters b, each field at its byte (R171). -/
def SettingsStand (b : List Byte) (c : LineSettings) : Prop :=
  rd8 b 0 = c.lanes.toNat ∧ (∀ k : StationIx, rd16 b (1 + 2 * k.val) = c.dStation[k]) ∧
    [9, 11, 13, 15, 17].map (rd16 b) = [c.lIron, c.dPf, c.dRj, c.dXf, c.dStk] ∧
    (∀ d : Bin, rd16 b (19 + 2 * d.val) = c.dBin[d]) ∧
    [31, 33, 35, 37, 39, 41].map (rd16 b) =
      [c.tolEntryEarly, c.tolEntryLate, c.tolExitEarly, c.tolExitLate, c.tolStkEarly, c.tolStkLate] ∧
    [43, 44, 45, 46, 47].map (rd8 b) = [c.tRel, c.tPf, c.tXf, c.tRj, c.tBin] ∧
    [48, 50, 52, 54, 56, 58].map (rd16 b) = [c.wRel, c.wPf, c.wXf, c.wRj, c.wBin, c.wSr] ∧
    [60, 62, 64].map (rd16 b) = [c.leadMax, c.arming, c.xfCycle] ∧ rd8 b 66 = c.eyeMin ∧
    [67, 69, 71, 73].map (rd16 b) = [c.eyeBlock, c.speedMin, c.speedNominal, c.lotGap] ∧ rd8 b 75 = c.binsEnabled ∧
    rd32 b 76 = c.idleDistance ∧ rd8 b 80 = faultModeByte c.faultMode ∧ rd8 b 81 = rotationByte c.rotation ∧
    rd8 b 82 = c.starveLimit

/-- A record that is read stands in its characters and passes (R152). -/
theorem readSettings_stands {b : List Byte} {c : LineSettings} (h : readSettings b = some c) :
    SettingsStand b c ∧ c.passes = true := by
  unfold readSettings at h
  split at h
  · next fm rot mode rotation =>
    dsimp only at h
    split at h
    · next good =>
      cases h
      rw [Bool.and_eq_true, decide_eq_true_eq] at good
      obtain ⟨lanes, passes⟩ := good
      refine ⟨⟨?_, ?_, rfl, ?_, rfl, rfl, rfl, rfl, rfl, rfl, rfl, rfl, faultModeOf_some.1 mode, rotationOf_some.1 rotation,
        rfl⟩, passes⟩
      · exact (Nat.mod_eq_of_lt lanes).symm
      · intro k
        match k with
        | 0 | 1 | 2 | 3 => rfl
      · intro d
        match d with
        | 0 | 1 | 2 | 3 | 4 | 5 => rfl
    · cases h
  · cases h

/-- A record that stands in its characters and passes is read (R152). -/
theorem readSettings_of_stands {b : List Byte} {c : LineSettings} (h : SettingsStand b c) (passes : c.passes = true) :
    readSettings b = some c := by
  obtain ⟨lanes, stations, positions, bins, tolerances, delays, widths, lengths, eyeMin, speeds, enabled, idle, mode, rotation,
    starve⟩ := h
  have lanesFit : rd8 b 0 < 16 := lanes ▸ c.lanes.isLt
  have lanesRead : BitVec.ofNat 4 (rd8 b 0) = c.lanes := by rw [lanes, BitVec.ofNat_toNat, BitVec.setWidth_eq]
  have stationsRead : #v[rd16 b 1, rd16 b 3, rd16 b 5, rd16 b 7] = c.dStation := vector_ext_get fun k =>
    match k with
    | 0 => stations 0
    | 1 => stations 1
    | 2 => stations 2
    | 3 => stations 3
  have binsRead : #v[rd16 b 19, rd16 b 21, rd16 b 23, rd16 b 25, rd16 b 27, rd16 b 29] = c.dBin := vector_ext_get fun d =>
    match d with
    | 0 => bins 0
    | 1 => bins 1
    | 2 => bins 2
    | 3 => bins 3
    | 4 => bins 4
    | 5 => bins 5
  simp only [List.map_cons, List.map_nil, List.cons.injEq, and_true] at positions tolerances delays widths lengths speeds
  simp only [readSettings, faultModeOf_some.2 mode, rotationOf_some.2 rotation, lanesFit, lanesRead, stationsRead, binsRead,
    positions, tolerances, delays, widths, lengths, eyeMin, speeds, enabled, idle, starve, passes]
  rfl

theorem readSettings_iff {b : List Byte} {c : LineSettings} :
    readSettings b = some c ↔ SettingsStand b c ∧ c.passes = true :=
  ⟨readSettings_stands, fun h => readSettings_of_stands h.1 h.2⟩

/-- A record that passes stands in the characters it is sent as (R152, R171). -/
theorem settingsBytes_stands {c : LineSettings} (passes : c.passes = true) : SettingsStand (settingsBytes c) c := by
  obtain ⟨-, dStation, lIron, positions, -, dBin, tolerances, delays, widths, leadMax, arming, xfCycle, eyeMin, eyeBlock,
    speedMin, speedNominal, lotGap, enabled, idle, starve⟩ := (settingsPass_iff c).1 passes
  have stationFits (k : StationIx) : c.dStation[k] < 65536 := Nat.lt_of_le_of_lt (dStation k) (by decide)
  have binFits (d : Bin) : c.dBin[d] < 65536 := Nat.lt_of_le_of_lt (dBin d).2 (by decide)
  simp only [List.forall_mem_cons, List.not_mem_nil, false_imp_iff, implies_true, and_true]
    at positions tolerances delays widths
  generalize bytes : settingsBytes c = b
  simp only [SettingsStand, List.map_cons, List.map_nil, List.cons.injEq, and_true]
  unfold settingsBytes at bytes
  simp only [toList_four, toList_six, le16, le32, List.flatMap_cons, List.flatMap_nil, List.cons_append, List.nil_append,
    List.append_nil] at bytes
  subst bytes
  refine ⟨rd8_lanes rfl, fun k => ?stations, ⟨?_, ?_, ?_, ?_, ?_⟩, fun d => ?bins, ⟨?_, ?_, ?_, ?_, ?_, ?_⟩, ?delays,
    ⟨?_, ?_, ?_, ?_, ?_, ?_⟩, ⟨?_, ?_, ?_⟩, rd8_small rfl (by omega), ⟨?_, ?_, ?_, ?_⟩, rd8_small rfl (by omega),
    rd32_small rfl (by omega), ?mode, ?rotation, rd8_small rfl (by omega)⟩
  case stations =>
    match k with
    | 0 => exact rd16_small rfl (stationFits 0)
    | 1 => exact rd16_small rfl (stationFits 1)
    | 2 => exact rd16_small rfl (stationFits 2)
    | 3 => exact rd16_small rfl (stationFits 3)
  case bins =>
    match d with
    | 0 => exact rd16_small rfl (binFits 0)
    | 1 => exact rd16_small rfl (binFits 1)
    | 2 => exact rd16_small rfl (binFits 2)
    | 3 => exact rd16_small rfl (binFits 3)
    | 4 => exact rd16_small rfl (binFits 4)
    | 5 => exact rd16_small rfl (binFits 5)
  case delays =>
    exact ⟨rd8_small rfl (by omega), rd8_small rfl (by omega), rd8_small rfl (by omega), rd8_small rfl (by omega),
      rd8_small rfl (by omega)⟩
  case mode => cases c.faultMode <;> rfl
  case rotation => cases c.rotation <;> rfl
  all_goals exact rd16_small rfl (by omega)

/-- Settles O20: each record is read from its characters exactly when it stands in them (`readProgram_valid_iff`,
`readSettings_iff`) and passes, and one that passes stands in the characters it is sent as. -/
theorem storedRecordsReadBackAsWritten : Obligations.StoredRecordsReadBackAsWritten := by
  refine ⟨fun p ix => readProgram_programBytes ix, fun c passes => ?_, programPasses_iff, fun ix b _ => ⟨?_, fun r => ?_⟩,
    settingsPass_iff, fun b c _ => ?_, ?_⟩
  · exact readSettings_iff.2 ⟨settingsBytes_stands passes, passes⟩
  · exact readProgram_empty_iff
  · simp only [readProgram_valid_iff, ProgramStands, and_assoc]
    rfl
  · simp only [readSettings_iff, SettingsStand, and_assoc]
    rfl
  · decide

end Sys2Proof.Machine

namespace Sys2Proof.Machine

open Sys2Proof

/-! ### A waiting request that is written (R140, R159) -/

/-- The entry of a waiting request is read from the records and the lots. -/
theorem waitingBody_congr {s t : State} (track : t.track = s.track) (lot : t.lot = s.lot) (w : PendingWrite) :
    waitingBody t w = waitingBody s w := by
  cases w with
  | piece tag => simp only [waitingBody, State.piece?, track]
  | lot i => simp only [waitingBody, lot]

theorem writePending_eq (w : PendingWrite) (s : State) : writePending w s = s.waitingWritten w := by
  cases w with
  | lot i => rfl
  | piece tag =>
    show writePiece tag s = s.waitingWritten (.piece tag)
    cases hr : s.piece? tag with
    | none => simp only [writePiece, State.waitingWritten, hr]
    | some r =>
      cases hc : r.completion with
      | none => simp only [writePiece, State.waitingWritten, hr, hc]
      | some c => simp only [writePiece_eq hr hc, State.waitingWritten, hr, hc]

/-- The write of a waiting request: nothing for a tag that no completed record holds, and otherwise its entry under the next
number, before whatever its writer's work adds. -/
theorem waitingWritten_cases (s : State) (w : PendingWrite) :
    (waitingBody s w = none ∧ s.waitingWritten w = s) ∨
      ∃ b, waitingBody s w = some b ∧ (s.withEntry b).log.entries <+: (s.waitingWritten w).log.entries ∧
        (s.waitingWritten w).log.dropped = s.log.dropped := by
  cases w with
  | lot i => exact .inr ⟨.lot (lotEntry s.lot.lots[i]), rfl, List.prefix_rfl, rfl⟩
  | piece tag =>
    cases hr : s.piece? tag with
    | none => exact .inl ⟨by simp [waitingBody, hr], by simp only [State.waitingWritten, hr]⟩
    | some r =>
      cases hc : r.completion with
      | none => exact .inl ⟨by simp [waitingBody, hr, hc], by simp only [State.waitingWritten, hr, hc]⟩
      | some c =>
        have written : s.waitingWritten (.piece tag) = s.pieceDone r c := by simp only [State.waitingWritten, hr, hc]
        have work := pieceDone_workKept s r c
        rw [written]
        exact .inr ⟨.piece (pieceEntry r c), by simp [waitingBody, hr, hc], work.entries, work.dropped⟩

theorem waitingWritten_entry {s : State} {w : PendingWrite} {b : EntryBody} (body : waitingBody s w = some b) :
    (s.withEntry b).log.entries <+: (s.waitingWritten w).log.entries := by
  rcases waitingWritten_cases s w with ⟨none_, -⟩ | ⟨b', body', entry, -⟩
  · cases body.symm.trans none_
  · cases body.symm.trans body'
    exact entry

/-- The write of a waiting request takes no entry out and drops no notice. -/
theorem waitingWritten_log (s : State) (w : PendingWrite) :
    s.log.entries <+: (s.waitingWritten w).log.entries ∧ (s.waitingWritten w).log.dropped = s.log.dropped := by
  rcases waitingWritten_cases s w with ⟨-, nothing⟩ | ⟨b, -, entry, dropped⟩
  · rw [nothing]
    exact ⟨List.prefix_rfl, rfl⟩
  · exact ⟨(List.prefix_append _ _).trans entry, dropped⟩

/-! ### The room of the log filled (R162) -/

/-- The order of pending writes is ws (R159). -/
def State.ordering (s : State) (ws : List PendingWrite) : State := { s with log := { s.log with order := ws } }

theorem fillLog_empty {s : State} (empty : s.log.order = []) (fuel : Nat) : fillLog fuel s = s := by
  cases fuel with
  | zero => rfl
  | succ fuel => simp only [fillLog, empty]

theorem fillLog_noRoom {s : State} (full : 32 ≤ s.log.entries.length) (fuel : Nat) : fillLog fuel s = s := by
  have noRoom : logHasRoom s = false := decide_eq_false (Nat.not_lt.2 full)
  cases fuel with
  | zero => rfl
  | succ fuel => cases order : s.log.order <;> simp [fillLog, order, noRoom]

theorem fillLog_writes {s : State} {w : PendingWrite} {ws : List PendingWrite} (order : s.log.order = w :: ws)
    (room : s.log.entries.length < 32) (fuel : Nat) :
    fillLog (fuel + 1) s = fillLog fuel ((s.ordering ws).waitingWritten w) := by
  have hasRoom : logHasRoom s = true := decide_eq_true room
  simp only [fillLog, order, hasRoom, if_true, writePending_eq]
  rfl

/-- The request at the front that is written comes off the writes that are left, whatever it brings. -/
theorem waitingWritten_writes (s : State) (w : PendingWrite) (ws : List PendingWrite) :
    writesWaiting ((s.ordering ws).waitingWritten w).log.order + 1 ≤ writesWaiting ws + w.writes :=
  writePending_eq w (s.ordering ws) ▸ writePending_writes w (s.ordering ws)

/-- With fuel for every write that the order can come to, the filling goes on to its end. -/
theorem fillLog_filled {fuel : Nat} {s : State} (enough : writesWaiting s.log.order ≤ fuel) : Filled s (fillLog fuel s) := by
  induction fuel generalizing s with
  | zero =>
    refine .stop s (.inl ?_)
    cases order : s.log.order with
    | nil => rfl
    | cons w ws => cases w <;> simp [order, writesWaiting, PendingWrite.writes] at enough
  | succ fuel ih =>
    cases order : s.log.order with
    | nil =>
      rw [fillLog_empty order]
      exact .stop s (.inl order)
    | cons w ws =>
      by_cases room : s.log.entries.length < 32
      · rw [fillLog_writes order room]
        have fewer := waitingWritten_writes s w ws
        have whole : writesWaiting s.log.order = w.writes + writesWaiting ws := by simp [writesWaiting, order]
        have left : writesWaiting ((s.ordering ws).waitingWritten w).log.order ≤ fuel := by omega
        exact .write s _ w ws order room (ih left)
      · rw [fillLog_noRoom (Nat.not_lt.1 room)]
        exact .stop s (.inr (Nat.not_lt.1 room))

theorem Filled.ends {s t : State} (h : Filled s t) : t.log.order = [] ∨ 32 ≤ t.log.entries.length := by
  induction h with
  | stop s done => exact done
  | write s t w ws order room rest ih => exact ih

/-- A filling takes no entry out and drops no notice. -/
theorem Filled.log {s t : State} (h : Filled s t) : s.log.entries <+: t.log.entries ∧ t.log.dropped = s.log.dropped := by
  induction h with
  | stop s done => exact ⟨List.prefix_rfl, rfl⟩
  | write s t w ws order room rest ih =>
    obtain ⟨entries, dropped⟩ := waitingWritten_log (s.ordering ws) w
    exact ⟨entries.trans ih.1, ih.2.trans dropped⟩

/-- The first entry that a filling writes is that of the request at the front of the order (R159). -/
theorem Filled.first {s t : State} (h : Filled s t) {w : PendingWrite} {ws : List PendingWrite} {b : EntryBody}
    (order : s.log.order = w :: ws) (room : s.log.entries.length < 32) (body : waitingBody s w = some b) :
    (s.withEntry b).log.entries <+: t.log.entries := by
  cases h with
  | stop s done =>
    rcases done with empty | full
    · cases order.symm.trans empty
    · omega
  | write s t w' ws' order' room' rest =>
    obtain ⟨rfl, rfl⟩ := List.cons.inj (order.symm.trans order')
    have sameBody : waitingBody (s.ordering ws) w = waitingBody s w := waitingBody_congr rfl rfl w
    exact (waitingWritten_entry (sameBody.trans body)).trans rest.log.1

end Sys2Proof.Machine

namespace Sys2Proof.Machine

open Sys2Proof

/-! ### LOG TAKE (R162) -/

/-- The n oldest entries are gone, and the notice-dropped flag is no (R162, steps 2 and 3). -/
def State.withoutOldest (s : State) (n : Nat) : State :=
  { s with log := { s.log with entries := s.log.entries.drop n, dropped := false } }

theorem takeEntries_filled (n : Nat) (s : State) : Filled (s.withoutOldest n) (takeEntries n s) :=
  fillLog_filled (writesWaiting_le s.log.order)

theorem takeEntries_kept (n : Nat) (s : State) : Kept s (takeEntries n s) :=
  have dropped : Kept s (s.withoutOldest n) := by constructor <;> rfl
  dropped.trans (fillLog_kept _ _)

/-- The reply to a take of n entries that leaves t: the number removed, the number left after the filling, and the notice-dropped
flag as it stood (R162). -/
def takeReply (n : Nat) (s t : State) : List Byte :=
  [BitVec.ofNat 8 (min n s.log.entries.length), BitVec.ofNat 8 t.log.entries.length, if s.log.dropped then 1 else 0]

theorem answered_log (s : State) (addr code : Byte) (body : List Byte) : (s.answered addr code body).log = s.log := by
  unfold State.answered
  split <;> rfl

theorem answered_owed {s : State} {addr : Byte} (named : addr ≠ 0) (speaks : s.link.quiet = false) (code : Byte)
    (body : List Byte) :
    (s.answered addr code body).link.owed = some { code := code, body := body, awaitsStore := false } := by
  have owes : ¬(addr = 0 ∨ s.link.quiet = true) := fun none_ => none_.elim named (Bool.eq_false_iff.1 speaks)
  rw [State.answered, if_neg owes]

/-- LOG TAKE as a request: the take on the state with the frame in the buffer, and its reply. -/
theorem exec_logTake {addr : Byte} {s : State} (h : Takes s addr) (n : Byte) :
    exec (.logTake addr [n]) s =
      .next
        ((takeEntries n.toNat (s.received addr 0x51 [n])).answered addr 0x51
          (takeReply n.toNat s (takeEntries n.toNat (s.received addr 0x51 [n])))) :=
  congrArg Host.Outcome.next (takeFrame_reply h (show [n].length ≤ 240 by simp) rfl rfl rfl)

/-- Settles O27: the take fills the room (`takeEntries_filled`), so that the entries, the flag and the end of the order are those
of any filling (`Filled.log`, `Filled.first`, `Filled.ends`). A full log has room once an entry is gone. -/
theorem logTakeRemovesTheOldestAndFills : Obligations.LogTakeRemovesTheOldestAndFills := by
  intro addr n s h bounded waiting
  have ⟨_, named, _⟩ := h
  let r := s.received addr 0x51 [n]
  let u := takeEntries n.toNat r
  have filled : Filled (r.withoutOldest n.toNat) u := takeEntries_filled n.toNat r
  have log : (u.answered addr 0x51 (takeReply n.toNat s u)).log = u.log := answered_log u addr 0x51 _
  have atMost : u.log.entries.length ≤ 32 := (takeEntries_tables n.toNat r).bounded bounded
  refine ⟨u.answered addr 0x51 (takeReply n.toNat s u), u, exec_logTake h n, filled, rfl, ?_⟩
  rw [log]
  refine ⟨fun w ws b order removes body => ?_, filled.log.1, filled.log.2, atMost, ?_, fun speaks => ?_, fun empty => ?_⟩
  · have full : s.log.entries.length = 32 := waiting (by simp [order])
    have room : (s.log.entries.drop n.toNat).length < 32 := by
      rw [List.length_drop]
      omega
    have sameBody : waitingBody (r.withoutOldest n.toNat) w = waitingBody s w := waitingBody_congr rfl rfl w
    exact filled.first order room (sameBody.trans body)
  · exact filled.ends.imp_right (Nat.le_antisymm atMost)
  · have quiet : u.link.quiet = false := (congrArg Link.quiet (takeEntries_kept n.toNat r).link).trans speaks
    exact answered_owed named quiet 0x51 _
  · have taken : u = r.withoutOldest n.toNat := fillLog_empty (s := r.withoutOldest n.toNat) empty _
    have left : (s.log.entries.drop n.toNat).length = s.log.entries.length - n.toNat := List.length_drop
    rw [taken, ← left]
    rfl

end Sys2Proof.Machine

namespace Sys2Proof

/-! ### The layout of a frame and its CRC (R168) -/

/-- The two characters of a CRC, low byte first (R168). -/
theorem le16_toNat (r : BitVec 16) : le16 r.toNat = [r.setWidth 8, (r >>> 8).setWidth 8] := by
  have high : BitVec.ofNat 8 (r.toNat / 256) = (r >>> 8).setWidth 8 := by
    apply BitVec.eq_of_toNat_eq
    simp [Nat.shiftRight_eq_div_pow]
  rw [le16, high, BitVec.ofNat_toNat]

theorem crc16_append (bytes : List Byte) (b : Byte) : crc16 (bytes ++ [b]) = crcByte (crc16 bytes) b := by
  simp only [crc16, List.foldl_append, List.foldl_cons, List.foldl_nil]

theorem crcBit_eq (reg : BitVec 16) (d : Bool) :
    crcBit reg d = if reg.getLsbD 15 = d then reg <<< 1 else (reg <<< 1) ^^^ 0x1021#16 := by
  unfold crcBit
  by_cases same : reg.getLsbD 15 = d
  · rw [if_pos same, if_neg (by rw [same, bne_self_eq_false]; exact Bool.false_ne_true)]
  · rw [if_neg same, if_pos (bne_iff_ne.2 same)]

theorem frameBytes_eq (addr code : Byte) (body : List Byte) :
    frameBytes addr code body =
      (addr :: code :: BitVec.ofNat 8 body.length :: body) ++
        [(crc16 (addr :: code :: BitVec.ofNat 8 body.length :: body)).setWidth 8,
          (crc16 (addr :: code :: BitVec.ofNat 8 body.length :: body) >>> 8).setWidth 8] :=
  congrArg (_ ++ ·) (le16_toNat _)

theorem crcGood_append (head : List Byte) (lo hi : Byte) :
    crcGood (head ++ [lo, hi]) = true ↔ lo = (crc16 head).setWidth 8 ∧ hi = (crc16 head >>> 8).setWidth 8 := by
  have two : (head ++ [lo, hi]).length - 2 = head.length := by simp
  unfold crcGood
  rw [decide_eq_true_iff, two, List.drop_left, List.take_left, le16_toNat]
  simp

theorem crcGood_frameBytes (addr code : Byte) (body : List Byte) : crcGood (frameBytes addr code body) = true := by
  rw [frameBytes_eq]
  exact (crcGood_append _ _ _).2 ⟨rfl, rfl⟩

/-! ### Complete and unfinished frames (R169) -/

theorem frameShaped_iff (frame : List Byte) :
    frameShaped frame = true ↔
      ∃ (addr code len : Byte) (rest : List Byte),
        frame = addr :: code :: len :: rest ∧ len.toNat ≤ 240 ∧ rest.length = len.toNat + 2 := by
  match frame with
  | [] | [_] | [_, _] => simp [frameShaped]
  | addr :: code :: len :: rest => simp [frameShaped]

theorem unfinished_iff (chars : List Byte) :
    unfinished chars = true ↔
      ∀ (addr code len : Byte) (rest : List Byte),
        chars = addr :: code :: len :: rest → len.toNat ≤ 240 ∧ rest.length < len.toNat + 2 := by
  match chars with
  | [] | [_] | [_, _] => simp [unfinished]
  | addr :: code :: len :: rest =>
    simp only [unfinished, Bool.and_eq_true, decide_eq_true_eq]
    refine ⟨fun h a c l r shape => ?_, fun h => h addr code len rest rfl⟩
    cases shape
    exact h

/-- The length character of a body that a frame can carry. -/
theorem lengthChar_toNat {body : List Byte} (short : body.length ≤ 240) :
    (BitVec.ofNat 8 body.length).toNat = body.length := by
  rw [BitVec.toNat_ofNat]
  omega

theorem frameShaped_frameBytes (addr code : Byte) {body : List Byte} (short : body.length ≤ 240) :
    frameShaped (frameBytes addr code body) = true := by
  rw [frameBytes_eq]
  refine (frameShaped_iff _).2 ⟨addr, code, BitVec.ofNat 8 body.length, _, rfl, ?_, ?_⟩
  · rwa [lengthChar_toNat short]
  · rw [lengthChar_toNat short]
    exact List.length_append

/-- A complete frame holds an address, a code, a body with its length, and two characters more (R168). -/
theorem frameShaped_parts {frame : List Byte} (h : frameShaped frame = true) :
    ∃ (addr code : Byte) (body : List Byte) (lo hi : Byte), body.length ≤ 240 ∧
      frame = (addr :: code :: BitVec.ofNat 8 body.length :: body) ++ [lo, hi] := by
  obtain ⟨addr, code, len, rest, rfl, short, length⟩ := (frameShaped_iff frame).1 h
  have whole : rest.take len.toNat ++ rest.drop len.toNat = rest := List.take_append_drop _ _
  have bodyLength : (rest.take len.toNat).length = len.toNat := by
    rw [List.length_take]
    omega
  have crcLength : (rest.drop len.toNat).length = 2 := by
    rw [List.length_drop]
    omega
  obtain ⟨lo, hi, crc⟩ := List.length_eq_two.1 crcLength
  refine ⟨addr, code, rest.take len.toNat, lo, hi, by rwa [bodyLength], ?_⟩
  rw [bodyLength, BitVec.ofNat_toNat, BitVec.setWidth_eq, List.cons_append, List.cons_append, List.cons_append, ← crc, whole]

/-- The characters of a complete frame before its last leave it unfinished. -/
theorem unfinished_take {frame : List Byte} (h : frameShaped frame = true) {n : Nat} (less : n < frame.length) :
    unfinished (frame.take n) = true := by
  obtain ⟨addr, code, len, rest, rfl, short, length⟩ := (frameShaped_iff frame).1 h
  match n with
  | 0 | 1 | 2 => rfl
  | n + 3 =>
    refine (unfinished_iff _).2 fun a c l r shape => ?_
    cases shape
    refine ⟨short, ?_⟩
    simp only [List.length_cons] at less
    rw [List.length_take]
    omega

/-- A complete frame is its characters but the last, which leave it unfinished, and the last. -/
theorem frameShaped_last {frame : List Byte} (h : frameShaped frame = true) :
    ∃ (first : Byte) (before : List Byte) (last : Byte), frame = first :: before ++ [last] ∧
      unfinished (first :: before) = true := by
  obtain ⟨addr, code, len, rest, rfl, short, length⟩ := (frameShaped_iff frame).1 h
  obtain ⟨before, last, rfl⟩ : ∃ before last, rest = before ++ [last] :=
    (List.eq_nil_or_concat' rest).resolve_left fun nothing => by simp [nothing] at length
  refine ⟨addr, code :: len :: before, last, rfl, (unfinished_iff _).2 fun a c l r shape => ?_⟩
  cases shape
  rw [List.length_append, List.length_singleton] at length
  exact ⟨short, by omega⟩

/-! ### The request that a frame spells (R170, R171) -/

theorem requestOfFrame_parts (addr code : Byte) {body : List Byte} (short : body.length ≤ 240) (lo hi : Byte) :
    requestOfFrame ((addr :: code :: BitVec.ofNat 8 body.length :: body) ++ [lo, hi]) =
      if crcGood ((addr :: code :: BitVec.ofNat 8 body.length :: body) ++ [lo, hi]) then some (requestOf addr code body)
      else none := by
  have shaped : frameShaped (addr :: code :: BitVec.ofNat 8 body.length :: (body ++ [lo, hi])) = true :=
    (frameShaped_iff _).2 ⟨addr, code, _, _, rfl, by rwa [lengthChar_toNat short], by simp [lengthChar_toNat short]⟩
  have two : (body ++ [lo, hi]).length - 2 = body.length := by simp
  simp only [List.cons_append, requestOfFrame, shaped, Bool.true_and, two, List.take_left]

theorem requestOfFrame_frameBytes (addr code : Byte) {body : List Byte} (short : body.length ≤ 240) :
    requestOfFrame (frameBytes addr code body) = some (requestOf addr code body) := by
  have good := crcGood_frameBytes addr code body
  rw [frameBytes_eq] at good ⊢
  rw [requestOfFrame_parts addr code short, if_pos good]

/-- A run of characters that spells a request is the frame of that request's address, code and body. -/
theorem requestOfFrame_some {frame : List Byte} {i : Instr} (h : requestOfFrame frame = some i) :
    ∃ (addr code : Byte) (body : List Byte), body.length ≤ 240 ∧ frame = frameBytes addr code body ∧
      i = requestOf addr code body := by
  have shaped : frameShaped frame = true := by
    unfold requestOfFrame at h
    split at h
    · split at h
      · next both => exact (Bool.and_eq_true_iff.1 both).1
      · cases h
    · cases h
  obtain ⟨addr, code, body, lo, hi, short, rfl⟩ := frameShaped_parts shaped
  rw [requestOfFrame_parts addr code short] at h
  split at h
  · next good =>
    cases h
    obtain ⟨rfl, rfl⟩ := (crcGood_append _ lo hi).1 good
    exact ⟨addr, code, body, short, (frameBytes_eq addr code body).symm, rfl⟩
  · cases h

theorem requestOfFrame_none_iff (frame : List Byte) :
    requestOfFrame frame = none ↔ frameShaped frame = false ∨ crcGood frame = false := by
  cases shaped : frameShaped frame with
  | false =>
    refine iff_of_true (Option.eq_none_iff_forall_ne_some.2 fun i spells => ?_) (.inl rfl)
    obtain ⟨addr, code, body, short, rfl, -⟩ := requestOfFrame_some spells
    rw [frameShaped_frameBytes addr code short] at shaped
    cases shaped
  | true =>
    obtain ⟨addr, code, body, lo, hi, short, rfl⟩ := frameShaped_parts shaped
    rw [requestOfFrame_parts addr code short]
    cases crcGood ((addr :: code :: BitVec.ofNat 8 body.length :: body) ++ [lo, hi]) <;> simp

theorem requestOf_feed (addr : Byte) (body : List Byte) :
    requestOf addr 0x10 body = if body = [0] then .feedOff addr body else .feedOn addr body := rfl

theorem requestOf_stationEnable (addr : Byte) (body : List Byte) :
    requestOf addr 0x12 body =
      if body.length = 2 ∧ body[1]? = some 1 then .stationEnableEnable addr body
      else if body.length = 2 ∧ body[1]? = some 2 then .stationEnableClear addr body
      else .stationEnableDisable addr body := rfl

theorem requestOf_purge (addr : Byte) (body : List Byte) :
    requestOf addr 0x41 body =
      if body.length = 3 ∧ body[0]? = some 6 then .purgeTag addr body else .purge addr body := rfl

theorem requestOf_unknown {code : Byte} (unknown : code ∉ knownCodes) (addr : Byte) (body : List Byte) :
    requestOf addr code body = .unknownRequest addr code body := by
  simp only [knownCodes, List.mem_cons, List.not_mem_nil, or_false, not_or] at unknown
  simp only [requestOf, unknown, if_false]

/-! ### The bodies of the rows that share a code (log 20) -/

theorem unknownRequest_wellFormed (addr code : Byte) (body : List Byte) :
    (Instr.unknownRequest addr code body).wellFormed = true ↔ body.length ≤ 240 ∧ code ∉ knownCodes := by
  simp only [Instr.wellFormed, bodyFits, Bool.and_eq_true, decide_eq_true_eq, Bool.not_eq_true', List.contains_eq_mem,
    decide_eq_false_iff_not]

theorem feedOn_wellFormed (addr : Byte) (body : List Byte) :
    (Instr.feedOn addr body).wellFormed = true ↔ body.length ≤ 240 ∧ body ≠ [0] := by
  simp only [Instr.wellFormed, bodyFits, Bool.and_eq_true, decide_eq_true_eq]

theorem stationEnableDisable_wellFormed (addr : Byte) (body : List Byte) :
    (Instr.stationEnableDisable addr body).wellFormed = true ↔
      body.length ≤ 240 ∧ ¬(body.length = 2 ∧ body[1]? = some 1) ∧ ¬(body.length = 2 ∧ body[1]? = some 2) := by
  simp only [Instr.wellFormed, bodyFits, Bool.and_eq_true, Bool.or_eq_true, decide_eq_true_eq, Bool.not_eq_true',
    ← Bool.not_eq_true, ← not_or, and_or_left]

theorem stationEnableEnable_wellFormed (addr : Byte) (body : List Byte) :
    (Instr.stationEnableEnable addr body).wellFormed = true ↔ body.length = 2 ∧ body[1]? = some 1 := by
  simp only [Instr.wellFormed, Bool.and_eq_true, decide_eq_true_eq]

theorem stationEnableClear_wellFormed (addr : Byte) (body : List Byte) :
    (Instr.stationEnableClear addr body).wellFormed = true ↔ body.length = 2 ∧ body[1]? = some 2 := by
  simp only [Instr.wellFormed, Bool.and_eq_true, decide_eq_true_eq]

theorem purge_wellFormed (addr : Byte) (body : List Byte) :
    (Instr.purge addr body).wellFormed = true ↔ body.length ≤ 240 ∧ ¬(body.length = 3 ∧ body[0]? = some 6) := by
  simp only [Instr.wellFormed, bodyFits, Bool.and_eq_true, decide_eq_true_eq, Bool.not_eq_true', ← Bool.not_eq_true]

theorem purgeTag_wellFormed (addr : Byte) (body : List Byte) :
    (Instr.purgeTag addr body).wellFormed = true ↔ body.length = 3 ∧ body[0]? = some 6 := by
  simp only [Instr.wellFormed, Bool.and_eq_true, decide_eq_true_eq]

/-- A well-formed request command is the one that its code and body name, and its body is one that a frame can carry: no body
of its code belongs to another row (log 20). -/
theorem requestOf_of_parts {i : Instr} {addr code : Byte} {body : List Byte} (right : i.wellFormed = true)
    (parts : requestParts i = some (addr, code, body)) : body.length ≤ 240 ∧ requestOf addr code body = i := by
  cases i with
  | assign | stationRead | lotOpen | lotClose | lotRead | programWrite | programRead | lineSettingsWrite | lineSettingsRead
  | pieceRead | logPeek | logTake | faultAck | status | quiet | resume | restart | echo =>
    cases parts
    exact ⟨of_decide_eq_true right, rfl⟩
  | unknownRequest =>
    cases parts
    obtain ⟨fits, unknown⟩ := (unknownRequest_wellFormed _ _ _).1 right
    exact ⟨fits, requestOf_unknown unknown _ _⟩
  | feedOn =>
    cases parts
    obtain ⟨fits, notOff⟩ := (feedOn_wellFormed _ _).1 right
    exact ⟨fits, if_neg notOff⟩
  | feedOff =>
    cases parts
    obtain rfl := of_decide_eq_true right
    exact ⟨by decide, rfl⟩
  | stationEnableDisable =>
    cases parts
    obtain ⟨fits, noEnable, noClear⟩ := (stationEnableDisable_wellFormed _ _).1 right
    exact ⟨fits, (if_neg noEnable).trans (if_neg noClear)⟩
  | stationEnableEnable =>
    cases parts
    have enable := (stationEnableEnable_wellFormed _ _).1 right
    refine ⟨by omega, ?_⟩
    rw [requestOf_stationEnable, if_pos enable]
  | stationEnableClear =>
    cases parts
    have clear := (stationEnableClear_wellFormed _ _).1 right
    refine ⟨by omega, ?_⟩
    rw [requestOf_stationEnable, if_neg fun enable => by simp [clear.2] at enable, if_pos clear]
  | purgeTag =>
    cases parts
    have byTag := (purgeTag_wellFormed _ _).1 right
    refine ⟨by omega, ?_⟩
    rw [requestOf_purge, if_pos byTag]
  | purge =>
    cases parts
    obtain ⟨fits, noTag⟩ := (purge_wellFormed _ _).1 right
    refine ⟨fits, ?_⟩
    rw [requestOf_purge, if_neg noTag]
  | _ => cases parts

/-- The command that a code and a body name is well formed, and is of that code and body (R171). -/
theorem requestOf_right (addr code : Byte) {body : List Byte} (short : body.length ≤ 240) :
    (requestOf addr code body).wellFormed = true ∧ requestParts (requestOf addr code body) = some (addr, code, body) := by
  by_cases known : code ∈ knownCodes
  · by_cases feed : code = 0x10
    · subst feed
      rw [requestOf_feed]
      split
      · next off => exact ⟨decide_eq_true off, rfl⟩
      · next on => exact ⟨(feedOn_wellFormed _ _).2 ⟨short, on⟩, rfl⟩
    by_cases enable : code = 0x12
    · subst enable
      rw [requestOf_stationEnable]
      split
      · next enable => exact ⟨(stationEnableEnable_wellFormed _ _).2 enable, rfl⟩
      · next noEnable =>
        split
        · next clear => exact ⟨(stationEnableClear_wellFormed _ _).2 clear, rfl⟩
        · next noClear => exact ⟨(stationEnableDisable_wellFormed _ _).2 ⟨short, noEnable, noClear⟩, rfl⟩
    by_cases purge : code = 0x41
    · subst purge
      rw [requestOf_purge]
      split
      · next byTag => exact ⟨(purgeTag_wellFormed _ _).2 byTag, rfl⟩
      · next noTag => exact ⟨(purge_wellFormed _ _).2 ⟨short, noTag⟩, rfl⟩
    simp only [knownCodes, List.mem_cons, List.not_mem_nil, or_false, feed, enable, purge, false_or] at known
    rcases known with rfl | rfl | rfl | rfl | rfl | rfl | rfl | rfl | rfl | rfl | rfl | rfl | rfl | rfl | rfl | rfl | rfl | rfl
      <;> exact ⟨decide_eq_true short, rfl⟩
  · rw [requestOf_unknown known]
    exact ⟨(unknownRequest_wellFormed _ _ _).2 ⟨short, known⟩, rfl⟩

end Sys2Proof

namespace Sys2Proof.Machine

open Sys2Proof

/-- The frame of a request command is that of its address, code and body (R168). -/
theorem frame?_eq (i : Instr) :
    i.frame? =
      match requestParts i with
      | some (addr, code, body) => some (frameBytes addr code body)
      | none => none := by
  unfold Instr.frame?
  cases requestParts i <;> rfl

/-- Settles O4: a frame is read back as the command that its code and body name (`requestOfFrame_frameBytes`), and that is the
only well-formed command of the code and the body (`requestOf_of_parts`, `requestOf_right`). -/
theorem requestFramesReadBackAsTheirCommand : Obligations.RequestFramesReadBackAsTheirCommand := by
  refine ⟨fun i frame right written => ?_, fun addr code body short => ?_, requestOfFrame_none_iff, fun _ => rfl,
    fun _ _ _ => rfl⟩
  · obtain ⟨⟨addr, code, body⟩, parts, rfl⟩ := Option.map_eq_some_iff.1 written
    obtain ⟨short, named⟩ := requestOf_of_parts right parts
    rw [← named]
    exact requestOfFrame_frameBytes addr code short
  · exact ⟨requestOf addr code body, requestOf_right addr code short, fun i ⟨right, parts⟩ =>
      (requestOf_of_parts right parts).2.symm⟩

/-- Settles O6, row by row of the table. -/
theorem requestTableOfCodesAndLengths : Obligations.RequestTableOfCodesAndLengths := by
  refine ⟨fun row listed => ?_, by decide, fun _ => rfl, rfl, rfl, fun _ _ => rfl, fun _ _ _ => rfl, frame?_eq⟩
  simp only [List.mem_cons, List.not_mem_nil, or_false] at listed
  rcases listed with rfl | rfl | rfl | rfl | rfl | rfl | rfl | rfl | rfl | rfl | rfl | rfl | rfl | rfl | rfl | rfl | rfl | rfl
    | rfl | rfl
    <;> exact ⟨by decide, fun _ => beq_iff_eq, rfl⟩

end Sys2Proof.Machine

namespace Sys2Proof.Machine

open Sys2Proof

/-! ### One character more in RECEIVING (R169) -/

theorem bufferComplete_of_shaped {b : List Byte} (h : frameShaped b = true) : bufferComplete b = true := by
  obtain ⟨addr, code, len, rest, rfl, -, length⟩ := (frameShaped_iff b).1 h
  exact decide_eq_true length

theorem bufferComplete_of_unfinished {b : List Byte} (h : unfinished b = true) : bufferComplete b = false := by
  match b with
  | [] | [_] | [_, _] => rfl
  | addr :: code :: len :: rest =>
    obtain ⟨-, fewer⟩ := (unfinished_iff _).1 h addr code len rest rfl
    exact decide_eq_false (Nat.ne_of_lt fewer)

theorem lengthTooBig_of_unfinished {b : List Byte} (h : unfinished b = true) : lengthTooBig b = false := by
  match b with
  | [] | [_] | [_, _] | _ :: _ :: _ :: _ :: _ => rfl
  | [addr, code, len] =>
    obtain ⟨short, -⟩ := (unfinished_iff _).1 h addr code len [] rfl
    exact decide_eq_false (Nat.not_lt.2 short)

theorem bufferComplete_of_third {b : List Byte} (third : b.length = 3) : bufferComplete b = false := by
  obtain ⟨addr, code, len, rfl⟩ := List.length_eq_three.1 third
  exact decide_eq_false fun nothing : 0 = len.toNat + 2 => by omega

/-- A third character above 240 is a length too big (R169). -/
theorem lengthTooBig_of_third {b : List Byte} {len : Byte} (third : (b ++ [len]).length = 3) (big : 240 < len.toNat) :
    lengthTooBig (b ++ [len]) = true := by
  have two : b.length = 2 := by simpa using third
  obtain ⟨addr, code, rfl⟩ := List.length_eq_two.1 two
  exact decide_eq_true big

section
variable {l : Link} (receiving : l.rx = .receiving)
include receiving

theorem rxChar_unfinished {c : Byte} (h : unfinished (l.buffer ++ [c]) = true) :
    rxChar l c = { l with buffer := l.buffer ++ [c] } := by
  simp [rxChar, receiving, lengthTooBig_of_unfinished h, bufferComplete_of_unfinished h]

theorem rxChar_completes {c : Byte} (h : frameShaped (l.buffer ++ [c]) = true) :
    rxChar l c = { l with rx := .skipping, buffer := l.buffer ++ [c] } := by
  simp [rxChar, receiving, bufferComplete_of_shaped h]

theorem rxChar_third {c : Byte} (third : (l.buffer ++ [c]).length = 3) (big : 240 < c.toNat) :
    rxChar l c = { l with rx := .skipping, buffer := l.buffer ++ [c] } := by
  simp [rxChar, receiving, lengthTooBig_of_third third big]

end

/-! ### A run of characters that reaches the receiver alone (R169) -/

theorem rxChars_append (l : Link) (cs ds : List Byte) : rxChars l (cs ++ ds) = rxChars (rxChars l cs) ds := List.foldl_append

/-- Characters that leave the frame unfinished join the buffer. -/
theorem rxChars_unfinished {l : Link} (receiving : l.rx = .receiving) {cs : List Byte}
    (h : unfinished (l.buffer ++ cs) = true) : rxChars l cs = { l with buffer := l.buffer ++ cs } := by
  induction cs generalizing l with
  | nil => simp [rxChars]
  | cons c cs ih =>
    have more : unfinished ((l.buffer ++ [c]) ++ cs) = true := by simpa using h
    calc rxChars l (c :: cs) = rxChars { l with buffer := l.buffer ++ [c] } cs :=
          congrArg (rxChars · cs) (rxChar_unfinished receiving (unfinished_of_append more))
      _ = { l with buffer := (l.buffer ++ [c]) ++ cs } := ih receiving more
      _ = { l with buffer := l.buffer ++ c :: cs } := by simp

section
variable {l : Link} (waiting : l.rx = .waiting)
include waiting

/-- From WAITING the characters of a frame begun fill the buffer. -/
theorem rxChars_begun {cs : List Byte} (nonempty : cs ≠ []) (h : unfinished cs = true) :
    rxChars l cs = { l with rx := .receiving, buffer := cs } := by
  obtain ⟨c, cs, rfl⟩ := List.exists_cons_of_ne_nil nonempty
  have first : rxChar l c = { l with rx := .receiving, buffer := [c] } := by simp [rxChar, waiting]
  calc rxChars l (c :: cs) = rxChars { l with rx := .receiving, buffer := [c] } cs := congrArg (rxChars · cs) first
    _ = { l with rx := .receiving, buffer := c :: cs } := rxChars_unfinished rfl h

/-- From WAITING a complete frame fills the buffer, and what comes after it is dropped. -/
theorem rxChars_frame {frame : List Byte} (h : frameShaped frame = true) (after : List Byte) :
    rxChars l (frame ++ after) = { l with rx := .skipping, buffer := frame } := by
  obtain ⟨first, before, last, rfl, begun⟩ := frameShaped_last h
  rw [rxChars_append, rxChars_append, rxChars_begun waiting (by simp) begun]
  have whole : rxChars { l with rx := .receiving, buffer := first :: before } [last] =
      { l with rx := .skipping, buffer := first :: before ++ [last] } :=
    rxChar_completes (l := { l with rx := .receiving, buffer := first :: before }) rfl h
  rw [whole]
  exact rxChars_skipping _ rfl after

/-- From WAITING a length above 240 ends the frame at its third character, and what comes after it is dropped. -/
theorem rxChars_tooLong {len : Byte} (addr code : Byte) (big : 240 < len.toNat) (after : List Byte) :
    rxChars l ([addr, code, len] ++ after) = { l with rx := .skipping, buffer := [addr, code, len] } := by
  have ended : rxChars { l with rx := .receiving, buffer := [addr, code] } [len] =
      { l with rx := .skipping, buffer := [addr, code, len] } :=
    rxChar_third (l := { l with rx := .receiving, buffer := [addr, code] }) rfl rfl big
  rw [rxChars_append, show [addr, code, len] = [addr, code] ++ [len] from rfl, rxChars_append,
    rxChars_begun waiting (by simp) rfl, ended]
  exact rxChars_skipping _ rfl after

end

/-- Settles O5: the CRC bit by bit (`crcBit_eq`), the layout (`frameBytes_eq`), and the receiver on a frame begun
(`rxChars_begun`), complete (`rxChars_frame`) or too long (`rxChars_tooLong`). -/
theorem frameCharactersFillTheBuffer : Obligations.FrameCharactersFillTheBuffer := by
  refine ⟨by decide +kernel, rfl, fun bytes b => ?_, frameBytes_eq, crcGood_append, frameShaped_iff, unfinished_iff,
    fun l waiting => ⟨fun addr code body after short => ?_, fun addr code len after big => ?_⟩⟩
  · simp only [crc16_append, crcByte, crcBit_eq]
  · have shaped := frameShaped_frameBytes addr code short
    refine ⟨rxChars_frame waiting shaped after, fun n nonempty less => ?_⟩
    refine rxChars_begun waiting (fun nothing => ?_) (unfinished_take shaped less)
    rcases List.take_eq_nil_iff.1 nothing with zero | empty
    · omega
    · rw [empty] at less
      cases less
  · exact rxChars_tooLong waiting addr code big after

end Sys2Proof.Machine

namespace Sys2Proof.Machine

open Sys2Proof

/-! ### Requests as frames that are taken (R169 to R174) -/

/-- A well-formed request command is the taking of the frame of its address, code and body. -/
theorem exec_of_parts {i : Instr} {addr code : Byte} {body : List Byte} (right : i.wellFormed = true)
    (parts : requestParts i = some (addr, code, body)) (s : State) : exec i s = .next (takeFrame addr code body s) := by
  cases i with
  | unknownRequest =>
    cases parts
    obtain ⟨-, unknown⟩ := (unknownRequest_wellFormed _ _ _).1 right
    exact congrArg Host.Outcome.next (if_neg fun known => unknown (by simpa using known))
  | feedOn | feedOff | assign | stationEnableDisable | stationEnableEnable | stationEnableClear | stationRead | lotOpen
  | lotClose | lotRead | programWrite | programRead | lineSettingsWrite | lineSettingsRead | pieceRead | purge | purgeTag
  | logPeek | logTake | faultAck | status | quiet | resume | restart | echo =>
    cases parts
    rfl
  | _ => cases parts

section
variable {code : Byte} {body : List Byte} (owner : State → State × Answer) (s : State)

theorem carryOut_unknown (unknown : code ∉ knownCodes) : carryOut code body owner s = (s, .refuse .unknownRequest) :=
  if_pos (by simpa using unknown)

theorem carryOut_badLength (known : code ∈ knownCodes) (wrong : lengthFits code body.length = false) :
    carryOut code body owner s = (s, .refuse .badLength) := by
  rw [carryOut, if_neg (by simpa using known), if_pos (by simpa using wrong)]

end

/-- Settles O7: neither request reaches its owner (`carryOut_unknown`, `carryOut_badLength`). -/
theorem unknownCodesAndWrongLengthsAreRefused : Obligations.UnknownCodesAndWrongLengthsAreRefused := by
  intro i addr code body s right parts takes
  obtain ⟨short, -⟩ := requestOf_of_parts right parts
  have ⟨_, named, _⟩ := takes
  refine ⟨fun unknown => ?_, fun known wrong => ?_⟩
  · rw [exec_of_parts right parts, takeFrame_takes takes code body short, carryOut_unknown _ _ unknown,
      owe_refuse _ addr code _ named]
    rfl
  · rw [exec_of_parts right parts, takeFrame_takes takes code body short, carryOut_badLength _ _ known wrong,
      owe_refuse _ addr code _ named]
    rfl

/-! ### Frames that are taken from the line and no more (R170, R172, R174) -/

/-- An addressed frame of another unit, or one completed while a reply is owed, changes nothing (R170, R174). -/
theorem handleFrame_notTaken {addr : Byte} {s : State} (named : addr ≠ 0)
    (other : addr.toNat ≠ s.link.address.val ∨ s.link.owed.isSome) (code : Byte) (body : List Byte) :
    handleFrame addr code body s = s := by
  rw [handleFrame, if_neg named]
  by_cases own : addr.toNat = s.link.address.val
  · rw [if_pos own, if_pos (other.resolve_left (absurd own))]
  · rw [if_neg own]

/-- A broadcast of a code that is not carried out on broadcast, or of a wrong length, changes nothing (R172). -/
theorem handleFrame_broadcast_ignored {code : Byte} {body : List Byte} (s : State)
    (ignored : broadcastCode code = false ∨ lengthFits code body.length = false) : handleFrame 0 code body s = s := by
  rw [handleFrame, if_pos rfl]
  split
  · next broadcast =>
    have wrong := ignored.resolve_left (by simp [broadcast])
    unfold carryOut
    split
    · rfl
    · rw [if_pos (by simpa using wrong)]
  · rfl

/-! ### ECHO, QUIET and RESUME (R177, R178) -/

/-- Settles O10: the owner answers with the body, and 0x63 is not carried out on broadcast. -/
theorem echoRepliesTheSameBytes : Obligations.EchoRepliesTheSameBytes := by
  refine fun addr body s short => ⟨fun takes => ?_, fun hears broadcast => ?_⟩
  · exact congrArg Host.Outcome.next (takeFrame_reply takes short rfl rfl rfl)
  · subst broadcast
    refine congrArg Host.Outcome.next ?_
    rw [takeFrame_hears hears 0 0x63 body short, handleFrame_broadcast_ignored _ (.inl rfl)]

/-- QUIET, addressed or broadcast: the owner's state, in which nothing is owed (R177). -/
theorem takeFrame_quiet {addr : Byte} {s : State} (h : TakesAny s addr) :
    takeFrame addr 0x60 [] s = (quietOwner (s.received addr 0x60 [])).1 := by
  obtain ⟨hears, rfl | addressed⟩ := h
  · rw [takeFrame_broadcast hears 0x60 [] (Nat.zero_le _) rfl, carryOut_fits _ _ rfl rfl, ownerOf_quiet]
  · rw [takeFrame_takes ⟨hears, addressed⟩ 0x60 [] (Nat.zero_le _), carryOut_fits _ _ rfl rfl, ownerOf_quiet]
    exact if_pos rfl

/-- Settles O11: QUIET by `takeFrame_quiet`, RESUME as a request that is answered. -/
theorem quietAndResumeSetTheFlag : Obligations.QuietAndResumeSetTheFlag := by
  refine fun addr s takes => ⟨?_, ?_⟩
  · exact congrArg Host.Outcome.next (takeFrame_quiet takes)
  · exact congrArg Host.Outcome.next (takeFrame_any_reply takes (Nat.zero_le _) rfl rfl rfl rfl)

end Sys2Proof.Machine

namespace Sys2Proof.Machine

open Sys2Proof

/-! ### Operations that leave the link alone and ask for no reply (R155, R177) -/

/-- What a reply depends on: the supply, the link, and the store writes that a reply may wait on. -/
def State.replying (s : State) : Bool × Link × List StoreWrite := (s.powered, s.link, s.prog.queue)

/-- From s to t the supply and the link are left alone, and while the quiet flag is yes no store write is asked for that a reply
waits on (R155, R177). -/
structure Unasked (s t : State) : Prop where
  powered : t.powered = s.powered
  link : t.link = s.link
  writes : s.link.quiet = true → ∀ w ∈ t.prog.queue, w ∈ s.prog.queue ∨ w.replies = false

/-- An operation that leaves alone what a reply depends on. -/
theorem Unasked.still {s t : State} (same : t.replying = s.replying) : Unasked s t := by
  simp only [State.replying, Prod.mk.injEq] at same
  obtain ⟨powered, link, queue⟩ := same
  exact ⟨powered, link, fun _ w hw => .inl (queue ▸ hw)⟩

theorem Unasked.refl (s : State) : Unasked s s := .still rfl

theorem Unasked.of_eq {s t : State} (h : t = s) : Unasked s t := h ▸ .refl s

theorem Unasked.trans {s t u : State} (h : Unasked s t) (k : Unasked t u) : Unasked s u where
  powered := k.powered.trans h.powered
  link := k.link.trans h.link
  writes quiet w hw := (k.writes (by rwa [h.link]) w hw).elim (h.writes quiet w) .inr

/-- An operation that starts from a state in which a reply depends on the same. -/
theorem Unasked.after {s t u : State} (h : Unasked t u) (same : t.replying = s.replying) : Unasked s u := (still same).trans h

/-- An operation that ends in a state in which a reply depends on the same. -/
theorem Unasked.upTo {s t u : State} (h : Unasked s t) (same : u.replying = t.replying) : Unasked s u := h.trans (.still same)

theorem Unasked.foldl {α : Type} {f : State → α → State} (hf : ∀ s a, Unasked s (f s a)) (l : List α) (s : State) :
    Unasked s (l.foldl f s) := by
  induction l generalizing s with
  | nil => exact .refl s
  | cons a l ih => exact (hf s a).trans (ih (f s a))

/-- A store write asked for at the back of the queue, without a reply while the quiet flag is yes (R155). -/
theorem Unasked.write {s t : State} {w : StoreWrite} (powered : t.powered = s.powered) (link : t.link = s.link)
    (queue : t.prog.queue = s.prog.queue ++ [w]) (silent : s.link.quiet = true → w.replies = false) : Unasked s t := by
  refine ⟨powered, link, fun quiet v hv => ?_⟩
  rw [queue, List.mem_append, List.mem_singleton] at hv
  exact hv.imp_right fun same => by rw [same]; exact silent quiet

/-! ### The log, releases, lots and the examination (R46, R115, R132, R133, R138, R160) -/

theorem notice_unasked (code : Nat) (pos : Pos) (s : State) : Unasked s (notice code pos s) := by
  unfold notice
  split <;> exact .still rfl

theorem startRelease_unasked (b : Bin) (s : State) : Unasked s (startRelease b s) := by
  unfold startRelease
  dsimp only
  split <;> exact .still rfl

theorem requestRelease_unasked (b : Bin) (s : State) : Unasked s (requestRelease b s) := by
  unfold requestRelease
  split
  · exact .refl s
  · split
    · exact .still rfl
    · exact startRelease_unasked b s

theorem startHeld_unasked (b : Bin) (s : State) : Unasked s (startHeld b s) := by
  unfold startHeld
  split
  · exact startRelease_unasked b s
  · exact .refl s

theorem unbindLot_unasked (i : LotSlot) (s : State) : Unasked s (unbindLot i s) := by
  unfold unbindLot
  split
  · exact .refl s
  · dsimp only
    split
    · exact (requestRelease_unasked _ s).upTo rfl
    · exact .still rfl

theorem bindLot_unasked (i : LotSlot) (s : State) : Unasked s (bindLot i s) := by
  unfold bindLot
  split
  · exact .still rfl
  · split
    · exact (unbindLot_unasked _ s).upTo rfl
    · exact .refl s

theorem grant_unasked (k : StationIx) (a : Assignment) (pr : ProgramRec) (i : LotSlot) (s : State) :
    Unasked s (grant k a pr i s) := by
  have bound : Unasked s (if s.lot.lots[i].bin.isNone then bindLot i s else s) := by
    split
    · exact bindLot_unasked i s
    · exact .refl s
  unfold grant
  dsimp only
  refine bound.trans (Unasked.trans ?_ (Unasked.foldl (fun t j => ?_) _ _))
  · exact .still rfl
  · split
    · exact .still rfl
    · exact .refl t

theorem examine_unasked (s : State) : Unasked s (examine s) :=
  examine_rel (R := Unasked) (fun _ _ _ => .still rfl) (fun k a pr i t _ _ _ => grant_unasked k a pr i t) Unasked.trans s

theorem runPause_unasked (lost : Bool) (s : State) : Unasked s (runPause lost s) := by
  unfold runPause
  split
  · split
    · exact .still rfl
    · exact .refl s
  · split
    · exact (examine_unasked _).after rfl
    · exact .refl s
  · exact .refl s

theorem measureTails_unasked (tag : Nat) (foot : LaneSet) (t : Pos) (s : State) :
    Unasked s (measureTails tag foot t s) := by
  unfold measureTails
  dsimp only
  split
  · exact (examine_unasked _).after rfl
  · exact .refl s

/-! ### Records and slots (R68, R116 to R119) -/

theorem moveRecord_unasked (tag : Nat) (z : Zone) (f : Piece → Piece) (s : State) : Unasked s (moveRecord tag z f s) := by
  unfold moveRecord
  dsimp only
  split <;> exact .still rfl

theorem makeSlot_unasked {pos : Pos} {a : SlotAction} {d : Drive} {tag : Nat} {s t : State}
    (h : makeSlot pos a d tag s = some t) : Unasked s t := by
  obtain ⟨place, rfl⟩ := makeSlot_some h
  exact .still rfl

theorem cancelSlots_unasked (tag : Nat) (places : List Nat) (s : State) : Unasked s (cancelSlots tag places s) := by
  rw [cancelSlots_eq]
  exact .still rfl

theorem removeSlot_unasked (y : Slot) (s : State) : Unasked s (removeSlot y s) := by
  rw [removeSlot_eq]
  exact .still rfl

theorem moveSlot_unasked (place : Nat) (pos : Pos) (s : State) : Unasked s (moveSlot place pos s) := by
  unfold moveSlot
  split <;> exact .still rfl

/-! ### The writer's work (R70, R140, R147, R148, R155, R159, R162) -/

theorem requestSummary_unasked (i : LotSlot) (s : State) : Unasked s (requestSummary i s) := by
  unfold requestSummary
  split <;> exact .still rfl

/-- A program record applied asks for its store write, with a reply waiting on it or not (R147). -/
theorem applyProgram_unasked (ix : ProgramIx) (pr : Program) {replies : Bool} {s : State}
    (silent : s.link.quiet = true → replies = false) : Unasked s (applyProgram ix pr replies s) :=
  have asked := Unasked.write (s := s)
    (t := { s with
      prog :=
        { s.prog with
          programs := vmod s.prog.programs ix fun _ => pr
          queue := s.prog.queue ++ [{ record := .program ix pr, replies := replies }] } }) rfl rfl rfl silent
  asked.trans (examine_unasked _)

theorem stagedIfDone_unasked (r : Piece) (s : State) : Unasked s (stagedIfDone r s) := by
  unfold stagedIfDone applyStaged
  split
  · split
    · split
      · exact (applyProgram_unasked _ _ fun _ => rfl).after rfl
      · exact .refl s
    · exact .refl s
  · exact .refl s

theorem countPiece_unasked (r : Piece) (k : CompletionKind) (s : State) : Unasked s (countPiece r k s) := by
  unfold countPiece
  rcases r.lot with _ | l <;> rcases r.program with _ | ix <;> exact .still rfl

theorem closeAndApply_unasked (r : Piece) (s : State) : Unasked s (closeAndApply r s) := by
  unfold closeAndApply
  split
  · split
    · unfold endClose
      refine Unasked.trans ?_ (requestSummary_unasked _ _)
      split
      · exact ((unbindLot_unasked _ s).trans (stagedIfDone_unasked r _)).trans (examine_unasked _)
      · exact stagedIfDone_unasked r s
    · exact stagedIfDone_unasked r s
  · exact stagedIfDone_unasked r s

theorem writePiece_unasked (tag : Nat) (s : State) : Unasked s (writePiece tag s) := by
  unfold writePiece
  split
  · split
    · next r _ _ c _ =>
      have written : Unasked s (appendEntry (.piece (pieceEntry r c)) s) := .still rfl
      have counted := written.trans (countPiece_unasked r c.kind _)
      have freed : Unasked s ((countPiece r c.kind (appendEntry (.piece (pieceEntry r c)) s)).freePiece tag) :=
        counted.upTo rfl
      exact (freed.trans (closeAndApply_unasked r _)).trans (examine_unasked _)
    · exact .refl s
  · exact .refl s

theorem requestPiece_unasked (tag : Nat) (s : State) : Unasked s (requestPiece tag s) := by
  unfold requestPiece
  split
  · exact writePiece_unasked tag s
  · exact .still rfl

theorem writePending_unasked (w : PendingWrite) (s : State) : Unasked s (writePending w s) := by
  cases w with
  | piece tag => exact writePiece_unasked tag s
  | lot i => exact .still rfl

theorem fillLog_unasked (fuel : Nat) (s : State) : Unasked s (fillLog fuel s) := by
  induction fuel generalizing s with
  | zero => exact .refl s
  | succ n ih =>
    unfold fillLog
    split
    · exact .refl s
    · split
      · refine Unasked.trans ?_ (ih _)
        exact (writePending_unasked _ _).after rfl
      · exact .refl s

theorem complete_unasked (tag : Nat) (k : CompletionKind) (st : Option Stage) (s : State) :
    Unasked s (complete tag k st s) := by
  cases hr : s.piece? tag with
  | none => exact .of_eq (by simp only [complete, hr])
  | some r =>
    obtain rfl := (piece?_some hr).2
    cases hc : r.completion with
    | some c => exact .of_eq (complete_of_done hr (by simp [hc]) k st)
    | none =>
      rw [complete_eq hr hc]
      exact (requestPiece_unasked _ _).after rfl

/-! ### Expiries and the Fold Planner (R92 to R112) -/

theorem expire_unasked (st : Stage) (tag : Nat) (s : State) : Unasked s (expire st tag s) :=
  (complete_unasked tag .lost (some st) (latchFault .lost s)).after rfl

theorem expireOrHold_unasked (st : Stage) (tag : Nat) (s : State) : Unasked s (expireOrHold st tag s) := by
  unfold expireOrHold
  split
  · split
    · exact .still rfl
    · exact expire_unasked st tag s
  · exact .refl s

theorem settleHeld_unasked (s : State) : Unasked s (settleHeld s) := by
  refine Unasked.foldl (fun t tag => ?_) _ s
  unfold settleOne
  split
  · exact .still rfl
  · split
    · exact .still rfl
    · split
      · exact .still rfl
      · split
        · exact .refl t
        · exact (expire_unasked _ tag _).after rfl

theorem becomeUndiverted_unasked (tag : Nat) (s : State) : Unasked s (becomeUndiverted tag s) := by
  unfold becomeUndiverted
  dsimp only
  split
  · split
    · exact (expireOrHold_unasked .fold tag _).after rfl
    · exact .still rfl
  · exact .still rfl

theorem lostForSlot_unasked (tag : Nat) (s : State) : Unasked s (lostForSlot tag s) :=
  (complete_unasked tag .lost (some .fold) (latchFault .noSlot (takeReason tag .slotFull s))).after rfl

theorem rejectPlan_unasked (tag : Nat) (s : State) : Unasked s (rejectPlan tag s) := by
  unfold rejectPlan
  split
  · split
    · exact .refl s
    · dsimp only
      split
      · exact (becomeUndiverted_unasked tag _).after rfl
      · split
        · next made => exact makeSlot_unasked made
        · exact lostForSlot_unasked tag s
  · exact .refl s

theorem planAway_unasked (tag : Nat) (s : State) : Unasked s (planAway tag s) := by
  unfold planAway
  split
  · exact (cancelSlots_unasked tag _ s).trans (rejectPlan_unasked tag _)
  · exact .refl s

theorem reasonArrives_unasked (tag : Nat) (why : RejectReason) (s : State) : Unasked s (reasonArrives tag why s) := by
  unfold reasonArrives
  split
  · split
    · exact .refl s
    · dsimp only
      split
      · exact (planAway_unasked tag _).after rfl
      · exact .still rfl
  · exact .refl s

theorem askAll_unasked (tag : Nat) (l : List PlanRequest) (s : State) : Unasked s (askAll tag l s) := by
  induction l generalizing s with
  | nil => exact .refl s
  | cons q l ih =>
    cases q with
    | join place => exact (ih _).after rfl
    | make pos a d =>
      unfold askAll
      split
      · next made => exact (makeSlot_unasked made).trans (ih _)
      · exact (planAway_unasked tag _).after rfl

theorem foldPlan_unasked (tag : Nat) (r : Piece) (pr : ProgramRec) (s : State) : Unasked s (foldPlan tag r pr s) := by
  have rejected (why : RejectReason) : Unasked s (rejectPlan tag (takeReason tag why s)) :=
    (rejectPlan_unasked tag _).after rfl
  unfold foldPlan
  extract_lets x len folds cross
  split
  · exact rejected .lateFold
  · clear_value cross
    cases cross with
    | none => exact askAll_unasked tag _ s
    | some q =>
      dsimp only
      split
      · exact rejected .xfConflict
      · exact askAll_unasked tag _ s
      · exact askAll_unasked tag _ s

theorem planExit_unasked (tag : Nat) (s : State) : Unasked s (planExit tag s) := by
  have estimated : Unasked s (writeEstimate tag s) := by
    unfold writeEstimate
    split
    · split <;> exact .still rfl
    · exact .refl s
  unfold planExit
  dsimp only
  split
  · split
    · split
      · exact estimated.trans (foldPlan_unasked tag _ _ _)
      · exact estimated.trans (rejectPlan_unasked tag _)
    · exact estimated.trans (rejectPlan_unasked tag _)
  · exact estimated

theorem refineSlot_unasked (tag : Nat) (x : Pos) (len : Nat) (pr : ProgramRec) (s : State) (place : Nat) :
    Unasked s (refineSlot tag x len pr s place) := by
  unfold refineSlot
  split
  · split
    · split
      · exact moveSlot_unasked _ _ s
      · exact .refl s
    · exact .refl s
  · exact .refl s

theorem exitLengthKnown_unasked (tag len : Nat) (s : State) : Unasked s (exitLengthKnown tag len s) := by
  unfold exitLengthKnown
  split
  · split
    · split
      · exact reasonArrives_unasked tag .exitMismatch s
      · exact Unasked.foldl (fun t place => refineSlot_unasked _ _ _ _ t place) _ s
    · exact .refl s
  · exact .refl s

theorem planDrop_unasked (tag : Nat) (s : State) : Unasked s (planDrop tag s) := by
  unfold planDrop
  split
  · split
    · dsimp only
      split
      · next made => exact (makeSlot_unasked made).after rfl
      · exact (lostForSlot_unasked tag _).after rfl
    · exact complete_unasked tag .stacked none s
  · exact .refl s

/-! ### The Matcher and the eyes (R9 to R17, R76 to R91) -/

theorem untracked_unasked (code : Nat) (c : Pos) (s : State) : Unasked s (untracked code c s) :=
  (notice_unasked code c s).upTo rfl

theorem leadEntry_unasked (w : Lane) (c : Pos) (s : State) : Unasked s (leadEntry w c s) := by
  have closed : Unasked s (closeEntryLane w s) := .still rfl
  unfold leadEntry
  dsimp only
  split
  · exact closed.upTo rfl
  · split
    · exact closed.trans (moveRecord_unasked _ _ _ _)
    · split
      · exact closed.upTo rfl
      · exact closed.trans (untracked_unasked _ c _)

theorem leadExit_unasked (w : Lane) (c : Pos) (s : State) : Unasked s (leadExit w c s) := by
  have closed : Unasked s (closeExitLane w s) := .still rfl
  unfold leadExit
  dsimp only
  split
  · exact closed.upTo rfl
  · split
    · exact (closed.trans (moveRecord_unasked _ _ _ _)).trans (planExit_unasked _ _)
    · split
      · have taken : Unasked s (takeRecord .fold (exitStray w c) (closeExitLane w s)).2 := closed.upTo rfl
        exact taken.trans (planExit_unasked _ _)
      · exact closed.trans (untracked_unasked _ c _)

theorem leadStacker_unasked (c : Pos) (s : State) : Unasked s (leadStacker c s) := by
  unfold leadStacker
  split
  · exact (notice_unasked 48 c s).upTo rfl
  · exact Unasked.foldl (fun t tag => (moveRecord_unasked _ _ _ t).trans (planDrop_unasked tag _)) _ s

theorem leadingEdge_unasked (e : Eye) (c : Pos) (s : State) : Unasked s (leadingEdge e c s) := by
  cases e with
  | n w => exact leadEntry_unasked w c s
  | x w => exact leadExit_unasked w c s
  | k => exact leadStacker_unasked c s

theorem lengthCheck_unasked (tag len : Nat) (pr : ProgramRec) (s : State) : Unasked s (lengthCheck tag len pr s) := by
  unfold lengthCheck
  split
  · exact reasonArrives_unasked tag .joined s
  · split
    · exact reasonArrives_unasked tag .short s
    · exact .refl s

theorem trailEntry_unasked (w : Lane) (t : Pos) (s : State) : Unasked s (trailEntry w t s) := by
  unfold trailEntry
  split
  · exact .refl s
  · dsimp only
    split
    · exact .still rfl
    · split
      · exact .still rfl
      · refine Unasked.trans ?_ (measureTails_unasked _ _ _ _)
        split
        · exact (lengthCheck_unasked _ _ _ _).after rfl
        · exact .still rfl

theorem trailExit_unasked (w : Lane) (t : Pos) (s : State) : Unasked s (trailExit w t s) := by
  unfold trailExit
  split
  · exact .refl s
  · dsimp only
    split
    · exact .still rfl
    · exact (exitLengthKnown_unasked _ _ _).after rfl

theorem trailingEdge_unasked (e : Eye) (t : Pos) (s : State) : Unasked s (trailingEdge e t s) := by
  cases e with
  | n w => exact trailEntry_unasked w t s
  | x w => exact trailExit_unasked w t s
  | k => exact .refl s

theorem goDark_unasked (e : Eye) (s : State) : Unasked s (goDark e s) := by
  unfold goDark
  split
  · exact .refl s
  · exact .still rfl

theorem goLight_unasked (e : Eye) (s : State) : Unasked s (goLight e s) := by
  unfold goLight
  dsimp only
  split
  · exact .refl s
  · split
    · exact ((trailingEdge_unasked e _ _).trans (settleHeld_unasked _)).after rfl
    · exact (settleHeld_unasked _).after rfl

theorem acceptEye_unasked (e : Eye) (s : State) : Unasked s (acceptEye e s) :=
  ((leadingEdge_unasked e _ _).trans (settleHeld_unasked _)).after rfl

theorem blockEye_unasked (e : Eye) (s : State) : Unasked s (blockEye e s) :=
  have noticed : Unasked s (notice (16 + eyeNumber e) s.line.p (s.modEye e fun x => { x with state := .blocked })) :=
    (notice_unasked _ _ _).after rfl
  noticed.upTo rfl

theorem markPassed_unasked (s : State) : Unasked s (markPassed s) := .still rfl

theorem afterForward_unasked (s : State) : Unasked s (afterForward s) := by
  have eyes : Unasked s (eyesForward { s with due := [], heldExpiry := [] }) := by
    obtain ⟨u, hu, -⟩ := foldl_eyeForward { s with due := [], heldExpiry := [] }
    unfold eyesForward
    rw [hu]
    exact (Unasked.foldl (fun t e => trailingEdge_unasked e t.line.p t) _ _).after rfl
  unfold afterForward
  dsimp only
  split
  · exact (eyes.trans (markPassed_unasked _)).upTo rfl
  · exact eyes.upTo rfl

theorem afterReverse_unasked (s : State) : Unasked s (afterReverse s) := by
  obtain ⟨u, hu, -⟩ := afterReverse_eq s
  rw [hu]
  exact .still rfl

/-! ### The panel, ESTOP and the slots that fire (R20, R113, R120 to R126) -/

theorem press_unasked (k : StationIx) (s : State) : Unasked s (press k s) := by
  unfold press
  split
  · exact (examine_unasked _).after rfl
  · exact .refl s

theorem stopAll_unasked (s : State) : Unasked s (stopAll s) := by
  unfold stopAll
  dsimp only
  rw [endRels_eq]
  exact .still rfl

theorem droppedFor_unasked (a : SlotAction) (s : State) (tag : Nat) : Unasked s (droppedFor a s tag) := by
  unfold droppedFor
  split
  · exact (becomeUndiverted_unasked tag _).after rfl
  · exact expire_unasked .fold tag s
  · exact reasonArrives_unasked tag .foldMissed s

theorem dropPassed_unasked (fuel : Nat) (s : State) : Unasked s (dropPassed fuel s) := by
  induction fuel generalizing s with
  | zero => exact .refl s
  | succ n ih =>
    unfold dropPassed
    split
    · next y _ =>
      have dropped : Unasked s (dropSlot y s) :=
        ((notice_unasked _ _ s).trans (removeSlot_unasked y _)).trans (Unasked.foldl (droppedFor_unasked y.action) _ _)
      exact dropped.trans (ih _)
    · exact .refl s

theorem releaseStop_unasked (s : State) : Unasked s (releaseStop s) :=
  have dropped : Unasked s (dropPassed Config.slotPlaces { s with inputs := { s.inputs with estop := false } }) :=
    (dropPassed_unasked _ _).after rfl
  dropped.trans (Unasked.foldl (fun t b => startHeld_unasked b t) _ _)

theorem fireSlot_unasked (y : Slot) (s : State) : Unasked s (fireSlot y s) := by
  rw [fireSlot_eq]
  exact .still rfl

theorem fireReject_unasked (y : Slot) (s : State) : Unasked s (fireReject y s) := by
  refine (fireSlot_unasked y s).trans (Unasked.foldl (fun t tag => ?_) _ _)
  split
  · exact complete_unasked tag _ none t
  · exact .refl t

theorem countDropOf_unasked (d : Drive) (r : Piece) (s : State) : Unasked s (countDropOf d r s) := by
  unfold countDropOf
  split
  · unfold countDrop
    dsimp only
    split
    · exact (requestRelease_unasked _ _).after rfl
    · exact .still rfl
  · exact .refl s

theorem fireDrop_unasked (y : Slot) (s : State) : Unasked s (fireDrop y s) := by
  refine (fireSlot_unasked y s).trans (Unasked.foldl (fun t tag => ?_) _ _)
  split
  · exact (countDropOf_unasked _ _ t).trans (complete_unasked tag .stacked none _)
  · exact .refl t

end Sys2Proof.Machine

namespace Sys2Proof.Machine

open Sys2Proof

/-! ### The owners of the requests (R171) -/

theorem feedOwner_unasked (body : List Byte) (s : State) : Unasked s (feedOwner body s).1 := by
  have on : Unasked s (turnFeedOn s).1 := by
    unfold turnFeedOn
    split
    · exact .refl s
    · dsimp only
      split
      · exact .refl s
      · split
        · exact .still rfl
        · split
          · exact (examine_unasked (s.setFeed .run)).after rfl
          · exact .still rfl
  unfold feedOwner
  split
  · exact .still rfl
  · exact on
  · exact .refl s

theorem assignOwner_unasked (body : List Byte) (s : State) : Unasked s (assignOwner body s).1 := by
  unfold assignOwner
  dsimp only
  split
  · exact .refl s
  · split
    · exact .still rfl
    · split
      · split
        · exact .still rfl
        · exact .refl s
      · exact .refl s

theorem enableOwner_unasked (body : List Byte) (s : State) : Unasked s (enableOwner body s).1 := by
  unfold enableOwner
  split
  · exact .refl s
  · split
    · exact .still rfl
    · unfold doEnable
      dsimp only [enableReply]
      split
      · exact (examine_unasked _).after rfl
      · exact .still rfl
    · unfold doClear
      split
      · exact .still rfl
      · exact .refl s
    · exact .refl s

theorem lotOpenOwner_unasked (body : List Byte) (s : State) : Unasked s (lotOpenOwner body s).1 := by
  unfold lotOpenOwner
  dsimp only
  split
  · exact .refl s
  · split
    · exact .refl s
    · split
      · exact .refl s
      · split
        · exact .refl s
        · exact .still rfl

theorem closeLot_unasked (i : LotSlot) (s : State) : Unasked s (closeLot i s) := by
  unfold closeLot
  dsimp only
  split
  · unfold endClose
    refine Unasked.trans ?_ (requestSummary_unasked i _)
    split
    · refine Unasked.trans ?_ (examine_unasked _)
      exact (unbindLot_unasked i _).after rfl
    · exact .still rfl
  · exact .still rfl

theorem lotCloseOwner_unasked (body : List Byte) (s : State) : Unasked s (lotCloseOwner body s).1 := by
  unfold lotCloseOwner
  split
  · exact .refl s
  · dsimp only
    split
    · exact closeLot_unasked _ s
    · exact .refl s

/-- A program record applied by a request has a reply wait on its store write unless the quiet flag is yes (R146, R147). -/
theorem programWriteOwner_unasked (body : List Byte) (s : State) : Unasked s (programWriteOwner body s).1 := by
  unfold programWriteOwner
  split
  · exact .refl s
  · split
    · exact .refl s
    · split
      · exact .refl s
      · split
        · exact applyProgram_unasked _ _ fun quiet => by rw [quiet]; rfl
        · exact .still rfl

theorem leaveBin_unasked (s : State) (b : Bin) : Unasked s (leaveBin s b) := by
  unfold leaveBin
  split
  · exact .refl s
  · split
    · exact .refl s
    · next i _ =>
      dsimp only
      split
      · exact (unbindLot_unasked i s).trans (requestSummary_unasked i _)
      · exact unbindLot_unasked i s

/-- A settings record put in force asks for its store write, with a reply waiting on it unless the quiet flag is yes (R153). -/
theorem putSettings_unasked (c : LineSettings) (s : State) : Unasked s (putSettings c (!s.link.quiet) s) := by
  obtain ⟨u, -, put⟩ := putSettings_eq c (!s.link.quiet) s
  rw [put]
  have bins : Unasked s
      (if c.binsEnabled < s.prog.settings.binsEnabled then examine (allBins.foldl leaveBin (inForce c u s))
        else inForce c u s) := by
    have forced : Unasked s (inForce c u s) := .still rfl
    split
    · exact (forced.trans (Unasked.foldl leaveBin_unasked allBins _)).trans (examine_unasked _)
    · exact forced
  have asked (t : State) (quiet : t.link.quiet = s.link.quiet) : Unasked t (storeAsked c (!s.link.quiet) t) :=
    .write rfl rfl rfl fun silent => by rw [← quiet, silent]; rfl
  exact bins.trans (asked _ (congrArg Link.quiet bins.link))

theorem settingsWriteOwner_unasked (body : List Byte) (s : State) : Unasked s (settingsWriteOwner body s).1 := by
  unfold settingsWriteOwner
  split
  · exact .refl s
  · split
    · exact .refl s
    · split
      · exact .refl s
      · exact putSettings_unasked _ s

theorem purgeAll_unasked (tags : List Nat) (s : State) : Unasked s (purgeAll tags s) :=
  Unasked.foldl (fun t tag => complete_unasked tag .purged none t) tags s

theorem purgeOwner_unasked (body : List Byte) (s : State) : Unasked s (purgeOwner body s).1 := by
  unfold purgeOwner
  split
  · unfold purgeByTag
    split
    · exact .refl s
    · split
      · exact .refl s
      · exact purgeAll_unasked _ s
  · split
    · exact .refl s
    · exact purgeAll_unasked _ s

theorem logTakeOwner_unasked (body : List Byte) (s : State) : Unasked s (logTakeOwner body s).1 :=
  (fillLog_unasked _ _).after rfl

theorem acknowledge_unasked (s : State) : Unasked s (acknowledge s) := by
  unfold acknowledge
  split
  · unfold releaseHeld
    split
    · split
      · exact (examine_unasked _).after rfl
      · exact .still rfl
    · exact .still rfl
  · exact .refl s

theorem Unasked.ite {p : Prop} [Decidable p] {f g : State → State × Answer} {s : State} (hf : Unasked s (f s).1)
    (hg : Unasked s (g s).1) : Unasked s ((if p then f else g) s).1 := by
  split
  · exact hf
  · exact hg

/-- Every request but QUIET, RESUME and RESTART leaves the link to its answer (R171, R177, R179). -/
theorem ownerOf_unasked {code : Byte} (quiet : code ≠ 0x60) (resume : code ≠ 0x61) (restart : code ≠ 0x62) (body : List Byte)
    (s : State) : Unasked s (ownerOf code body s).1 := by
  obtain ⟨stationRead, lotRead, programRead, pieceRead, logPeek⟩ := readOwners_still body s
  unfold ownerOf
  rw [if_neg quiet, if_neg resume, if_neg restart]
  exact .ite (feedOwner_unasked body s) <| .ite (assignOwner_unasked body s) <| .ite (enableOwner_unasked body s) <|
    .ite (.of_eq stationRead) <| .ite (lotOpenOwner_unasked body s) <| .ite (lotCloseOwner_unasked body s) <|
    .ite (.of_eq lotRead) <| .ite (programWriteOwner_unasked body s) <| .ite (.of_eq programRead) <|
    .ite (settingsWriteOwner_unasked body s) <| .ite (.refl s) <| .ite (.of_eq pieceRead) <| .ite (purgeOwner_unasked body s) <|
    .ite (.of_eq logPeek) <| .ite (logTakeOwner_unasked body s) <| .ite (acknowledge_unasked s) <| .ite (.refl s) (.refl s)

/-! ### The supply and the receiver's state through a request (R169, R170) -/

/-- What decides whether and how a character is heard: the supply, and the state of the receiver (R169). -/
def State.hearing (s : State) : Bool × RxState := (s.powered, s.link.rx)

theorem Unasked.hearing {s t : State} (h : Unasked s t) : t.hearing = s.hearing := by
  rw [State.hearing, State.hearing, h.powered, h.link]

theorem ownerOf_hearing (code : Byte) (body : List Byte) (s : State) : (ownerOf code body s).1.hearing = s.hearing := by
  by_cases quiet : code = 0x60
  · subst quiet
    rfl
  by_cases resume : code = 0x61
  · subst resume
    rfl
  by_cases restart : code = 0x62
  · subst restart
    obtain ⟨u, hu, -⟩ := restartAll_eq s
    show (restartAll s).hearing = s.hearing
    rw [hu]
    rfl
  exact (ownerOf_unasked quiet resume restart body s).hearing

/-- What holds of a state and of what the owner of a code does with it holds of a request of the code carried out (R173). -/
theorem carryOut_of_owner {p : State → Prop} {code : Byte} {body : List Byte} {owner : State → State × Answer} {s : State}
    (refused : p s) (carried : p (owner s).1) : p (carryOut code body owner s).1 := by
  unfold carryOut
  split
  · exact refused
  · split
    · exact refused
    · exact carried

/-- What holds of a state, of what the owners of the requests do with it, and of whatever is owed then, holds of a frame handled
(R170, R172 to R174). -/
theorem handleFrame_of_owner {p : State → Prop} {addr code : Byte} {body : List Byte} {s : State} (ignored : p s)
    (carried : p (ownerOf code body s).1) (owes : ∀ a t, p t → p (owe code a t)) : p (handleFrame addr code body s) := by
  have done : p (carryOut code body (ownerOf code body) s).1 := carryOut_of_owner ignored carried
  unfold handleFrame
  split
  · split
    · exact done
    · exact ignored
  · split
    · split
      · exact ignored
      · exact owes _ _ done
    · exact ignored

theorem handleFrame_hearing (addr code : Byte) (body : List Byte) (s : State) :
    (handleFrame addr code body s).hearing = s.hearing := by
  refine handleFrame_of_owner (p := fun t => t.hearing = s.hearing) rfl (ownerOf_hearing code body s) fun a t same => ?_
  unfold owe
  split
  · exact same
  · exact same

/-- What holds of a state and of the frame in its buffer handled holds of the buffer taken (R170). -/
theorem takeBuffer_of_frame {p : State → Prop} {s : State} (ignored : p s)
    (handled : ∀ addr code body, p (handleFrame addr code body s)) : p (takeBuffer s) := by
  unfold takeBuffer
  split
  · split
    · exact handled _ _ _
    · exact ignored
  · exact ignored

theorem takeBuffer_hearing (s : State) : (takeBuffer s).hearing = s.hearing :=
  takeBuffer_of_frame (p := fun t => t.hearing = s.hearing) rfl fun addr code body => handleFrame_hearing addr code body s

theorem receiveChar_powered (s : State) (c : Byte) : (receiveChar s c).powered = s.powered := by
  unfold receiveChar
  dsimp only
  split
  · exact congrArg Prod.fst (takeBuffer_hearing (s.modLink (rxChar · c)))
  · rfl

theorem receiveChars_powered (s : State) (cs : List Byte) : (receiveChars s cs).powered = s.powered := by
  induction cs generalizing s with
  | nil => rfl
  | cons c cs ih => exact (ih (receiveChar s c)).trans (receiveChar_powered s c)

/-! ### Nothing is owed while the unit is quiet (R177) -/

theorem QuietOwesNothing.of_speaking {s : State} (speaks : s.link.quiet = false) : QuietOwesNothing s := fun quiet =>
  Bool.noConfusion (quiet.symm.trans speaks)

theorem QuietOwesNothing.unasked {s t : State} (h : QuietOwesNothing s) (k : Unasked s t) : QuietOwesNothing t := by
  intro quiet
  rw [k.link] at quiet ⊢
  obtain ⟨nothing, writes⟩ := h quiet
  exact ⟨nothing, fun w hw => (k.writes quiet w hw).elim (writes w) id⟩

/-- A change of the link in neither the quiet flag nor the reply owed. -/
theorem QuietOwesNothing.modLink {s : State} (h : QuietOwesNothing s) {f : Link → Link}
    (quiet : (f s.link).quiet = s.link.quiet) (owed : (f s.link).owed = s.link.owed) : QuietOwesNothing (s.modLink f) :=
  fun silent => ⟨owed.trans (h (quiet.symm.trans silent)).1, (h (quiet.symm.trans silent)).2⟩

theorem dropOwed_owesNothing (s : State) : QuietOwesNothing (dropOwed s) := by
  refine fun _ => ⟨rfl, fun w hw => ?_⟩
  obtain ⟨v, -, rfl⟩ := List.mem_map.1 hw
  rfl

section
variable {s : State} (h : QuietOwesNothing s)
include h

theorem ownerOf_owesNothing (code : Byte) (body : List Byte) : QuietOwesNothing (ownerOf code body s).1 := by
  by_cases quiet : code = 0x60
  · subst quiet
    exact dropOwed_owesNothing _
  by_cases resume : code = 0x61
  · subst resume
    exact .of_speaking rfl
  by_cases restart : code = 0x62
  · subst restart
    exact dropOwed_owesNothing _
  exact h.unasked (ownerOf_unasked quiet resume restart body s)

theorem owe_owesNothing (code : Byte) (a : Answer) : QuietOwesNothing (owe code a s) := by
  unfold owe
  split
  · exact h
  · next speaks => exact .of_speaking (Bool.eq_false_iff.2 speaks)

theorem handleFrame_owesNothing (addr code : Byte) (body : List Byte) : QuietOwesNothing (handleFrame addr code body s) :=
  handleFrame_of_owner h (ownerOf_owesNothing h code body) fun a _ k => owe_owesNothing k code a

theorem receiveChar_owesNothing (c : Byte) : QuietOwesNothing (receiveChar s c) := by
  have joined : QuietOwesNothing (s.modLink (rxChar · c)) := by
    refine h.modLink ?_ ?_
    · unfold rxChar
      split <;> rfl
    · unfold rxChar
      split <;> rfl
  unfold receiveChar
  dsimp only
  split
  · exact takeBuffer_of_frame joined fun addr code body => handleFrame_owesNothing joined addr code body
  · exact joined

theorem receiveChars_owesNothing (cs : List Byte) : QuietOwesNothing (receiveChars s cs) := by
  induction cs generalizing s with
  | nil => exact h
  | cons c cs ih => exact ih (receiveChar_owesNothing h c)

theorem takeFrame_owesNothing (addr code : Byte) (body : List Byte) : QuietOwesNothing (takeFrame addr code body s) := by
  unfold takeFrame
  split
  · exact h
  · split
    · exact receiveChars_owesNothing h _
    · split
      · exact h.modLink rfl rfl
      · have received : QuietOwesNothing (s.received addr code body) := h.modLink rfl rfl
        exact handleFrame_owesNothing received addr code body

theorem sendReply_owesNothing : QuietOwesNothing (sendReply s) := by
  unfold sendReply
  split
  · exact h
  · split
    · exact h
    · split
      · next quiet => exact fun _ => ⟨rfl, (h quiet).2⟩
      · next speaks => exact .of_speaking (Bool.eq_false_iff.2 speaks)

/-- The end of a store write: with the quiet flag yes no reply waited for it (R155, R175). -/
theorem storeWriteEnd_owesNothing {w : StoreWrite} {rest : List StoreWrite} (queue : s.prog.queue = w :: rest) :
    QuietOwesNothing
      { s with
        prog := { storeEntry s.prog w.record with queue := rest }
        link := if w.replies then { s.link with owed := s.link.owed.map storeReady } else s.link } := by
  have left (quiet : s.link.quiet = true) (v : StoreWrite) (hv : v ∈ rest) : v.replies = false :=
    (h quiet).2 v (by rw [queue]; exact List.mem_cons_of_mem w hv)
  cases w.replies with
  | false => exact fun quiet => ⟨(h quiet).1, left quiet⟩
  | true => exact fun quiet => ⟨congrArg (Option.map storeReady) (h quiet).1, left quiet⟩

theorem failSupply_owesNothing : QuietOwesNothing (failSupply s) := by
  intro quiet
  obtain ⟨nothing, writes⟩ := h quiet
  cases queue : s.prog.queue with
  | nil =>
    rw [failSupply_noWrites queue]
    exact ⟨nothing, writes⟩
  | cons w rest =>
    rw [failSupply_writes queue]
    exact ⟨nothing, nofun⟩

end

theorem switchOn_owesNothing (smp : PowerSamples) (s : State) : QuietOwesNothing (switchOn smp s) := by
  obtain ⟨u, hu, -⟩ := resetEyes_eq (poweredUp smp s)
  rw [switchOn_eq, hu]
  exact .of_speaking rfl

/-! ### Every step keeps the quiet unit from owing (R177) -/

theorem whenPowered_owesNothing {f : State → State} {s t : State} (h : QuietOwesNothing s) (hf : QuietOwesNothing (f s))
    (run : whenPowered f s = .next t) : QuietOwesNothing t := by
  unfold whenPowered at run
  split at run
  · cases run
    exact hf
  · cases run
    exact h

theorem whenPowered_unasked {f : State → State} {s t : State} (hf : Unasked s (f s)) (h : whenPowered f s = .next t) :
    Unasked s t := by
  unfold whenPowered at h
  split at h
  · cases h
    exact hf
  · cases h
    exact .refl s

/-- Every command leaves a quiet unit owing nothing (R177). -/
theorem exec_owesNothing {c : Instr} {s t : State} (h : QuietOwesNothing s) (run : exec c s = .next t) :
    QuietOwesNothing t := by
  have frame {addr code : Byte} {body : List Byte}
      (g : (.next (takeFrame addr code body s) : Host.Outcome State Fault Refusal) = .next t) : QuietOwesNothing t := by
    cases g
    exact takeFrame_owesNothing h addr code body
  have kept {f : State → State} (hf : Unasked s (f s)) (g : whenPowered f s = .next t) : QuietOwesNothing t :=
    h.unasked (whenPowered_unasked hf g)
  cases c with
  | powerOn smp =>
    cases run
    exact switchOn_owesNothing smp _
  | countedEdge ch =>
    simp only [exec, execCountedEdge] at run
    refine kept ?_ run
    split
    · exact (afterForward_unasked _).after rfl
    · exact (afterReverse_unasked _).after rfl
  | invalidTransition =>
    rcases Bool.eq_false_or_eq_true s.powered with on | off
    · rw [exec_invalidTransition on] at run
      cases run
      have cleared : Unasked s (speedCleared s) := .still rfl
      exact h.unasked (((cleared.trans (runPause_unasked true _)).trans (notice_unasked 1 s.line.p _)).upTo rfl)
    · rw [exec_off off fun _ e => Instr.noConfusion e] at run
      cases run
      exact h
  | speedWindowEnd =>
    simp only [exec, execSpeedWindowEnd] at run
    refine kept ?_ run
    exact (runPause_unasked _ { s with line := endWindow s.line }).after rfl
  | eyeDark e =>
    simp only [exec, execEyeDark] at run
    exact kept (goDark_unasked e s) run
  | eyeLight e =>
    simp only [exec, execEyeLight] at run
    exact kept (goLight_unasked e s) run
  | eyeAccept e =>
    simp only [exec, execEyeAccept] at run
    refine kept ?_ run
    split
    · exact (acceptEye_unasked e (dropDue (.accept e) s)).after rfl
    · exact .refl s
  | eyeBlocked e =>
    simp only [exec, execEyeBlocked] at run
    refine kept ?_ run
    split
    · exact (blockEye_unasked e (dropDue (.block e) s)).after rfl
    · exact .refl s
  | loadPress k =>
    simp only [exec, execLoadPress] at run
    refine kept ?_ run
    split
    · exact .refl s
    · exact (press_unasked k (s.setButton k true)).after rfl
  | relPulseEnd k =>
    simp only [exec, execRelPulseEnd] at run
    refine kept ?_ run
    split
    · exact .still rfl
    · exact .refl s
  | pulseEnd c =>
    simp only [exec, execPulseEnd] at run
    refine kept ?_ run
    split
    · exact .refl s
    · split
      · exact (startHeld_unasked _ _).after rfl
      · exact .still rfl
  | estopActive =>
    simp only [exec, execEstopActive] at run
    refine kept ?_ run
    split
    · exact .refl s
    · exact stopAll_unasked s
  | estopInactive =>
    simp only [exec, execEstopInactive] at run
    refine kept ?_ run
    split
    · exact releaseStop_unasked s
    · exact .refl s
  | keyChange key =>
    simp only [exec, execKeyChange] at run
    refine kept ?_ run
    split <;> exact .still rfl
  | lineRunChange active =>
    simp only [exec, execLineRunChange] at run
    refine kept ?_ run
    exact (runPause_unasked _ { s with inputs := { s.inputs with lineRun := active } }).after rfl
  | grantStep =>
    simp only [exec, execGrantStep] at run
    refine kept ?_ run
    split
    · exact (examine_unasked (dropDue .grant s)).after rfl
    · exact .refl s
  | windowExpiry stage =>
    simp only [exec, execWindowExpiry] at run
    refine kept ?_ run
    split
    · next tag _ => exact (expireOrHold_unasked stage tag (dropDue (.expiry tag) s)).after rfl
    · exact .refl s
  | foldSlotFire =>
    simp only [exec, execFoldSlotFire] at run
    refine kept ?_ run
    split
    · split
      · exact fireSlot_unasked _ s
      · exact .refl s
    · exact .refl s
  | rejectSlotFire =>
    simp only [exec, execRejectSlotFire] at run
    refine kept ?_ run
    split
    · split
      · exact fireReject_unasked _ s
      · exact .refl s
    · exact .refl s
  | dropSlotFire =>
    simp only [exec, execDropSlotFire] at run
    refine kept ?_ run
    split
    · split
      · exact fireDrop_unasked _ s
      · exact .refl s
    · exact .refl s
  | idleUnbind slot =>
    simp only [exec, execIdleUnbind] at run
    refine kept ?_ run
    split
    · have unbound : Unasked s (unbindLot slot (dropDue (.idle slot) s)) := (unbindLot_unasked slot _).after rfl
      exact unbound.trans (examine_unasked _)
    · exact .refl s
  | loadButtonRelease k =>
    simp only [exec, execLoadButtonRelease] at run
    exact kept (.still rfl) run
  | storeWriteEnd =>
    rcases Bool.eq_false_or_eq_true s.powered with on | off
    · cases queue : s.prog.queue with
      | nil =>
        simp only [exec, execStoreWriteEnd] at run
        refine kept ?_ run
        simp only [queue]
        exact .refl s
      | cons w rest =>
        rw [exec_storeWriteEnd_underWay on queue] at run
        cases run
        exact storeWriteEnd_owesNothing h queue
    · rw [exec_off off fun _ e => Instr.noConfusion e] at run
      cases run
      exact h
  | reply =>
    simp only [exec, execReply] at run
    exact whenPowered_owesNothing h (sendReply_owesNothing h) run
  | powerFail =>
    simp only [exec, execPowerFail] at run
    exact whenPowered_owesNothing h (failSupply_owesNothing h) run
  | lineQuiet chars =>
    simp only [exec, execLineQuiet] at run
    exact whenPowered_owesNothing h ((receiveChars_owesNothing h chars).modLink rfl rfl) run
  | frameDiscarded f =>
    simp only [exec, execFrameDiscarded] at run
    exact whenPowered_owesNothing h (receiveChars_owesNothing h f) run
  | parityOrFramingError chars =>
    simp only [exec, execParityOrFramingError] at run
    refine whenPowered_owesNothing h ?_ run
    split
    · refine (receiveChars_owesNothing h _).modLink ?_ ?_
      · unfold rxError
        split <;> rfl
      · unfold rxError
        split <;> rfl
    · exact h
  | lengthAbove240 addr code len =>
    simp only [exec, execLengthAbove240] at run
    refine whenPowered_owesNothing h ?_ run
    split
    · exact receiveChars_owesNothing h _
    · exact h
  | unknownRequest addr code body =>
    cases run
    split
    · exact h
    · exact takeFrame_owesNothing h addr code body
  | _ => exact frame run

/-- Settles O12: every operation below the requests leaves the link alone and has no reply wait on a store write that it asks
for (`Unasked`), a request has one wait, or is owed a reply, only while the flag is no, and QUIET and RESTART drop what is owed. -/
theorem stepKeepsQuietOwesNothing : Obligations.StepKeepsQuietOwesNothing := by
  intro s t h run
  unfold step at run
  split at run
  · cases run
    unfold idleTick
    split
    · exact h
    · exact h
  · next c rest _ => exact exec_owesNothing (s := { s with pending := rest }) h run

end Sys2Proof.Machine

namespace Sys2Proof.Machine

open Sys2Proof

/-! ### The frame in the buffer taken (R170) -/

/-- A good frame in the buffer is handled with its address, code and body. -/
theorem takeBuffer_frameBytes {s : State} {addr code : Byte} {body : List Byte}
    (buffer : s.link.buffer = frameBytes addr code body) : takeBuffer s = handleFrame addr code body s := by
  have good := crcGood_frameBytes addr code body
  rw [← buffer] at good
  have rest (lo hi : Byte) : (body ++ [lo, hi]).take ((body ++ [lo, hi]).length - 2) = body := by simp
  rw [takeBuffer_eq s addr code _ _ (buffer.trans (frameBytes_eq addr code body)), if_pos good]
  exact congrArg (handleFrame addr code · s) (rest _ _)

/-- A run of characters that spells no request changes nothing once it fills the buffer. -/
theorem takeBuffer_badCrc {s : State} (bad : crcGood s.link.buffer = false) : takeBuffer s = s := by
  unfold takeBuffer
  split
  · rw [bad]
    rfl
  · rfl

/-- A request that a frame spells is carried out from WAITING as the frame in the buffer is taken. -/
theorem exec_spelled {s : State} (h : Hears s) {frame : List Byte} {j : Instr} (spells : requestOfFrame frame = some j) :
    exec j s = .next (takeBuffer (s.modLink fun l => { l with rx := .skipping, buffer := frame })) := by
  obtain ⟨addr, code, body, short, rfl, rfl⟩ := requestOfFrame_some spells
  obtain ⟨right, parts⟩ := requestOf_right addr code short
  rw [exec_of_parts right parts, takeFrame_hears h addr code body short, takeBuffer_frameBytes rfl]
  rfl

/-! ### Characters one by one, into the state (R169, R170) -/

/-- From WAITING the first character begins a frame. -/
theorem receiveChars_begins {s : State} (waiting : s.link.rx = .waiting) (c : Byte) (cs : List Byte) :
    receiveChars s (c :: cs) = receiveChars (s.modLink fun l => { l with rx := .receiving, buffer := [c] }) cs := by
  have first : receiveChar s c = s.modLink fun l => { l with rx := .receiving, buffer := [c] } := by
    simp [receiveChar, rxChar, waiting, State.modLink]
  exact congrArg (receiveChars · cs) first

/-- From WAITING the characters of a frame begun fill the buffer. -/
theorem receiveChars_begun {s : State} (waiting : s.link.rx = .waiting) {cs : List Byte} (nonempty : cs ≠ [])
    (h : unfinished cs = true) :
    receiveChars s cs = s.modLink fun l => { l with rx := .receiving, buffer := cs } := by
  obtain ⟨c, cs, rfl⟩ := List.exists_cons_of_ne_nil nonempty
  rw [receiveChars_begins waiting]
  exact receiveChars_unfinished _ cs rfl h

/-- A third character above 240 ends the frame begun (R169). -/
theorem receiveChar_third {s : State} (receiving : s.link.rx = .receiving) {c : Byte}
    (third : (s.link.buffer ++ [c]).length = 3) (big : 240 < c.toNat) :
    receiveChar s c = s.modLink fun l => { l with rx := .skipping, buffer := l.buffer ++ [c] } := by
  simp [receiveChar, State.modLink, rxChar_third receiving third big, bufferComplete_of_third third]

section
variable {s : State} (receiving : s.link.rx = .receiving) {before : List Byte} {c : Byte}
  (begun : unfinished (s.link.buffer ++ before) = true)
include receiving begun

/-- Characters before one that ends the frame, that one, and what comes after it. -/
theorem receiveChars_split (after : List Byte) :
    receiveChars s (before ++ c :: after) =
      receiveChars (receiveChar (s.modLink fun l => { l with buffer := l.buffer ++ before }) c) after := by
  rw [receiveChars_append, receiveChars_unfinished s before receiving begun]
  rfl

theorem receiveChars_tooLong (third : (s.link.buffer ++ before ++ [c]).length = 3) (big : 240 < c.toNat) (after : List Byte) :
    receiveChars s (before ++ c :: after) =
      s.modLink fun l => { l with rx := .skipping, buffer := l.buffer ++ before ++ [c] } := by
  rw [receiveChars_split receiving begun,
    receiveChar_third (s := s.modLink fun l => { l with buffer := l.buffer ++ before }) receiving third big]
  exact receiveChars_skipping _ rfl after

/-- Once a frame is complete the receiver is in SKIPPING, whatever the frame asks for, and drops what comes after it. -/
theorem receiveChars_completes (shaped : frameShaped (s.link.buffer ++ before ++ [c]) = true) (after : List Byte) :
    receiveChars s (before ++ c :: after) =
      takeBuffer (s.modLink fun l => { l with rx := .skipping, buffer := l.buffer ++ before ++ [c] }) := by
  rw [receiveChars_split receiving begun,
    receiveChar_completes (s.modLink fun l => { l with buffer := l.buffer ++ before }) c receiving shaped]
  exact receiveChars_skipping _ (congrArg Prod.snd (takeBuffer_hearing _)) after

end

/-- From WAITING a complete frame is taken. -/
theorem receiveChars_frame {s : State} (waiting : s.link.rx = .waiting) {frame : List Byte}
    (shaped : frameShaped frame = true) :
    receiveChars s frame = takeBuffer (s.modLink fun l => { l with rx := .skipping, buffer := frame }) := by
  obtain ⟨first, before, last, rfl, begun⟩ := frameShaped_last shaped
  rw [List.cons_append, receiveChars_begins waiting]
  exact receiveChars_completes (s := s.modLink fun l => { l with rx := .receiving, buffer := [first] }) rfl begun shaped []

/-! ### Rows that bring a run of characters (R169, log 9) -/

section
variable {s : State} (on : s.powered = true)
include on

theorem exec_frameDiscarded (frame : List Byte) : exec (.frameDiscarded frame) s = .next (receiveChars s frame) :=
  whenPowered_on on (receiveChars · frame)

theorem exec_lineQuiet (chars : List Byte) : exec (.lineQuiet chars) s = .next ((receiveChars s chars).modLink rxQuiet) :=
  whenPowered_on on fun s => (receiveChars s chars).modLink rxQuiet

theorem exec_parityOrFramingError (chars : List Byte) (bad : Byte) :
    exec (.parityOrFramingError (chars ++ [bad])) s = .next ((receiveChars s chars).modLink (rxError bad)) := by
  simp only [exec, execParityOrFramingError, whenPowered_on on, List.getLast?_append, List.getLast?_singleton,
    Option.some_or, List.dropLast_concat]

theorem exec_badCharacter (bad : Byte) : exec (.parityOrFramingError [bad]) s = .next (s.modLink (rxError bad)) :=
  exec_parityOrFramingError on [] bad

theorem exec_lengthAbove240 {len : Byte} (big : 240 < len.toNat) (addr code : Byte) :
    exec (.lengthAbove240 addr code len) s = .next (receiveChars s [addr, code, len]) := by
  simp only [exec, execLengthAbove240, whenPowered_on on]
  exact congrArg Host.Outcome.next (if_pos big)

/-- Outside WAITING the characters of a row reach the receiver one by one (log 9). -/
theorem exec_row_outside_waiting {i : Instr} {chars : List Byte} (right : i.wellFormed = true) (row : rowChars i = some chars)
    (outside : s.link.rx ≠ .waiting) : exec i s = .next (receiveChars s chars) := by
  unfold rowChars at row
  split at row
  · cases row
    exact exec_frameDiscarded on _
  · cases row
    exact exec_lengthAbove240 on (of_decide_eq_true right) _ _
  · obtain ⟨⟨addr, code, body⟩, parts, rfl⟩ := Option.map_eq_some_iff.1 row
    rw [exec_of_parts right parts]
    simp only [takeFrame, on, outside, Bool.not_true, Bool.false_eq_true, if_false, ne_eq, not_false_eq_true, if_true]

theorem exec_reply : exec .reply s = .next (sendReply s) := whenPowered_on on sendReply

end

/-- A frame that is not taken, from WAITING: it fills the buffer, and asks for nothing (R170, R172, R174). -/
theorem exec_notTaken {i : Instr} {addr code : Byte} {body : List Byte} {s : State} (right : i.wellFormed = true)
    (parts : requestParts i = some (addr, code, body)) (hears : Hears s)
    (reason : (addr ≠ 0 ∧ (addr.toNat ≠ s.link.address.val ∨ s.link.owed.isSome)) ∨
      (addr = 0 ∧ (broadcastCode code = false ∨ lengthFits code body.length = false))) :
    exec i s = .next (s.received addr code body) := by
  obtain ⟨short, -⟩ := requestOf_of_parts right parts
  rw [exec_of_parts right parts, takeFrame_hears hears addr code body short]
  rcases reason with ⟨named, other⟩ | ⟨rfl, ignored⟩
  · exact congrArg Host.Outcome.next (handleFrame_notTaken (s := s.received addr code body) named other code body)
  · rw [handleFrame_broadcast_ignored _ ignored]

/-- Settles O8: in WAITING the frame is handled and asks for nothing; outside WAITING the characters go one by one
(`exec_row_outside_waiting`), and a frame that they complete is taken as from WAITING (`exec_spelled`). -/
theorem framesNotForThisUnitChangeOnlyTheReceiver : Obligations.FramesNotForThisUnitChangeOnlyTheReceiver := by
  refine ⟨fun i addr code body s => exec_notTaken, fun i chars s on right row => ?_⟩
  have joins (outside : s.link.rx ≠ .waiting) := exec_row_outside_waiting on right row outside
  refine ⟨fun skipping => ?_, fun receiving => ?_, fun waiting frame discarded j spells => ?_⟩
  · rw [joins (by simp [skipping]), receiveChars_skipping s skipping]
  · rw [joins (by simp [receiving])]
    refine ⟨fun begun => ?_, fun before after c split begun => ?_⟩
    · exact congrArg Host.Outcome.next (receiveChars_unfinished s chars receiving begun)
    rw [split]
    refine ⟨fun third big => ?_, fun shaped => ?_⟩
    · exact congrArg Host.Outcome.next (receiveChars_tooLong receiving begun third big after)
    rw [receiveChars_completes receiving begun shaped]
    refine ⟨fun nothing => ?_, fun j spells => ?_⟩
    · have bad := ((requestOfFrame_none_iff _).1 nothing).resolve_left (by rw [shaped]; exact Bool.noConfusion)
      exact congrArg Host.Outcome.next (takeBuffer_badCrc bad)
    · exact (exec_spelled (s := { s with link := { s.link with rx := .waiting } }) ⟨on, rfl⟩ spells).symm
  · obtain ⟨addr, code, body, short, shape, -⟩ := requestOfFrame_some spells
    have shaped : frameShaped frame = true := shape ▸ frameShaped_frameBytes addr code short
    rw [discarded, exec_frameDiscarded on, receiveChars_frame waiting shaped, exec_spelled ⟨on, waiting⟩ spells]

/-! ### The events of the line (R169, R170) and the reply (R173, R175) -/

/-- A complete frame with a bad CRC, one of another unit, or one completed while a reply is owed changes nothing once it fills
the buffer (R170, R174). -/
theorem takeBuffer_discarded {s : State} (shaped : frameShaped s.link.buffer = true)
    (reason : crcGood s.link.buffer = false ∨
      (s.link.buffer.headD 0 ≠ 0 ∧ ((s.link.buffer.headD 0).toNat ≠ s.link.address.val ∨ s.link.owed.isSome))) :
    takeBuffer s = s := by
  rcases reason with bad | ⟨named, other⟩
  · exact takeBuffer_badCrc bad
  · obtain ⟨addr, code, len, rest, buffer, -, -⟩ := (frameShaped_iff _).1 shaped
    rw [buffer] at named other
    rw [takeBuffer_eq s addr code len rest buffer]
    split
    · exact handleFrame_notTaken named other code _
    · rfl

theorem sendReply_nothing {s : State} (nothing : s.link.owed = none) : sendReply s = s := by
  simp only [sendReply, nothing]

section
variable {s : State} {o : Owed} (owed : s.link.owed = some o)
include owed

theorem sendReply_awaits (awaits : o.awaitsStore = true) : sendReply s = s := by
  simp [sendReply, owed, awaits]

theorem sendReply_quiet (ready : o.awaitsStore = false) (quiet : s.link.quiet = true) :
    sendReply s = { s with link := { s.link with owed := none } } := by
  simp [sendReply, owed, ready, quiet, State.modLink]

theorem sendReply_speaks (ready : o.awaitsStore = false) (speaks : s.link.quiet = false) :
    sendReply s =
      { s with
        link :=
          { s.link with
            owed := none, rx := .skipping
            sent := some (frameBytes (BitVec.ofNat 8 s.link.address.val) o.code o.body) } } := by
  simp [sendReply, owed, ready, speaks, State.modLink, replyFrame]

end

/-- Settles O9: each row of the line is its characters and then its event (`exec_lineQuiet`, `exec_parityOrFramingError`), and
REPLY by what is owed and by the quiet flag. -/
theorem lineEventsAndTheReply : Obligations.LineEventsAndTheReply := by
  intro s on
  refine ⟨exec_lineQuiet on [], fun waiting => ⟨fun chars begun nonempty => ⟨?_, fun bad => ?_⟩, fun bad => ?_,
    fun addr code len big => ?_, fun frame shaped reason => ?_⟩, fun bad => ⟨fun receiving => ?_, fun skipping => ?_⟩,
    fun chars t run => ?_, fun nothing => ?_, fun o owed => ⟨fun awaits => ?_, fun ready quiet => ?_, fun ready speaks => ?_⟩⟩
  · rw [exec_lineQuiet on, receiveChars_begun waiting nonempty begun]
    simp only [State.modLink, rxQuiet, ← waiting]
  · rw [exec_parityOrFramingError on, receiveChars_begun waiting nonempty begun]
    rfl
  · rw [exec_badCharacter on]
    simp only [rxError, waiting, State.modLink]
  · rw [exec_lengthAbove240 on big, receiveChars_begins waiting]
    exact congrArg Host.Outcome.next
      (receiveChars_tooLong (s := s.modLink fun l => { l with rx := .receiving, buffer := [addr] }) (before := [code]) rfl rfl
        rfl big [])
  · rw [exec_frameDiscarded on, receiveChars_frame waiting shaped]
    exact congrArg Host.Outcome.next (takeBuffer_discarded
      (s := s.modLink fun l => { l with rx := .skipping, buffer := frame }) shaped reason)
  · rw [exec_badCharacter on]
    simp only [rxError, receiving, State.modLink]
  · rw [exec_badCharacter on]
    simp only [rxError, skipping, State.modLink]
  · rw [exec_frameDiscarded on] at run
    cases run
    refine ⟨exec_lineQuiet on chars, fun bad => ?_⟩
    rw [exec_parityOrFramingError on, exec_badCharacter ((receiveChars_powered s chars).trans on)]
  · rw [exec_reply on, sendReply_nothing nothing]
  · rw [exec_reply on, sendReply_awaits owed awaits]
  · rw [exec_reply on, sendReply_quiet owed ready quiet]
  · rw [exec_reply on, sendReply_speaks owed ready speaks]

end Sys2Proof.Machine

namespace Sys2Proof.Machine

open Sys2Proof

/-! ### Operations above those of `Kept` leave the queue of waiting commands (log 2) -/

theorem foldl_pending {α : Type} {f : State → α → State} (hf : ∀ s a, (f s a).pending = s.pending) (l : List α) (s : State) :
    (l.foldl f s).pending = s.pending := by
  induction l generalizing s with
  | nil => rfl
  | cons a l ih => exact (ih (f s a)).trans (hf s a)

theorem ite_pending {p : Prop} [Decidable p] {s t u : State} (ht : t.pending = s.pending) (hu : u.pending = s.pending) :
    (if p then t else u).pending = s.pending := by
  split
  · exact ht
  · exact hu

/-! ### The eyes and the counted edge (R9 to R18, R94, R124) -/

theorem settleHeld_pending (s : State) : (settleHeld s).pending = s.pending := by
  refine foldl_pending (fun t tag => ?_) _ s
  unfold settleOne
  split
  · rfl
  · split
    · rfl
    · exact ite_pending rfl (ite_pending rfl (expire_kept _ tag _).pending)

theorem takeUp_pending (e : Eye) (s : State) : (takeUp e s).pending = s.pending := rfl

theorem resetEyes_pending (s : State) : (resetEyes s).pending = s.pending := foldl_pending (fun t e => takeUp_pending e t) _ s

theorem goDark_pending (e : Eye) (s : State) : (goDark e s).pending = s.pending := ite_pending rfl rfl

theorem goLight_pending (e : Eye) (s : State) : (goLight e s).pending = s.pending :=
  ite_pending rfl ((settleHeld_pending _).trans (ite_pending (trailingEdge_kept e _ _).pending rfl))

theorem acceptEye_pending (e : Eye) (s : State) : (acceptEye e s).pending = s.pending :=
  (settleHeld_pending _).trans (leadingEdge_kept e _ _).pending

theorem blockEye_pending (e : Eye) (s : State) : (blockEye e s).pending = s.pending :=
  (latchFault_kept _ _).pending.trans (notice_kept _ _ _).pending

theorem eyesForward_pending (s : State) : (eyesForward s).pending = s.pending :=
  (eyesForward_kept s).pending.trans (foldl_pending (f := eyeForward) (fun _ _ => rfl) _ s)

theorem afterForward_pending (s : State) : (afterForward s).pending = s.pending :=
  have eyes : (eyesForward { s with due := [], heldExpiry := [] }).pending = s.pending := eyesForward_pending _
  ite_pending (t := markPassed (eyesForward { s with due := [], heldExpiry := [] })) eyes eyes

theorem afterReverse_pending (s : State) : (afterReverse s).pending = s.pending :=
  foldl_pending (f := eyeReverse) (fun _ _ => rfl) _ { s with due := [], heldExpiry := [] }

/-! ### The panel, ESTOP and the slots that fire (R20, R23, R115, R120 to R126) -/

theorem press_pending (k : StationIx) (s : State) : (press k s).pending = s.pending := by
  unfold press
  split
  · exact (examine_kept _).pending
  · rfl

theorem endRel_pending (k : StationIx) (s : State) : (endRel k s).pending = s.pending := rfl

theorem stopAll_pending (s : State) : (stopAll s).pending = s.pending :=
  foldl_pending (fun t k => endRel_pending k t) allStations { s with inputs := { s.inputs with estop := true } }

theorem releaseStop_pending (s : State) : (releaseStop s).pending = s.pending :=
  (foldl_pending (fun t b => (startHeld_kept b t).pending) _ _).trans (dropPassed_keeps _ _).2.pending

theorem fireSlot_pending (y : Slot) (s : State) : (fireSlot y s).pending = s.pending :=
  (fireDrive_kept _ _).pending.trans (removeSlot_kept y _).pending

theorem fireReject_pending (y : Slot) (s : State) : (fireReject y s).pending = s.pending := by
  refine (foldl_pending (fun t tag => ?_) _ _).trans (fireSlot_pending y s)
  split
  · exact (complete_kept tag _ none t).pending
  · rfl

theorem countDropOf_pending (d : Drive) (r : Piece) (s : State) : (countDropOf d r s).pending = s.pending := by
  unfold countDropOf
  split
  · exact ite_pending (requestRelease_kept _ _).pending rfl
  · rfl

theorem fireDrop_pending (y : Slot) (s : State) : (fireDrop y s).pending = s.pending := by
  refine (foldl_pending (fun t tag => ?_) _ _).trans (fireSlot_pending y s)
  split
  · exact (complete_kept tag .stacked none _).pending.trans (countDropOf_pending _ _ t)
  · rfl

/-! ### The supply and the reply (R155, R175, R179, R180) -/

theorem failSupply_pending (s : State) : (failSupply s).pending = s.pending := rfl

theorem switchOn_pending (smp : PowerSamples) (s : State) : (switchOn smp s).pending = s.pending := resetEyes_pending _

theorem restartAll_pending (s : State) : (restartAll s).pending = s.pending := resetEyes_pending _

theorem sendReply_pending (s : State) : (sendReply s).pending = s.pending := by
  unfold sendReply
  split
  · rfl
  · exact ite_pending rfl (ite_pending rfl rfl)

end Sys2Proof.Machine

namespace Sys2Proof.Machine

open Sys2Proof

/-! ### The owners of the requests leave the queue of waiting commands (R171) -/

theorem feedOwner_pending (body : List Byte) (s : State) : (feedOwner body s).1.pending = s.pending := by
  have on : (turnFeedOn s).1.pending = s.pending := by
    unfold turnFeedOn
    split
    · rfl
    · exact ite_pending rfl (ite_pending rfl (ite_pending (enterRun_kept s).pending rfl))
  unfold feedOwner
  split
  · rfl
  · exact on
  · rfl

theorem carryAssign_pending (k : StationIx) (a : Option Assignment) (s : State) : (carryAssign k a s).1.pending = s.pending := rfl

theorem assignOwner_pending (body : List Byte) (s : State) : (assignOwner body s).1.pending = s.pending := by
  unfold assignOwner
  dsimp only
  split
  · rfl
  · split
    · exact carryAssign_pending _ _ s
    · split
      · split
        · exact carryAssign_pending _ _ s
        · rfl
      · rfl

theorem doEnable_pending (k : StationIx) (s : State) : (doEnable k s).1.pending = s.pending :=
  ite_pending (examine_kept _).pending rfl

theorem doClear_pending (k : StationIx) (s : State) : (doClear k s).1.pending = s.pending := by
  unfold doClear
  split <;> rfl

theorem enableOwner_pending (body : List Byte) (s : State) : (enableOwner body s).1.pending = s.pending := by
  unfold enableOwner
  split
  · rfl
  · split
    · rfl
    · exact doEnable_pending _ s
    · exact doClear_pending _ s
    · rfl

theorem lotOpenOwner_pending (body : List Byte) (s : State) : (lotOpenOwner body s).1.pending = s.pending := by
  unfold lotOpenOwner
  dsimp only
  split
  · rfl
  · split
    · rfl
    · split
      · rfl
      · split <;> rfl

theorem closeLot_pending (i : LotSlot) (s : State) : (closeLot i s).pending = s.pending :=
  ite_pending (endClose_kept i Kept.refl (s.modLot i fun l => { l with state := .closing })).pending rfl

theorem lotCloseOwner_pending (body : List Byte) (s : State) : (lotCloseOwner body s).1.pending = s.pending := by
  unfold lotCloseOwner
  split
  · rfl
  · exact ite_pending (closeLot_pending _ s) rfl

theorem programWriteOwner_pending (body : List Byte) (s : State) : (programWriteOwner body s).1.pending = s.pending := by
  unfold programWriteOwner
  split
  · rfl
  · split
    · rfl
    · split
      · rfl
      · split
        · exact (applyProgram_kept _ _ _ s).pending
        · rfl

theorem leaveBin_pending (s : State) (b : Bin) : (leaveBin s b).pending = s.pending := by
  unfold leaveBin
  split
  · rfl
  · split
    · rfl
    · next i _ =>
      have unbound := (unbindLot_kept i s).pending
      exact ite_pending ((requestSummary_kept i _).pending.trans unbound) unbound

theorem putSettings_pending (c : LineSettings) (replies : Bool) (s : State) : (putSettings c replies s).pending = s.pending := by
  obtain ⟨u, -, put⟩ := putSettings_eq c replies s
  rw [put]
  exact ite_pending ((examine_kept _).pending.trans (foldl_pending leaveBin_pending allBins (inForce c u s))) rfl

theorem settingsWriteOwner_pending (body : List Byte) (s : State) : (settingsWriteOwner body s).1.pending = s.pending := by
  unfold settingsWriteOwner
  split
  · rfl
  · split
    · rfl
    · split
      · rfl
      · exact putSettings_pending _ _ s

theorem purgeOwner_pending (body : List Byte) (s : State) : (purgeOwner body s).1.pending = s.pending := by
  unfold purgeOwner
  split
  · unfold purgeByTag
    split
    · rfl
    · split
      · rfl
      · exact (purgeAll_kept _ s).pending
  · split
    · rfl
    · exact (purgeAll_kept _ s).pending

theorem releaseHeld_pending (s : State) : (releaseHeld s).pending = s.pending :=
  ite_pending (ite_pending (enterRun_kept s).pending rfl) rfl

theorem faultAckOwner_pending (s : State) : (faultAckOwner s).1.pending = s.pending :=
  ite_pending (releaseHeld_pending { s with latch := FaultLatch.clear }) rfl

/-- Of two owners, either of which may be called for, each leaves the queue. -/
theorem ownerIte_pending {p : Prop} [Decidable p] {f g : State → State × Answer} {s : State}
    (hf : (f s).1.pending = s.pending) (hg : (g s).1.pending = s.pending) :
    ((if p then f else g) s).1.pending = s.pending := by
  split
  · exact hf
  · exact hg

theorem ownerOf_pending (code : Byte) (body : List Byte) (s : State) : (ownerOf code body s).1.pending = s.pending := by
  obtain ⟨stationRead, lotRead, programRead, pieceRead, logPeek⟩ := readOwners_still body s
  exact
    ownerIte_pending (feedOwner_pending body s) <| ownerIte_pending (assignOwner_pending body s) <|
    ownerIte_pending (enableOwner_pending body s) <| ownerIte_pending (congrArg State.pending stationRead) <|
    ownerIte_pending (lotOpenOwner_pending body s) <| ownerIte_pending (lotCloseOwner_pending body s) <|
    ownerIte_pending (congrArg State.pending lotRead) <| ownerIte_pending (programWriteOwner_pending body s) <|
    ownerIte_pending (congrArg State.pending programRead) <| ownerIte_pending (settingsWriteOwner_pending body s) <|
    ownerIte_pending (f := settingsReadOwner) rfl <| ownerIte_pending (congrArg State.pending pieceRead) <|
    ownerIte_pending (purgeOwner_pending body s) <| ownerIte_pending (congrArg State.pending logPeek) <|
    ownerIte_pending (f := logTakeOwner body) (takeEntries_kept _ s).pending <| ownerIte_pending (faultAckOwner_pending s) <|
    ownerIte_pending (f := statusOwner) rfl <| ownerIte_pending (f := quietOwner) rfl <|
    ownerIte_pending (f := resumeOwner) rfl <| ownerIte_pending (f := restartOwner) (restartAll_pending s) rfl

/-! ### The taking of a frame leaves the queue of waiting commands (R169, R170, R172 to R174) -/

theorem owe_pending (code : Byte) (a : Answer) (s : State) : (owe code a s).pending = s.pending := ite_pending rfl rfl

theorem handleFrame_pending (addr code : Byte) (body : List Byte) (s : State) :
    (handleFrame addr code body s).pending = s.pending :=
  handleFrame_of_owner (p := fun t => t.pending = s.pending) rfl (ownerOf_pending code body s) fun a t same =>
    (owe_pending code a t).trans same

theorem takeBuffer_pending (s : State) : (takeBuffer s).pending = s.pending :=
  takeBuffer_of_frame (p := fun t => t.pending = s.pending) rfl fun addr code body => handleFrame_pending addr code body s

theorem receiveChar_pending (s : State) (c : Byte) : (receiveChar s c).pending = s.pending :=
  ite_pending (takeBuffer_pending (s.modLink (rxChar · c))) rfl

theorem receiveChars_pending (s : State) (cs : List Byte) : (receiveChars s cs).pending = s.pending :=
  foldl_pending receiveChar_pending cs s

theorem takeFrame_pending (addr code : Byte) (body : List Byte) (s : State) :
    (takeFrame addr code body s).pending = s.pending :=
  ite_pending rfl <| ite_pending (receiveChars_pending s _) <| ite_pending rfl <|
    handleFrame_pending addr code body (s.received addr code body)

end Sys2Proof.Machine

namespace Sys2Proof.Machine

open Sys2Proof

/-! ### Every command is carried out (log 2) -/

/-- A command on s answers a next state, in which the commands that wait in the queue are those of s. -/
def CarriedOut (s : State) (o : Host.Outcome State Fault Refusal) : Prop := ∃ t, o = .next t ∧ t.pending = s.pending

theorem CarriedOut.next {s t : State} (h : t.pending = s.pending) : CarriedOut s (.next t) := ⟨t, rfl, h⟩

/-- With the supply on the command has its effect, with the supply off none (log 11): both are next states. -/
theorem whenPowered_carriedOut {f : State → State} {s : State} (h : (f s).pending = s.pending) :
    CarriedOut s (whenPowered f s) := by
  unfold whenPowered
  split
  · exact .next h
  · exact .next rfl

theorem execPulseEnd_carriedOut (c : OutChannel) (s : State) : CarriedOut s (execPulseEnd c s) := by
  refine whenPowered_carriedOut ?_
  split
  · rfl
  · dsimp only
    split
    · exact (startHeld_kept _ _).pending
    · rfl

/-- Every row's effect is a next state that keeps the queue; a request's is its frame taken, the last case. -/
theorem exec_carriedOut (c : Instr) (s : State) : CarriedOut s (exec c s) := by
  cases c with dsimp only [exec]
  | powerOn smp => exact .next ((switchOn_pending smp _).trans (ite_pending (failSupply_pending s) rfl))
  | countedEdge ch => exact whenPowered_carriedOut (ite_pending (afterForward_pending _) (afterReverse_pending _))
  | invalidTransition =>
    exact whenPowered_carriedOut
      ((latchFault_kept _ _).pending.trans ((notice_kept _ _ _).pending.trans (runPause_kept true _).pending))
  | speedWindowEnd => exact whenPowered_carriedOut (runPause_kept _ _).pending
  | eyeDark e => exact whenPowered_carriedOut (goDark_pending e s)
  | eyeLight e => exact whenPowered_carriedOut (goLight_pending e s)
  | eyeAccept e => exact whenPowered_carriedOut (ite_pending (acceptEye_pending e _) rfl)
  | eyeBlocked e => exact whenPowered_carriedOut (ite_pending (blockEye_pending e _) rfl)
  | loadPress k => exact whenPowered_carriedOut (ite_pending rfl (press_pending k _))
  | loadButtonRelease k => exact whenPowered_carriedOut rfl
  | relPulseEnd k =>
    refine whenPowered_carriedOut ?_
    split
    · exact endRel_pending k _
    · rfl
  | pulseEnd c => exact execPulseEnd_carriedOut c s
  | estopActive => exact whenPowered_carriedOut (ite_pending rfl (stopAll_pending s))
  | estopInactive => exact whenPowered_carriedOut (ite_pending (releaseStop_pending s) rfl)
  | keyChange key => exact whenPowered_carriedOut (ite_pending rfl rfl)
  | lineRunChange active => exact whenPowered_carriedOut (runPause_kept _ _).pending
  | grantStep => exact whenPowered_carriedOut (ite_pending (examine_kept _).pending rfl)
  | windowExpiry stage =>
    refine whenPowered_carriedOut ?_
    split
    · exact (expireOrHold_kept stage _ _).pending
    · rfl
  | foldSlotFire =>
    refine whenPowered_carriedOut ?_
    split
    · exact ite_pending (fireSlot_pending _ s) rfl
    · rfl
  | rejectSlotFire =>
    refine whenPowered_carriedOut ?_
    split
    · exact ite_pending (fireReject_pending _ s) rfl
    · rfl
  | dropSlotFire =>
    refine whenPowered_carriedOut ?_
    split
    · exact ite_pending (fireDrop_pending _ s) rfl
    · rfl
  | idleUnbind slot =>
    exact whenPowered_carriedOut (ite_pending ((examine_kept _).pending.trans (unbindLot_kept slot _).pending) rfl)
  | storeWriteEnd =>
    refine whenPowered_carriedOut ?_
    split
    · rfl
    · exact ite_pending rfl rfl
  | reply => exact whenPowered_carriedOut (sendReply_pending s)
  | powerFail => exact whenPowered_carriedOut (failSupply_pending s)
  | lineQuiet chars => exact whenPowered_carriedOut (receiveChars_pending s chars)
  | frameDiscarded f => exact whenPowered_carriedOut (receiveChars_pending s f)
  | parityOrFramingError chars =>
    refine whenPowered_carriedOut ?_
    split
    · exact receiveChars_pending s _
    · rfl
  | lengthAbove240 addr code len => exact whenPowered_carriedOut (ite_pending (receiveChars_pending s _) rfl)
  | unknownRequest addr code body => exact .next (ite_pending rfl (takeFrame_pending addr code body s))
  | _ => exact .next (takeFrame_pending _ _ _ s)

/-- Settles O3: no row but POWER_ON acts without supply, a request is its frame taken, and every operation leaves the queue. -/
theorem everyCommandAnswersNextAndKeepsTheQueue : Obligations.EveryCommandAnswersNextAndKeepsTheQueue := exec_carriedOut

/-- Settles O1: on a queue with a front the step is that command's `exec`. -/
theorem stepTakesTheFrontCommand : Obligations.StepTakesTheFrontCommand := by
  intro c rest s front
  unfold step
  rw [front]

end Sys2Proof.Machine
